-- ==== Sys2Proof/Word.lean ====
section
/-! DEFINITION. The two machine words of the block: the 32-bit word of rule R7 and the byte of rule R162. -/

namespace Sys2Proof

/-- The 32-bit word of every register and memory cell (00_scope.md R7). Signed readings are `toInt`,
unsigned ones `toNat`. -/
abbrev Word := BitVec 32

/-- One byte, the unit in which the host sees memory (20_memory.md R162). -/
abbrev Byte := BitVec 8

/-- The least 32-bit value, `-2^31` (00_scope.md R9, `sat32`). -/
def minWord : Int := -2147483648

/-- The greatest 32-bit value, `2^31 - 1` (00_scope.md R9, `sat32`). -/
def maxWord : Int := 2147483647

/-- The word that stands for an integer, modulo `2^32`. -/
def wordOf (v : Int) : Word := BitVec.ofInt 32 v

end Sys2Proof
end

