-- ==== Sys2Proof/Config.lean ====
section
/-! DEFINITION. The build parameters and fixed sizes of 00_scope.md R6, and the free values of the spec. -/

namespace Sys2Proof

/-- The build parameters of 00_scope.md R6 that a machine may choose. `NCH` is 16 in every build. -/
structure Params where
  nv : Nat
  ndl : Nat
  nlfo : Nat
  nflt : Nat
  nslot : Nat
  sramWords : Nat
  deriving DecidableEq, Repr

/-- The default of every parameter (00_scope.md R6). -/
def Params.default : Params :=
  { nv := 32, ndl := 16, nlfo := 8, nflt := 8, nslot := 4, sramWords := 65536 }

/-- The legal range of every parameter (00_scope.md R6). -/
def Params.legal (p : Params) : Bool :=
  decide (1 ≤ p.nv ∧ p.nv ≤ 32 ∧ 1 ≤ p.ndl ∧ p.ndl ≤ 64 ∧ 1 ≤ p.nlfo ∧ p.nlfo ≤ 64 ∧
    1 ≤ p.nflt ∧ p.nflt ≤ 8 ∧ 1 ≤ p.nslot ∧ p.nslot ≤ 16 ∧
    4096 ≤ p.sramWords ∧ p.sramWords ≤ 2 ^ 24)

namespace Config

/-- `NCH`, the number of channel-state entries (00_scope.md R6). -/
def nch : Nat := 16

/-- The identity word (00_scope.md R2). -/
def idWord : Word := 0x46580007

/-- `OFFSET_MAX`, the largest envelope value (00_scope.md R6). -/
def offsetMax : Int := 0x3FFFFFFF

/-- `LFO_N`, the length of the LFO wavetable (00_scope.md R6). -/
def lfoN : Nat := 512

/-- `ENV_TAB_SHIFT`, from envelope value to table index (00_scope.md R6). -/
def envTabShift : Nat := 20

/-- Words of table RAM (20_memory.md R150). -/
def tramWords : Nat := 2560

/-- First word of ENV_EARLY_TAB (20_memory.md R155). -/
def envEarlyTab : Nat := 0

/-- First word of ENV_LATE_TAB (20_memory.md R155). -/
def envLateTab : Nat := 1024

/-- First word of LFO_SINE_TAB (20_memory.md R155). -/
def lfoSineTab : Nat := 2048

/-- SRAM_INIT: what sample RAM holds at power-on, by byte address (70_reset_and_hazards.md R902,
93 U1, U2). A free value: the spec lets no model assume any. Log 3, safe. -/
opaque sramInit : Nat → Byte

/-- TRAM_INIT: what table RAM holds at power-on, by byte address (70_reset_and_hazards.md R902,
93 U1, U2, U14). A free value. Log 3, safe. -/
opaque tramInit : Nat → Byte

/-- What a host read of the command port returns, by the count of free values taken so far: the port
takes host writes only (20_memory.md R150) and the spec states no value. A free value. Log 8, safe. -/
opaque commandPortRead : Nat → Word

/-- FATAL_ADDR after an allocation whose total does not fit 32 bits: 60_exceptions.md R807 gives the
total, and the register holds 32 bits. A free value. Log 18, safe. -/
opaque wideTotal : Nat → Word

end Config
end Sys2Proof
end

