-- ==== Sys2Proof/Syntax.lean ====
section
/-! DEFINITION. The commands of the block: one constructor for each row of spec/opcode_table.json
(30_encoding.md R210). A constructor holds exactly the fields its row uses (R206): register numbers,
`imm` the 14-bit immediate, and `u`, `n`, `slot`, `mask` for the same immediate used as an index or mask. -/

namespace Sys2Proof

/-- One command (30_encoding.md R210). -/
inductive Instr where
  | nop
  | lui (rd imm22 : Nat)
  | ori (rd rs1 imm : Nat)
  | adds (rd rs1 rs2 : Nat)
  | subs (rd rs1 rs2 : Nat)
  | rdreg (rd rs1 imm : Nat)
  | wrreg (rs1 rs2 imm : Nat)
  | lds (rd rs1 imm : Nat)
  | sts (rs1 rs2 imm : Nat)
  | accs (rs1 rs2 imm : Nat)
  | fmul8 (rd rs1 rs2 : Nat)
  | fmul16 (rd rs1 rs2 : Nat)
  | fmul24 (rd rs1 rs2 : Nat)
  | fmul28 (rd rs1 rs2 : Nat)
  | fdiv8 (rd rs1 rs2 : Nat)
  | fdiv16 (rd rs1 rs2 : Nat)
  | fdiv24 (rd rs1 rs2 : Nat)
  | fdiv28 (rd rs1 rs2 : Nat)
  | dlcfg (rs1 rs2 u : Nat)
  | dlwr (rs1 u : Nat)
  | dlrd (rd rs1 u : Nat)
  | dlmrd (rd rs1 rs2 u : Nat)
  | comb (rd rs1 u : Nat)
  | apf (rd rs1 u : Nat)
  | lfocfg (rs1 rs2 u : Nat)
  | lfostep (rd u : Nat)
  | bq (rd rs1 u : Nat)
  | svf (rd rs1 u : Nat)
  | moog (rd rs1 u : Nat)
  | fclr (u : Nat)
  | envupd (rd n : Nat)
  | envamp (rd n : Nat)
  | tremupd (n : Nat)
  | menvupd (n : Nat)
  | mixsmooth (n : Nat)
  | mixv (rd rs1 rs2 n : Nat)
  | fxinit (slot : Nat)
  | fxproc (rs1 rs2 slot : Nat)
  | fxfree (slot : Nat)
  | busclr (rs1 rs2 mask : Nat)
  | envstart (n : Nat)
  | envrel (n : Nat)
  deriving DecidableEq, Repr

end Sys2Proof
end

