-- ==== Sys2Proof/WellFormed.lean ====
section
/-! DEFINITION. Which commands have an encoding: every field fits its bits (30_encoding.md R201, R202). -/

namespace Sys2Proof

/-- A register field has 4 bits (30_encoding.md R201). -/
def regOk (r : Nat) : Bool := decide (r < 16)

/-- The immediate of format R has 14 bits (30_encoding.md R201, R203). -/
def immOk (i : Nat) : Bool := decide (i < 2 ^ 14)

/-- The immediate of format U has 22 bits (30_encoding.md R202). -/
def imm22Ok (i : Nat) : Bool := decide (i < 2 ^ 22)

/-- Every field of the command fits the bits its format gives it. -/
def Instr.wf : Instr → Bool
  | .nop => true
  | .lui rd imm22 => regOk rd && imm22Ok imm22
  | .ori rd rs1 imm => regOk rd && regOk rs1 && immOk imm
  | .adds rd rs1 rs2 => regOk rd && regOk rs1 && regOk rs2
  | .subs rd rs1 rs2 => regOk rd && regOk rs1 && regOk rs2
  | .rdreg rd rs1 imm => regOk rd && regOk rs1 && immOk imm
  | .wrreg rs1 rs2 imm => regOk rs1 && regOk rs2 && immOk imm
  | .lds rd rs1 imm => regOk rd && regOk rs1 && immOk imm
  | .sts rs1 rs2 imm => regOk rs1 && regOk rs2 && immOk imm
  | .accs rs1 rs2 imm => regOk rs1 && regOk rs2 && immOk imm
  | .fmul8 rd rs1 rs2 => regOk rd && regOk rs1 && regOk rs2
  | .fmul16 rd rs1 rs2 => regOk rd && regOk rs1 && regOk rs2
  | .fmul24 rd rs1 rs2 => regOk rd && regOk rs1 && regOk rs2
  | .fmul28 rd rs1 rs2 => regOk rd && regOk rs1 && regOk rs2
  | .fdiv8 rd rs1 rs2 => regOk rd && regOk rs1 && regOk rs2
  | .fdiv16 rd rs1 rs2 => regOk rd && regOk rs1 && regOk rs2
  | .fdiv24 rd rs1 rs2 => regOk rd && regOk rs1 && regOk rs2
  | .fdiv28 rd rs1 rs2 => regOk rd && regOk rs1 && regOk rs2
  | .dlcfg rs1 rs2 u => regOk rs1 && regOk rs2 && immOk u
  | .dlwr rs1 u => regOk rs1 && immOk u
  | .dlrd rd rs1 u => regOk rd && regOk rs1 && immOk u
  | .dlmrd rd rs1 rs2 u => regOk rd && regOk rs1 && regOk rs2 && immOk u
  | .comb rd rs1 u => regOk rd && regOk rs1 && immOk u
  | .apf rd rs1 u => regOk rd && regOk rs1 && immOk u
  | .lfocfg rs1 rs2 u => regOk rs1 && regOk rs2 && immOk u
  | .lfostep rd u => regOk rd && immOk u
  | .bq rd rs1 u => regOk rd && regOk rs1 && immOk u
  | .svf rd rs1 u => regOk rd && regOk rs1 && immOk u
  | .moog rd rs1 u => regOk rd && regOk rs1 && immOk u
  | .fclr u => immOk u
  | .envupd rd n => regOk rd && immOk n
  | .envamp rd n => regOk rd && immOk n
  | .tremupd n => immOk n
  | .menvupd n => immOk n
  | .mixsmooth n => immOk n
  | .mixv rd rs1 rs2 n => regOk rd && regOk rs1 && regOk rs2 && immOk n
  | .fxinit slot => immOk slot
  | .fxproc rs1 rs2 slot => regOk rs1 && regOk rs2 && immOk slot
  | .fxfree slot => immOk slot
  | .busclr rs1 rs2 mask => regOk rs1 && regOk rs2 && immOk mask
  | .envstart n => immOk n
  | .envrel n => immOk n

end Sys2Proof
end

