-- ==== Sys2Proof/Decode.lean ====
section
/-! DEFINITION. From command words to commands and back (30_encoding.md). -/

namespace Sys2Proof

/-- Why bytes are no command. -/
inductive DecodeError where
  /-- The opcode is unassigned (30_encoding.md R220). The block sets ILL and completes. -/
  | unassigned (op : Nat)
  /-- Fewer than the four bytes of a command word (30_encoding.md R200). -/
  | truncated
  deriving DecidableEq, Repr

/-- Bits 31:26 (30_encoding.md R201). -/
def fieldOp (w : Word) : Nat := w.toNat / 2 ^ 26

/-- Bits 25:22 (30_encoding.md R201). -/
def fieldRd (w : Word) : Nat := w.toNat / 2 ^ 22 % 16

/-- Bits 21:18 (30_encoding.md R201). -/
def fieldRs1 (w : Word) : Nat := w.toNat / 2 ^ 18 % 16

/-- Bits 17:14 (30_encoding.md R201). -/
def fieldRs2 (w : Word) : Nat := w.toNat / 2 ^ 14 % 16

/-- Bits 13:0 (30_encoding.md R201, R203). -/
def fieldImm (w : Word) : Nat := w.toNat % 2 ^ 14

/-- Bits 21:0 (30_encoding.md R202). -/
def fieldImm22 (w : Word) : Nat := w.toNat % 2 ^ 22

/-- The command a word stands for, selected by its opcode alone (30_encoding.md R200, R210, R211).
Fields a command does not use are dropped (R206). -/
def decode (w : Word) : Except DecodeError Instr :=
  let rd := fieldRd w
  let rs1 := fieldRs1 w
  let rs2 := fieldRs2 w
  let imm := fieldImm w
  match fieldOp w with
  | 0x00 => .ok .nop
  | 0x01 => .ok (.lui rd (fieldImm22 w))
  | 0x02 => .ok (.ori rd rs1 imm)
  | 0x03 => .ok (.adds rd rs1 rs2)
  | 0x04 => .ok (.subs rd rs1 rs2)
  | 0x05 => .ok (.rdreg rd rs1 imm)
  | 0x06 => .ok (.wrreg rs1 rs2 imm)
  | 0x07 => .ok (.lds rd rs1 imm)
  | 0x08 => .ok (.sts rs1 rs2 imm)
  | 0x09 => .ok (.accs rs1 rs2 imm)
  | 0x10 => .ok (.fmul8 rd rs1 rs2)
  | 0x11 => .ok (.fmul16 rd rs1 rs2)
  | 0x12 => .ok (.fmul24 rd rs1 rs2)
  | 0x13 => .ok (.fmul28 rd rs1 rs2)
  | 0x14 => .ok (.fdiv8 rd rs1 rs2)
  | 0x15 => .ok (.fdiv16 rd rs1 rs2)
  | 0x16 => .ok (.fdiv24 rd rs1 rs2)
  | 0x17 => .ok (.fdiv28 rd rs1 rs2)
  | 0x18 => .ok (.dlcfg rs1 rs2 imm)
  | 0x19 => .ok (.dlwr rs1 imm)
  | 0x1A => .ok (.dlrd rd rs1 imm)
  | 0x1B => .ok (.dlmrd rd rs1 rs2 imm)
  | 0x1C => .ok (.comb rd rs1 imm)
  | 0x1D => .ok (.apf rd rs1 imm)
  | 0x20 => .ok (.lfocfg rs1 rs2 imm)
  | 0x21 => .ok (.lfostep rd imm)
  | 0x24 => .ok (.bq rd rs1 imm)
  | 0x25 => .ok (.svf rd rs1 imm)
  | 0x26 => .ok (.moog rd rs1 imm)
  | 0x27 => .ok (.fclr imm)
  | 0x28 => .ok (.envupd rd imm)
  | 0x29 => .ok (.envamp rd imm)
  | 0x2A => .ok (.tremupd imm)
  | 0x2B => .ok (.menvupd imm)
  | 0x2C => .ok (.mixsmooth imm)
  | 0x2D => .ok (.mixv rd rs1 rs2 imm)
  | 0x30 => .ok (.fxinit imm)
  | 0x31 => .ok (.fxproc rs1 rs2 imm)
  | 0x32 => .ok (.fxfree imm)
  | 0x33 => .ok (.busclr rs1 rs2 imm)
  | 0x34 => .ok (.envstart imm)
  | 0x35 => .ok (.envrel imm)
  | op => .error (.unassigned op)

/-- The four bytes of a word, lowest address first (20_memory.md R162). -/
def wordBytes (w : Word) : List Byte :=
  [w.extractLsb' 0 8, w.extractLsb' 8 8, w.extractLsb' 16 8, w.extractLsb' 24 8]

/-- The word whose bytes are `b0` (lowest address) to `b3` (20_memory.md R162). -/
def wordOfBytes (b0 b1 b2 b3 : Byte) : Word := b3 ++ b2 ++ b1 ++ b0

/-- Decode from bytes, lowest address first: the command and the bytes after its word. -/
def decodeBytes : List Byte → Except DecodeError (Instr × List Byte)
  | b0 :: b1 :: b2 :: b3 :: rest =>
    match decode (wordOfBytes b0 b1 b2 b3) with
    | .ok i => .ok (i, rest)
    | .error e => .error e
  | _ => .error .truncated

/-- The command the decoder reads from an instruction whose low `nbits` bits are those of `w` and whose
other bits are 0, laid out little-endian (20_memory.md R162). -/
def decodeTableWord (nbits w : Nat) : Option Instr :=
  match decodeBytes (wordBytes (BitVec.ofNat 32 (w % 2 ^ nbits))) with
  | .ok (i, _) => some i
  | .error _ => none

/-- A word of format R (30_encoding.md R201). -/
def encodeR (op rd rs1 rs2 imm : Nat) : Word :=
  BitVec.ofNat 32 (op * 2 ^ 26 + rd * 2 ^ 22 + rs1 * 2 ^ 18 + rs2 * 2 ^ 14 + imm)

/-- A word of format U (30_encoding.md R202). -/
def encodeU (op rd imm22 : Nat) : Word :=
  BitVec.ofNat 32 (op * 2 ^ 26 + rd * 2 ^ 22 + imm22)

/-- The word of a well-formed command, unused fields 0 (30_encoding.md R201, R202, R206, R210). -/
def encode : Instr → Word
  | .nop => encodeR 0x00 0 0 0 0
  | .lui rd imm22 => encodeU 0x01 rd imm22
  | .ori rd rs1 imm => encodeR 0x02 rd rs1 0 imm
  | .adds rd rs1 rs2 => encodeR 0x03 rd rs1 rs2 0
  | .subs rd rs1 rs2 => encodeR 0x04 rd rs1 rs2 0
  | .rdreg rd rs1 imm => encodeR 0x05 rd rs1 0 imm
  | .wrreg rs1 rs2 imm => encodeR 0x06 0 rs1 rs2 imm
  | .lds rd rs1 imm => encodeR 0x07 rd rs1 0 imm
  | .sts rs1 rs2 imm => encodeR 0x08 0 rs1 rs2 imm
  | .accs rs1 rs2 imm => encodeR 0x09 0 rs1 rs2 imm
  | .fmul8 rd rs1 rs2 => encodeR 0x10 rd rs1 rs2 0
  | .fmul16 rd rs1 rs2 => encodeR 0x11 rd rs1 rs2 0
  | .fmul24 rd rs1 rs2 => encodeR 0x12 rd rs1 rs2 0
  | .fmul28 rd rs1 rs2 => encodeR 0x13 rd rs1 rs2 0
  | .fdiv8 rd rs1 rs2 => encodeR 0x14 rd rs1 rs2 0
  | .fdiv16 rd rs1 rs2 => encodeR 0x15 rd rs1 rs2 0
  | .fdiv24 rd rs1 rs2 => encodeR 0x16 rd rs1 rs2 0
  | .fdiv28 rd rs1 rs2 => encodeR 0x17 rd rs1 rs2 0
  | .dlcfg rs1 rs2 u => encodeR 0x18 0 rs1 rs2 u
  | .dlwr rs1 u => encodeR 0x19 0 rs1 0 u
  | .dlrd rd rs1 u => encodeR 0x1A rd rs1 0 u
  | .dlmrd rd rs1 rs2 u => encodeR 0x1B rd rs1 rs2 u
  | .comb rd rs1 u => encodeR 0x1C rd rs1 0 u
  | .apf rd rs1 u => encodeR 0x1D rd rs1 0 u
  | .lfocfg rs1 rs2 u => encodeR 0x20 0 rs1 rs2 u
  | .lfostep rd u => encodeR 0x21 rd 0 0 u
  | .bq rd rs1 u => encodeR 0x24 rd rs1 0 u
  | .svf rd rs1 u => encodeR 0x25 rd rs1 0 u
  | .moog rd rs1 u => encodeR 0x26 rd rs1 0 u
  | .fclr u => encodeR 0x27 0 0 0 u
  | .envupd rd n => encodeR 0x28 rd 0 0 n
  | .envamp rd n => encodeR 0x29 rd 0 0 n
  | .tremupd n => encodeR 0x2A 0 0 0 n
  | .menvupd n => encodeR 0x2B 0 0 0 n
  | .mixsmooth n => encodeR 0x2C 0 0 0 n
  | .mixv rd rs1 rs2 n => encodeR 0x2D rd rs1 rs2 n
  | .fxinit slot => encodeR 0x30 0 0 0 slot
  | .fxproc rs1 rs2 slot => encodeR 0x31 0 rs1 rs2 slot
  | .fxfree slot => encodeR 0x32 0 0 0 slot
  | .busclr rs1 rs2 mask => encodeR 0x33 0 rs1 rs2 mask
  | .envstart n => encodeR 0x34 0 0 0 n
  | .envrel n => encodeR 0x35 0 0 0 n

end Sys2Proof
end

