-- ==== Sys2Proof/Machine/State.lean ====
section
/-! DEFINITION. Every piece of state of the block (10_state.md), the machine after reset
(70_reset_and_hazards.md R900, R901), and the reasons a step can stop. -/

namespace Sys2Proof.Machine

/-- A RAM as (byte address, byte) pairs, addresses strictly rising. A byte is listed once the host or a
command has written it. An unlisted byte still holds its power-on content, a free value of Config
(70_reset_and_hazards.md R902). Log 3. -/
abbrev Memory := List Host.Cell

/-- The canonical form of a RAM: addresses strictly rising. An unlisted byte reads as a free value, which
no listed byte can be compared with, so there is no entry to leave out. Log 3. -/
def Memory.wf : Memory → Bool
  | [] => true
  | [_] => true
  | (a, _) :: (b, y) :: m => decide (a < b) && Memory.wf ((b, y) :: m)

/-- V_STATUS, the voice lifecycle (10_state.md R83). -/
inductive VoiceStatus where
  | free | on | sustained | off | die
  deriving DecidableEq, Repr

/-- The waveform of an LFO unit (10_state.md R101). -/
inductive Waveform where
  | sine | triangle
  deriving DecidableEq, Repr

/-- FX_BUS, the input of an effect slot (10_state.md R103, 46_effects.md R703). -/
inductive FxBus where
  | reverb | chorus | delay | insert
  deriving DecidableEq, Repr

/-- FATAL_CAUSE: no Fatal since reset, or one of the two causes that are ever raised
(60_exceptions.md R807, 93 U5). -/
inductive FatalCause where
  | none | badAddr | alloc
  deriving DecidableEq, Repr

/-- The stage machine that both envelopes of a voice have (10_state.md R86, R87). -/
structure EnvRegs where
  stage : Word
  value : Word
  target : Word
  inc : Word
  rate : Vector Word 6
  offset : Vector Word 6
  follow : Vector Word 6
  deriving DecidableEq, Repr

/-- Five filter history taps (10_state.md R85, R102). -/
structure Hist where
  h0 : Word
  h1 : Word
  h2 : Word
  h3 : Word
  h4 : Word
  deriving DecidableEq, Repr

/-- Tremolo registers (10_state.md R88). -/
structure Tremolo where
  phase : Word
  inc : Word
  depth : Word
  sweepPos : Word
  sweepInc : Word
  mul : Word
  deriving DecidableEq, Repr

/-- Output-mix registers (10_state.md R89). -/
structure MixRegs where
  panL : Word
  panR : Word
  amp : Word
  leftMix : Word
  rightMix : Word
  oldLeft : Word
  oldRight : Word
  leftInc : Word
  rightInc : Word
  leftOfs : Word
  rightOfs : Word
  deriving DecidableEq, Repr

/-- Pan-delay registers (10_state.md R90). -/
structure PanDelay where
  base : Word
  len : Word
  wpt : Word
  rpt : Word
  deriving DecidableEq, Repr

/-- One voice register block (10_state.md R80 to R90). -/
structure Voice where
  ctrl : Word
  status : VoiceStatus
  channel : Fin 16
  delay : Word
  srcBase : Word
  cc : Word
  sendRev : Word
  sendCho : Word
  sendDly : Word
  filtF : Word
  filtQ : Word
  filtP : Word
  filtHist : Hist
  env : EnvRegs
  lss : Word
  lsr : Word
  menv : EnvRegs
  menvOut : Word
  trem : Tremolo
  mix : MixRegs
  pdly : PanDelay
  deriving DecidableEq, Repr

/-- A circular buffer in sample RAM with its write cursor (41_delayline.md R350, 46_effects.md R715). -/
structure Line where
  base : Word
  len : Word
  wpt : Word
  deriving DecidableEq, Repr

/-- One delay-line unit (10_state.md R100). -/
structure DelayUnit where
  line : Line
  hist : Word
  fb : Word
  damp : Word
  store : Word
  valid : Bool
  deriving DecidableEq, Repr

/-- One LFO unit (10_state.md R101). -/
structure LfoUnit where
  cycle : Word
  count : Word
  wave : Waveform
  out : Word
  deriving DecidableEq, Repr

/-- One filter unit (10_state.md R102). -/
structure FilterUnit where
  b0 : Word
  b1 : Word
  b2 : Word
  a1 : Word
  a2 : Word
  x1 : Word
  x2 : Word
  y1 : Word
  y2 : Word
  rf : Word
  rq : Word
  rp : Word
  hist : Hist
  dirty : Bool
  pfreq : Word
  pq : Word
  pgain : Word
  deriving DecidableEq, Repr

/-- A comb of an effect slot: its line and its filter store (46_effects.md R712). -/
structure CombLine where
  line : Line
  st : Word
  deriving DecidableEq, Repr

/-- The parameter copy of an effect slot, FX_P at the last FXINIT (46_effects.md R704). -/
abbrev FxParams := Vector Word 32

/-- The Freeverb state record (46_effects.md R712). -/
structure FreeverbRec where
  params : FxParams
  cl : List CombLine
  cr : List CombLine
  al : List Line
  ar : List Line
  deriving DecidableEq, Repr

/-- The plate state record (46_effects.md R730). The pre-delay line exists only if PREDELAY > 0. -/
structure PlateRec where
  params : FxParams
  pd : Option Line
  id1 : Line
  id2 : Line
  id3 : Line
  id4 : Line
  mal : Line
  dl1 : Line
  al2 : Line
  dl2 : Line
  mar : Line
  dr1 : Line
  ar2 : Line
  dr2 : Line
  lp1 : Word
  lp2 : Word
  tl : Word
  tr : Word
  hl : Word
  hr : Word
  c : Nat
  deriving DecidableEq, Repr

/-- The stereo chorus state record (46_effects.md R750). -/
structure ChorusRec where
  params : FxParams
  xl : Line
  xr : Line
  hl : Word
  hr : Word
  c : Nat
  deriving DecidableEq, Repr

/-- The hexa chorus state record (46_effects.md R755). -/
structure HexaRec where
  params : FxParams
  x : Line
  h : Vector Word 6
  c : Nat
  deriving DecidableEq, Repr

/-- The hidden state record of an effect slot together with its FX_STATE (10_state.md R103, R120):
`empty` is FX_STATE 0, `bypassed` is 2, an engine's record is 1. While FX_STATE is 0 the spec's record is
undefined and never read (93 U11), so nothing is held. Log 19. -/
inductive FxRecord where
  | empty
  | bypassed
  | freeverb (r : FreeverbRec)
  | plate (r : PlateRec)
  | chorus (r : ChorusRec)
  | hexa (r : HexaRec)
  deriving DecidableEq, Repr

/-- One effect slot (10_state.md R103, R120). -/
structure Slot where
  fxType : Word
  bus : FxBus
  base : Word
  limit : Word
  used : Word
  params : FxParams
  record : FxRecord
  deriving DecidableEq, Repr

/-- The width of a host access (20_memory.md R163). -/
inductive Width where
  | byte | half | word
  deriving DecidableEq, Repr

/-- One access of the host through its port, at a byte address (20_memory.md R160, R163). -/
inductive HostAccess where
  | read (w : Width) (addr : Word)
  | write (w : Width) (addr data : Word)
  deriving DecidableEq, Repr

/-- The state of the block. The first group is architectural; the last four fields are the model's own
(log 2, log 5, log 8). The counts NV, NDL, NLFO, NFLT, NSLOT are the lengths of the unit lists (log 4). -/
structure State where
  /-- Operand registers (10_state.md R50). -/
  regs : Vector Word 16
  /-- CMD_SEQ (10_state.md R52). -/
  cmdSeq : Word
  /-- STATUS (10_state.md R61). -/
  status : Word
  /-- CTRL (10_state.md R62). -/
  ctrl : Word
  /-- SAMPLE_RATE (10_state.md R65). -/
  sampleRate : Word
  /-- CONTROL_RATIO (10_state.md R66). -/
  controlRatio : Word
  /-- MIN_SUSTAIN_TIME (10_state.md R67). -/
  minSustainTime : Word
  /-- MIX_WINDOW (10_state.md R68). -/
  mixWindow : Word
  /-- MAX_DIE_TIME (10_state.md R69). -/
  maxDieTime : Word
  /-- OUT_BASE (10_state.md R60). -/
  outBase : Word
  /-- BUS_REV_BASE (10_state.md R60). -/
  busRevBase : Word
  /-- BUS_CHO_BASE (10_state.md R60). -/
  busChoBase : Word
  /-- BUS_DLY_BASE (10_state.md R60). -/
  busDlyBase : Word
  /-- FATAL_CAUSE (60_exceptions.md R807). -/
  fatalCause : FatalCause
  /-- FATAL_INFO (60_exceptions.md R806). -/
  fatalInfo : Word
  /-- FATAL_ADDR (60_exceptions.md R806). -/
  fatalAddr : Word
  /-- CH_STATE (10_state.md R70). -/
  chState : Vector Word 16
  /-- The NV voice blocks (10_state.md R80). -/
  voices : List Voice
  /-- The NDL delay-line units (10_state.md R100). -/
  delays : List DelayUnit
  /-- The NLFO LFO units (10_state.md R101). -/
  lfos : List LfoUnit
  /-- The NFLT filter units (10_state.md R102). -/
  filters : List FilterUnit
  /-- The NSLOT effect slots (10_state.md R103). -/
  slots : List Slot
  /-- SRAM_WORDS (00_scope.md R6). -/
  sramWords : Nat
  /-- Sample RAM, by byte address (20_memory.md R150, R162). -/
  sram : Memory
  /-- Table RAM, by byte address (20_memory.md R155, R162). -/
  tram : Memory
  /-- The command word being executed, which a Fatal halt records (60_exceptions.md R806). -/
  cmd : Word
  /-- Host accesses not yet performed, oldest first (20_memory.md R160, R161). -/
  port : List HostAccess
  /-- The word returned to the host's last read (20_memory.md R160). -/
  hostData : Word
  /-- How many fresh free values have been taken. -/
  freeCount : Nat
  deriving DecidableEq, Repr

/-- Why a command raised Fatal (60_exceptions.md R807). `exec` and `step` take the Fatal halt and answer the
halted machine as a next state, so they never answer a fault; `Safety.verdict` answers these (R809, log 1). -/
inductive Fault where
  /-- A MemRead or MemWrite address at or above SRAM_WORDS (20_memory.md R152), raised by the shared memory
  access operations. Safe: the machine of the spec halts here too. -/
  | badAddr (addr : Word)
  /-- A delay-line or effect allocation failed its test (41_delayline.md R353, 46_effects.md R705), raised
  by DLCFG, FXINIT and the lazy init of FXPROC. Safe: the machine of the spec halts here too. -/
  | alloc (info : Word)
  deriving DecidableEq, Repr

/-- Why the model gives a command no meaning. -/
inductive Refusal where
  /-- The command has no meaning in the model yet. Raised by an arm of `exec` only. Safe: nothing is claimed
  of the command. No arm raises it today. -/
  | notModelled (mnemonic : String)
  deriving DecidableEq, Repr

/-- Filter history at reset (10_state.md R85, R102). -/
def Hist.zero : Hist := { h0 := 0, h1 := 0, h2 := 0, h3 := 0, h4 := 0 }

/-- An envelope at reset: all 0 but the follow multipliers, which are 1.0 (10_state.md R86, R87). -/
def EnvRegs.reset : EnvRegs :=
  { stage := 0, value := 0, target := 0, inc := 0,
    rate := Vector.replicate 6 0, offset := Vector.replicate 6 0, follow := Vector.replicate 6 0x10000 }

/-- A voice at reset (10_state.md R80 to R90, 70_reset_and_hazards.md R901). -/
def Voice.reset : Voice :=
  { ctrl := 0, status := .free, channel := 0, delay := 0, srcBase := 0, cc := 0,
    sendRev := 0, sendCho := 0, sendDly := 0, filtF := 0, filtQ := 0, filtP := 0, filtHist := Hist.zero,
    env := EnvRegs.reset, lss := 0, lsr := 0, menv := EnvRegs.reset, menvOut := 0,
    trem := { phase := 0, inc := 0, depth := 0, sweepPos := 65536, sweepInc := 0, mul := 65536 },
    mix := { panL := 0, panR := 0, amp := 0, leftMix := 0, rightMix := 0, oldLeft := 0, oldRight := 0,
             leftInc := 0, rightInc := 0, leftOfs := 0, rightOfs := 0 },
    pdly := { base := 0, len := 0, wpt := 0, rpt := 0 } }

/-- A delay-line unit at reset (10_state.md R100). -/
def DelayUnit.reset : DelayUnit :=
  { line := { base := 0, len := 0, wpt := 0 }, hist := 0, fb := 0, damp := 0, store := 0, valid := false }

/-- An LFO unit at reset (10_state.md R101). -/
def LfoUnit.reset : LfoUnit := { cycle := 0, count := 0, wave := .sine, out := 0 }

/-- A filter unit at reset (10_state.md R102). -/
def FilterUnit.reset : FilterUnit :=
  { b0 := 0, b1 := 0, b2 := 0, a1 := 0, a2 := 0, x1 := 0, x2 := 0, y1 := 0, y2 := 0,
    rf := 0, rq := 0, rp := 0, hist := Hist.zero, dirty := false, pfreq := 0, pq := 0, pgain := 0 }

/-- An effect slot at reset (10_state.md R103, 70_reset_and_hazards.md R900). -/
def Slot.reset : Slot :=
  { fxType := 0, bus := .reverb, base := 0, limit := 0, used := 0,
    params := Vector.replicate 32 0, record := .empty }

/-- The machine at power-on, for given build parameters (70_reset_and_hazards.md R900 to R903). -/
def State.resetWith (p : Params) : State :=
  { regs := Vector.replicate 16 0, cmdSeq := 0, status := 0, ctrl := 1,
    sampleRate := 44100, controlRatio := 44, minSustainTime := 0, mixWindow := 882, maxDieTime := 20,
    outBase := 0, busRevBase := 0, busChoBase := 0, busDlyBase := 0,
    fatalCause := .none, fatalInfo := 0, fatalAddr := 0, chState := Vector.replicate 16 0,
    voices := List.replicate p.nv Voice.reset, delays := List.replicate p.ndl DelayUnit.reset,
    lfos := List.replicate p.nlfo LfoUnit.reset, filters := List.replicate p.nflt FilterUnit.reset,
    slots := List.replicate p.nslot Slot.reset,
    sramWords := p.sramWords, sram := [], tram := [], cmd := 0, port := [], hostData := 0, freeCount := 0 }

/-- The machine right after power-on with the default parameters (70_reset_and_hazards.md R900, R901). -/
def State.reset : State := State.resetWith Params.default

/-- The build parameters a machine has (00_scope.md R6). -/
def State.params (s : State) : Params :=
  { nv := s.voices.length, ndl := s.delays.length, nlfo := s.lfos.length, nflt := s.filters.length,
    nslot := s.slots.length, sramWords := s.sramWords }

end Sys2Proof.Machine
end

