-- ==== Sys2Proof/Machine/Flags.lean ====
section
/-! DEFINITION. Command bodies as state transformers, the sticky STATUS flags and every flag computation:
saturation, divide by zero, range and the fixed-point laws of 40_fixedpoint.md section 1. -/

namespace Sys2Proof.Machine

/-- The body of a command: it answers a value and the state after it, or stops at a Fatal with the state
at that point, nothing rolled back (60_exceptions.md R806). -/
abbrev Cmd (α : Type) := EStateM Fault State α

/-- The whole state, read. -/
def getState : Cmd State := fun s => .ok s s

/-- Change the state. -/
def update (f : State → State) : Cmd Unit := fun s => .ok () (f s)

/-- The four sticky flags (10_state.md R61). -/
inductive Flag where
  | sat | dz | range | ill
  deriving DecidableEq, Repr

/-- The bit of a flag in STATUS (10_state.md R61). -/
def flagMask : Flag → Word
  | .sat => 1
  | .dz => 2
  | .range => 4
  | .ill => 8

/-- The FATAL bit of STATUS (10_state.md R61). -/
def fatalMask : Word := 16

/-- The bits of STATUS that a write of 1 clears (10_state.md R61). -/
def stickyMask : Word := 15

/-- STATUS has this flag set. -/
def State.flag (s : State) (f : Flag) : Bool := s.status &&& flagMask f != 0

/-- STATUS.FATAL: the block is halted (60_exceptions.md R806). -/
def State.fatal (s : State) : Bool := s.status &&& fatalMask != 0

/-- The state with one flag set (00_scope.md R9). -/
def State.withFlag (f : Flag) (s : State) : State := { s with status := s.status ||| flagMask f }

/-- `raise Flag(name)`: set a sticky flag and go on (00_scope.md R9, 60_exceptions.md R803). -/
def raiseFlag (f : Flag) : Cmd Unit := update (State.withFlag f)

/-- `raise Flag(name)` if a condition holds. -/
def raiseFlagIf (b : Bool) (f : Flag) : Cmd Unit := if b then raiseFlag f else pure ()

/-- `clamp(v, lo, hi)` (00_scope.md R9). -/
def clampInt (v lo hi : Int) : Int := if v < lo then lo else if v > hi then hi else v

/-- An integer fits a 32-bit register. -/
def fits32 (v : Int) : Bool := decide (minWord ≤ v ∧ v ≤ maxWord)

/-- The value of `sat32` (00_scope.md R9). -/
def sat32Value (v : Int) : Int := clampInt v minWord maxWord

/-- `sat32`: clamp to 32 bits, and set SAT when that changes the argument (00_scope.md R9,
60_exceptions.md R801). -/
def sat32 (v : Int) : Cmd Int := do
  raiseFlagIf (!fits32 v) .sat
  pure (sat32Value v)

/-- `floor_div(a * b, 2^q)`, the exact rescaled product (40_fixedpoint.md R250). -/
def fmulExact (q : Nat) (a b : Int) : Int := (a * b) / 2 ^ q

/-- `fmul_q(a, b)` (40_fixedpoint.md R250). -/
def fmul (q : Nat) (a b : Int) : Cmd Int := sat32 (fmulExact q a b)

/-- The quotient of a division by zero (40_fixedpoint.md R253). -/
def divZeroValue (a : Int) : Int := if a > 0 then maxWord else if a < 0 then minWord else 0

/-- `fdiv_q(a, b)`; a zero divisor sets DZ and not SAT (40_fixedpoint.md R253, R258). -/
def fdiv (q : Nat) (a b : Int) : Cmd Int :=
  if b = 0 then do
    raiseFlag .dz
    pure (divZeroValue a)
  else
    sat32 (Int.tdiv (a * 2 ^ q) b)

/-- `adds(a, b)` (40_fixedpoint.md R252). -/
def adds (a b : Int) : Cmd Int := sat32 (a + b)

/-- `subs(a, b)` (40_fixedpoint.md R252). -/
def subs (a b : Int) : Cmd Int := sat32 (a - b)

end Sys2Proof.Machine
end

