-- ==== Sys2Proof/Machine/Ops.lean ====
section
/-! DEFINITION. The shared operations: memory, the Fatal halt and the reset that leaves it, units and voices. -/

namespace Sys2Proof.Machine

/-! ### RAM -/

/-- The byte listed at an address, if one is. -/
def memGet? : Memory → Nat → Option Byte
  | [], _ => none
  | (k, b) :: m, a => if k = a then some b else memGet? m a

/-- List a byte at an address, addresses kept rising. -/
def memPut : Memory → Nat → Byte → Memory
  | [], a, v => [(a, v)]
  | (k, b) :: m, a, v =>
    if a < k then (a, v) :: (k, b) :: m
    else if a = k then (a, v) :: m
    else (k, b) :: memPut m a v

/-- A byte of a RAM whose unlisted bytes hold `init` (70_reset_and_hazards.md R902). -/
def memByte (init : Nat → Byte) (m : Memory) (a : Nat) : Byte := (memGet? m a).getD (init a)

/-- The word at a word address, little-endian (20_memory.md R162). -/
def memWord (init : Nat → Byte) (m : Memory) (a : Nat) : Word :=
  wordOfBytes (memByte init m (4 * a)) (memByte init m (4 * a + 1)) (memByte init m (4 * a + 2))
    (memByte init m (4 * a + 3))

/-- Store a word at a word address, little-endian (20_memory.md R162). -/
def memPutWord (m : Memory) (a : Nat) (v : Word) : Memory :=
  memPut (memPut (memPut (memPut m (4 * a) (v.extractLsb' 0 8)) (4 * a + 1) (v.extractLsb' 8 8))
    (4 * a + 2) (v.extractLsb' 16 8)) (4 * a + 3) (v.extractLsb' 24 8)

/-- `count` zero bytes from byte address `lo`. -/
def zeroCells : Nat → Nat → Memory
  | _, 0 => []
  | lo, count + 1 => (lo, 0) :: zeroCells (lo + 1) count

/-- `count` words from word address `start` made 0 in one go (41_delayline.md R354). Log 20. -/
def memZeroWords (m : Memory) (start count : Nat) : Memory :=
  m.filter (fun c => decide (c.1 < 4 * start)) ++
    (zeroCells (4 * start) (4 * count) ++ m.filter (fun c => decide (4 * (start + count) ≤ c.1)))

/-- A byte of sample RAM, by byte address. -/
def State.sramByte (s : State) (a : Nat) : Byte := memByte Config.sramInit s.sram a

/-- A word of sample RAM, by word address. -/
def State.sramWord (s : State) (a : Nat) : Word := memWord Config.sramInit s.sram a

/-- A byte of table RAM, by byte address. -/
def State.tramByte (s : State) (a : Nat) : Byte := memByte Config.tramInit s.tram a

/-- A word of table RAM, by word address: `TabRead` (20_memory.md R155). -/
def State.tramWord (s : State) (a : Nat) : Word := memWord Config.tramInit s.tram a

/-- Sample RAM with one word stored. -/
def State.withSramWord (a : Nat) (v : Word) (s : State) : State := { s with sram := memPutWord s.sram a v }

/-! ### The Fatal halt and reset -/

/-- The cause code a Fatal records (60_exceptions.md R807). -/
def Fault.cause : Fault → FatalCause
  | .badAddr _ => .badAddr
  | .alloc _ => .alloc

/-- What a Fatal records in FATAL_ADDR (60_exceptions.md R806, R807). -/
def Fault.info : Fault → Word
  | .badAddr a => a
  | .alloc l => l

/-- Taking the Fatal halt: the one exception of the block (60_exceptions.md R806). -/
def takeFatal (f : Fault) (s : State) : State :=
  { s with status := s.status ||| fatalMask, fatalCause := f.cause, fatalInfo := s.cmd, fatalAddr := f.info }

/-- `raise Fatal(cause, info)`: the command stops here, its earlier effects stay (60_exceptions.md R806). -/
def raiseFatal {α : Type} (f : Fault) : Cmd α := fun s => .error f (takeFatal f s)

/-- The block reset, the only way out of a Fatal halt: every register at its reset value, every slot empty,
the RAMs and the build parameters kept (70_reset_and_hazards.md R900, R901). The host's pending accesses and
the model's own fields are not the block's and are kept. -/
def resetBlock (s : State) : State :=
  { State.resetWith s.params with
    sram := s.sram, tram := s.tram, cmd := s.cmd, port := s.port, hostData := s.hostData,
    freeCount := s.freeCount }

/-- The number of completed commands advances by one, modulo `2^32` (10_state.md R52). -/
def completeCommand (s : State) : State := { s with cmdSeq := s.cmdSeq + 1 }

/-- Run a command body: CMD_SEQ advances if it completes (00_scope.md R9 `pc <- pc + 1`), and does not if it
raised Fatal, whose halted state is the next state (60_exceptions.md R806, log 1). -/
def runCmd (c : Cmd Unit) (s : State) : Host.Outcome State Fault Refusal :=
  match c s with
  | .ok _ t => .next (completeCommand t)
  | .error _ t => .next t

/-- What a command word with an unassigned opcode does: ILL is set and the command completes
(30_encoding.md R220). -/
def illegalCommand (s : State) : State := completeCommand (State.withFlag .ill s)

/-! ### Access to sample RAM and table RAM by commands -/

/-- `MemRead(a, 1)` (20_memory.md R152). -/
def memRead (a : Word) : Cmd Word := fun s =>
  if a.toNat < s.sramWords then .ok (s.sramWord a.toNat) s else raiseFatal (.badAddr a) s

/-- `MemWrite(a, 1, v)` (20_memory.md R152). -/
def memWrite (a v : Word) : Cmd Unit := fun s =>
  if a.toNat < s.sramWords then .ok () (State.withSramWord a.toNat v s) else raiseFatal (.badAddr a) s

/-- `slot += c`, the saturating accumulation of 45_mixer.md R602 and 40_fixedpoint.md R266. -/
def memAccumulate (a : Word) (c : Int) : Cmd Unit := do
  let old ← memRead a
  let v ← sat32 (old.toInt + c)
  memWrite a (wordOf v)

/-- Write 0 to `count` words from `base`, addresses modulo `2^32` (46_effects.md R773). -/
def memClear : Nat → Word → Cmd Unit
  | 0, _ => pure ()
  | count + 1, base => do
    memWrite base 0
    memClear count (base + 1)

/-- `TabRead(a)` (20_memory.md R155). -/
def tabRead (a : Nat) : Cmd Word := fun s => .ok (s.tramWord a) s

/-! ### Units, voices, slots -/

/-- Voice `n` as it stands; the commands check first that it exists. -/
def State.voiceAt (s : State) (n : Nat) : Voice := s.voices[n]?.getD Voice.reset

/-- The state with voice `n` changed. -/
def State.modifyVoice (n : Nat) (f : Voice → Voice) (s : State) : State :=
  { s with voices := s.voices.modify n f }

/-- Read voice `n`. -/
def readVoice (n : Nat) : Cmd Voice := fun s => .ok (s.voiceAt n) s

/-- Write registers of voice `n`. -/
def writeVoice (n : Nat) (f : Voice → Voice) : Cmd Unit := update (State.modifyVoice n f)

/-- The state with delay unit `u` replaced. -/
def State.setDelay (u : Nat) (d : DelayUnit) (s : State) : State := { s with delays := s.delays.set u d }

/-- The state with LFO unit `u` replaced. -/
def State.setLfo (u : Nat) (l : LfoUnit) (s : State) : State := { s with lfos := s.lfos.set u l }

/-- The state with filter unit `u` replaced. -/
def State.setFilter (u : Nat) (f : FilterUnit) (s : State) : State := { s with filters := s.filters.set u f }

/-- The state with slot `i` replaced. -/
def State.setSlot (i : Nat) (x : Slot) (s : State) : State := { s with slots := s.slots.set i x }

/-- Slot `i` as it stands; the commands check first that it exists. -/
def State.slotAt (s : State) (i : Nat) : Slot := s.slots[i]?.getD Slot.reset

/-- Discarding a slot: FX_STATE and FX_USED become 0, its record is gone (46_effects.md R706). -/
def discardSlot (x : Slot) : Slot := { x with used := 0, record := .empty }

/-- FX_STATE (10_state.md R103). -/
def FxRecord.state : FxRecord → Word
  | .empty => 0
  | .bypassed => 2
  | .freeverb _ => 1
  | .plate _ => 1
  | .chorus _ => 1
  | .hexa _ => 1

end Sys2Proof.Machine
end

