-- ==== Sys2Proof/Machine/Operands.lean ====
section
/-! DEFINITION. Operand forms: operand registers, effective addresses, and the fields of V_CTRL, CTRL and
CH_STATE. -/

namespace Sys2Proof.Machine

/-- `x[i]` (10_state.md R50). -/
def State.reg (s : State) (i : Nat) : Word := s.regs[i]?.getD 0

/-- `x[i] <- v` (10_state.md R50). -/
def State.withReg (i : Nat) (v : Word) (s : State) : State := { s with regs := s.regs.setIfInBounds i v }

/-- Read an operand register. -/
def readReg (i : Nat) : Cmd Word := fun s => .ok (s.reg i) s

/-- Read an operand register as a signed integer (00_scope.md R7). -/
def readRegS (i : Nat) : Cmd Int := fun s => .ok (s.reg i).toInt s

/-- Write an operand register. -/
def writeReg (i : Nat) (v : Word) : Cmd Unit := update (State.withReg i v)

/-- `ea = (x[rs1] + imm14) mod 2^32` (30_encoding.md R205). -/
def effectiveAddress (base : Word) (imm : Nat) : Word := base + BitVec.ofNat 32 imm

/-- `ca = (x[rs1] + imm14) mod 2^16` (30_encoding.md R205). -/
def controlAddress (base : Word) (imm : Nat) : Nat := (base.toNat + imm) % 2 ^ 16

/-! ### V_CTRL (10_state.md R82) -/

/-- CONV: SoundFont-style (10_state.md R82). -/
def Voice.soundFont (v : Voice) : Bool := v.ctrl.getLsbD 0

/-- PANMODE (10_state.md R82, 45_mixer.md R601). -/
def Voice.panMode (v : Voice) : Nat := (v.ctrl.extractLsb' 1 2).toNat

/-- PDLY_SIDE: the right channel is the delayed one (10_state.md R82). -/
def Voice.pdlyRight (v : Voice) : Bool := v.ctrl.getLsbD 3

/-- FILT (10_state.md R82, 45_mixer.md R607). -/
def Voice.filt (v : Voice) : Nat := (v.ctrl.extractLsb' 4 2).toNat

/-- SIGNAL (10_state.md R82). -/
def Voice.signal (v : Voice) : Bool := v.ctrl.getLsbD 6

/-- TREM_EN (10_state.md R82). -/
def Voice.tremEn (v : Voice) : Bool := v.ctrl.getLsbD 7

/-- FILT_DIRTY (10_state.md R82). -/
def Voice.filtDirty (v : Voice) : Bool := v.ctrl.getLsbD 8

/-- DIED (10_state.md R82). -/
def Voice.died (v : Voice) : Bool := v.ctrl.getLsbD 9

/-- The bits of V_CTRL that exist (10_state.md R82). -/
def vCtrlMask : Word := 0x3FF

/-- The FILT_DIRTY bit (10_state.md R82). -/
def filtDirtyMask : Word := 0x100

/-- The DIED bit (10_state.md R82). -/
def diedMask : Word := 0x200

/-- V_STATUS as a number (10_state.md R83). -/
def VoiceStatus.code : VoiceStatus → Nat
  | .free => 0
  | .on => 1
  | .sustained => 2
  | .off => 3
  | .die => 4

/-- V_STATUS from the low three bits of a written word; 5, 6 and 7 name no status (10_state.md R83, log 14). -/
def VoiceStatus.ofWord (w : Word) : Option VoiceStatus :=
  match w.toNat % 8 with
  | 0 => some .free
  | 1 => some .on
  | 2 => some .sustained
  | 3 => some .off
  | 4 => some .die
  | _ => none

/-! ### CTRL (10_state.md R62) and CH_STATE (10_state.md R70) -/

/-- CTRL.MODENV_EN. -/
def State.modenvEn (s : State) : Bool := s.ctrl.getLsbD 0

/-- CTRL.PANDLY_EN. -/
def State.pandlyEn (s : State) : Bool := s.ctrl.getLsbD 1

/-- The bits of CTRL that exist (10_state.md R62). -/
def ctrlMask : Word := 3

/-- The bits of CH_STATE that exist (10_state.md R70). -/
def chStateMask : Word := 0xFFFF00FF

/-- CH_STATE.SUSTAIN, the pedal level. -/
def chSustain (c : Word) : Nat := (c.extractLsb' 0 7).toNat

/-- CH_STATE.SOSTENUTO. -/
def chSostenuto (c : Word) : Bool := c.getLsbD 7

/-- CH_STATE.LOOP_TIMEOUT, in seconds. -/
def chLoopTimeout (c : Word) : Nat := (c.extractLsb' 16 16).toNat

/-! ### WARL reductions (10_state.md) -/

/-- A written word clamped as an unsigned number (10_state.md R65 to R69). -/
def clampUnsigned (v : Word) (lo hi : Nat) : Word :=
  BitVec.ofNat 32 (if v.toNat < lo then lo else if v.toNat > hi then hi else v.toNat)

/-- A written word clamped as a signed number (10_state.md R86 to R90, R100; 00_scope.md R7). -/
def clampSigned (v : Word) (lo hi : Int) : Word := wordOf (clampInt v.toInt lo hi)

/-- A written cursor stored modulo its length, 0 if the length is 0; the written word is signed (10_state.md R90,
R100, R101; 00_scope.md R7). -/
def modOrZero (v len : Word) : Word := if len = 0 then 0 else wordOf (v.toInt % len.toNat)

end Sys2Proof.Machine
end

