-- ==== Sys2Proof/Machine/Registers.lean ====
section
/-! DEFINITION. The control-register map: what a read of an address returns and what a write does, from the host
and from RDREG and WRREG alike (10_state.md R60 to R103, R140; 20_memory.md R154). -/

namespace Sys2Proof.Machine

/-- A flag bit as a word. -/
def bitWord (b : Bool) : Word := if b then 1 else 0

/-- Entry `i` of a register array. -/
def entry {n : Nat} (v : Vector Word n) (i : Nat) : Word := v[i]?.getD 0

/-- FATAL_CAUSE as a number (60_exceptions.md R807). -/
def FatalCause.code : FatalCause → Word
  | .none => 0
  | .badAddr => 1
  | .alloc => 2

/-- LFO_WAVE as a number (10_state.md R101). -/
def Waveform.code : Waveform → Word
  | .sine => 0
  | .triangle => 1

/-- FX_BUS as a number (10_state.md R103). -/
def FxBus.code : FxBus → Word
  | .reverb => 0
  | .chorus => 1
  | .delay => 2
  | .insert => 3

/-- FX_BUS from a written word; 4 and more are ignored (10_state.md R103, 90_conflicts.md C15). A word with bit 31
set is read as a code too, and ignored. DEDUCED, log 13. -/
def FxBus.ofWord (w : Word) : Option FxBus :=
  match w.toNat with
  | 0 => some .reverb
  | 1 => some .chorus
  | 2 => some .delay
  | 3 => some .insert
  | _ => none

/-- CONFIG0: NV, NDL, NLFO, NSLOT (10_state.md R60). -/
def config0 (p : Params) : Word := BitVec.ofNat 32 (p.nv + p.ndl * 2 ^ 8 + p.nlfo * 2 ^ 16 + p.nslot * 2 ^ 24)

/-- CONFIG1: NFLT, NCH (10_state.md R60). -/
def config1 (p : Params) : Word := BitVec.ofNat 32 (p.nflt + Config.nch * 2 ^ 8)

/-! ### Reading -/

/-- Global control registers (10_state.md R60). -/
def readGlobal (s : State) (a : Nat) : Word :=
  match a with
  | 0x000 => Config.idWord
  | 0x001 => s.status
  | 0x002 => s.ctrl
  | 0x003 => s.sampleRate
  | 0x004 => s.controlRatio
  | 0x005 => s.minSustainTime
  | 0x006 => s.mixWindow
  | 0x007 => s.maxDieTime
  | 0x008 => s.outBase
  | 0x00A => s.busRevBase
  | 0x00B => s.busChoBase
  | 0x00C => s.busDlyBase
  | 0x00D => s.cmdSeq
  | 0x00E => s.fatalCause.code
  | 0x00F => s.fatalInfo
  | 0x010 => s.fatalAddr
  | 0x011 => config0 s.params
  | 0x012 => config1 s.params
  | 0x013 => BitVec.ofNat 32 s.sramWords
  | a => if 0x0F0 ≤ a then entry s.chState (a - 0x0F0) else 0

/-- Delay-line unit registers (10_state.md R100). -/
def readDelay (d : DelayUnit) (off : Nat) : Word :=
  match off with
  | 0 => d.line.base
  | 1 => d.line.len
  | 2 => d.line.wpt
  | 3 => d.hist
  | 4 => d.fb
  | 5 => d.damp
  | 6 => d.store
  | 7 => bitWord d.valid
  | _ => 0

/-- LFO unit registers (10_state.md R101). -/
def readLfo (l : LfoUnit) (off : Nat) : Word :=
  match off with
  | 0 => l.cycle
  | 1 => l.count
  | 2 => l.wave.code
  | 3 => l.out
  | _ => 0

/-- Filter unit registers (10_state.md R102). -/
def readFilter (f : FilterUnit) (off : Nat) : Word :=
  match off with
  | 0 => f.b0
  | 1 => f.b1
  | 2 => f.b2
  | 3 => f.a1
  | 4 => f.a2
  | 5 => f.x1
  | 6 => f.x2
  | 7 => f.y1
  | 8 => f.y2
  | 9 => f.rf
  | 10 => f.rq
  | 11 => f.rp
  | 12 => f.hist.h0
  | 13 => f.hist.h1
  | 14 => f.hist.h2
  | 15 => f.hist.h3
  | 16 => f.hist.h4
  | 17 => bitWord f.dirty
  | 18 => f.pfreq
  | 19 => f.pq
  | 20 => f.pgain
  | _ => 0

/-- Effect slot registers (10_state.md R103). -/
def readSlot (x : Slot) (off : Nat) : Word :=
  match off with
  | 0x00 => x.fxType
  | 0x01 => x.record.state
  | 0x02 => x.bus.code
  | 0x03 => x.base
  | 0x04 => x.limit
  | 0x05 => x.used
  | off => if 0x10 ≤ off ∧ off < 0x30 then entry x.params (off - 0x10) else 0

/-- The three register arrays of an envelope, `base` being the offset of the first (10_state.md R86, R87). -/
def readEnvArrays (e : EnvRegs) (base off : Nat) : Word :=
  if base ≤ off ∧ off < base + 6 then entry e.rate (off - base)
  else if base + 8 ≤ off ∧ off < base + 14 then entry e.offset (off - (base + 8))
  else if base + 16 ≤ off ∧ off < base + 22 then entry e.follow (off - (base + 16))
  else 0

/-- Voice registers (10_state.md R80 to R90). -/
def readVoiceReg (v : Voice) (off : Nat) : Word :=
  match off with
  | 0x00 => v.ctrl
  | 0x01 => BitVec.ofNat 32 v.status.code
  | 0x02 => BitVec.ofNat 32 v.channel.val
  | 0x03 => v.delay
  | 0x04 => v.srcBase
  | 0x05 => v.cc
  | 0x06 => v.sendRev
  | 0x07 => v.sendCho
  | 0x08 => v.sendDly
  | 0x09 => v.filtF
  | 0x0A => v.filtQ
  | 0x0B => v.filtP
  | 0x0C => v.filtHist.h0
  | 0x0D => v.filtHist.h1
  | 0x0E => v.filtHist.h2
  | 0x0F => v.filtHist.h3
  | 0x10 => v.filtHist.h4
  | 0x18 => v.env.stage
  | 0x19 => v.env.value
  | 0x1A => v.env.target
  | 0x1B => v.env.inc
  | 0x1C => v.lss
  | 0x1D => v.lsr
  | 0x38 => v.menv.stage
  | 0x39 => v.menv.value
  | 0x3A => v.menv.target
  | 0x3B => v.menv.inc
  | 0x3C => v.menvOut
  | 0x58 => v.trem.phase
  | 0x59 => v.trem.inc
  | 0x5A => v.trem.depth
  | 0x5B => v.trem.sweepPos
  | 0x5C => v.trem.sweepInc
  | 0x5D => v.trem.mul
  | 0x60 => v.mix.panL
  | 0x61 => v.mix.panR
  | 0x62 => v.mix.amp
  | 0x63 => v.mix.leftMix
  | 0x64 => v.mix.rightMix
  | 0x65 => v.mix.oldLeft
  | 0x66 => v.mix.oldRight
  | 0x67 => v.mix.leftInc
  | 0x68 => v.mix.rightInc
  | 0x69 => v.mix.leftOfs
  | 0x6A => v.mix.rightOfs
  | 0x70 => v.pdly.base
  | 0x71 => v.pdly.len
  | 0x72 => v.pdly.wpt
  | 0x73 => v.pdly.rpt
  | off => if off < 0x38 then readEnvArrays v.env 0x20 off else readEnvArrays v.menv 0x40 off

/-- The word control register `a` reads as, 0 where nothing is mapped (10_state.md R60, R80, R100 to R103,
R140). Reading changes nothing (20_memory.md R154). -/
def readControl (s : State) (a : Nat) : Word :=
  if a < 0x100 then readGlobal s a
  else if a < 0x400 then 0
  else if a < 0x600 then (s.delays[(a - 0x400) / 8]?).elim 0 fun d => readDelay d ((a - 0x400) % 8)
  else if a < 0x700 then (s.lfos[(a - 0x600) / 4]?).elim 0 fun l => readLfo l ((a - 0x600) % 4)
  else if a < 0x800 then (s.filters[(a - 0x700) / 32]?).elim 0 fun f => readFilter f ((a - 0x700) % 32)
  else if a < 0xC00 then (s.slots[(a - 0x800) / 64]?).elim 0 fun x => readSlot x ((a - 0x800) % 64)
  else if a < 0x1000 then 0
  else if a < 0x2000 then (s.voices[(a - 0x1000) / 0x80]?).elim 0 fun v => readVoiceReg v ((a - 0x1000) % 0x80)
  else 0

/-! ### Writing -/

/-- Global control registers (10_state.md R60 to R70). A write of 1 to RESET resets the block (R900, log 9). -/
def writeGlobal (a : Nat) (v : Word) (s : State) : State :=
  match a with
  | 0x001 => { s with status := s.status &&& ~~~(v &&& stickyMask) }
  | 0x002 => { s with ctrl := v &&& ctrlMask }
  | 0x003 => { s with sampleRate := clampUnsigned v 1 1048576 }
  | 0x004 => { s with controlRatio := clampUnsigned v 1 255 }
  | 0x005 => { s with minSustainTime := v }
  | 0x006 => { s with mixWindow := clampUnsigned v 1 65535 }
  | 0x007 => { s with maxDieTime := clampUnsigned v 1 65535 }
  | 0x008 => { s with outBase := v }
  | 0x009 => if v = 1 then resetBlock s else s
  | 0x00A => { s with busRevBase := v }
  | 0x00B => { s with busChoBase := v }
  | 0x00C => { s with busDlyBase := v }
  | a => if 0x0F0 ≤ a then { s with chState := s.chState.setIfInBounds (a - 0x0F0) (v &&& chStateMask) } else s

/-- Delay-line unit registers (10_state.md R100). -/
def writeDelay (d : DelayUnit) (off : Nat) (v : Word) : DelayUnit :=
  match off with
  | 2 => { d with line := { d.line with wpt := modOrZero v d.line.len } }
  | 3 => { d with hist := v }
  | 4 => { d with fb := v }
  | 5 => { d with damp := clampSigned v 0 0x01000000 }
  | 6 => { d with store := v }
  | _ => d

/-- LFO unit registers (10_state.md R101). -/
def writeLfo (l : LfoUnit) (off : Nat) (v : Word) : LfoUnit :=
  match off with
  | 1 => { l with count := modOrZero v l.cycle }
  | 2 => { l with wave := if v.getLsbD 0 then .triangle else .sine }
  | _ => l

/-- Filter unit registers (10_state.md R102). A write of a design parameter sets F_DIRTY
(43_filters.md R436). -/
def writeFilter (f : FilterUnit) (off : Nat) (v : Word) : FilterUnit :=
  match off with
  | 0 => { f with b0 := v }
  | 1 => { f with b1 := v }
  | 2 => { f with b2 := v }
  | 3 => { f with a1 := v }
  | 4 => { f with a2 := v }
  | 5 => { f with x1 := v }
  | 6 => { f with x2 := v }
  | 7 => { f with y1 := v }
  | 8 => { f with y2 := v }
  | 9 => { f with rf := v }
  | 10 => { f with rq := v }
  | 11 => { f with rp := v }
  | 12 => { f with hist := { f.hist with h0 := v } }
  | 13 => { f with hist := { f.hist with h1 := v } }
  | 14 => { f with hist := { f.hist with h2 := v } }
  | 15 => { f with hist := { f.hist with h3 := v } }
  | 16 => { f with hist := { f.hist with h4 := v } }
  | 17 => { f with dirty := v.getLsbD 0 }
  | 18 => { f with pfreq := v, dirty := true }
  | 19 => { f with pq := v, dirty := true }
  | 20 => { f with pgain := v, dirty := true }
  | _ => f

/-- Effect slot registers (10_state.md R103). A write of a different FX_TYPE discards the slot's effect
(46_effects.md R706). -/
def writeSlot (x : Slot) (off : Nat) (v : Word) : Slot :=
  match off with
  | 0x00 => if v = x.fxType then x else { discardSlot x with fxType := v }
  | 0x02 => (FxBus.ofWord v).elim x fun b => { x with bus := b }
  | 0x03 => { x with base := v }
  | 0x04 => { x with limit := v }
  | off =>
    if 0x10 ≤ off ∧ off < 0x30 then { x with params := x.params.setIfInBounds (off - 0x10) v } else x

/-- The three register arrays of an envelope (10_state.md R86, R87). -/
def writeEnvArrays (e : EnvRegs) (base off : Nat) (v : Word) : EnvRegs :=
  if base ≤ off ∧ off < base + 6 then
    { e with rate := e.rate.setIfInBounds (off - base) (clampSigned v 0 Config.offsetMax) }
  else if base + 8 ≤ off ∧ off < base + 14 then
    { e with offset := e.offset.setIfInBounds (off - (base + 8)) (clampSigned v 0 Config.offsetMax) }
  else if base + 16 ≤ off ∧ off < base + 22 then
    { e with follow := e.follow.setIfInBounds (off - (base + 16)) (clampSigned v 0 (2 ^ 24)) }
  else e

/-- Voice registers (10_state.md R80 to R90). -/
def writeVoiceReg (r : Voice) (off : Nat) (v : Word) : Voice :=
  match off with
  | 0x00 => { r with ctrl := v &&& vCtrlMask }
  | 0x01 => (VoiceStatus.ofWord v).elim r fun st => { r with status := st }
  | 0x02 => { r with channel := Fin.ofNat 16 v.toNat }
  | 0x03 => { r with delay := v }
  | 0x04 => { r with srcBase := v }
  | 0x05 => { r with cc := v }
  | 0x06 => { r with sendRev := v }
  | 0x07 => { r with sendCho := v }
  | 0x08 => { r with sendDly := v }
  | 0x09 => { r with filtF := v }
  | 0x0A => { r with filtQ := v }
  | 0x0B => { r with filtP := v }
  | 0x0C => { r with filtHist := { r.filtHist with h0 := v } }
  | 0x0D => { r with filtHist := { r.filtHist with h1 := v } }
  | 0x0E => { r with filtHist := { r.filtHist with h2 := v } }
  | 0x0F => { r with filtHist := { r.filtHist with h3 := v } }
  | 0x10 => { r with filtHist := { r.filtHist with h4 := v } }
  | 0x18 => { r with env := { r.env with stage := v } }
  | 0x19 => { r with env := { r.env with value := clampSigned v 0 Config.offsetMax } }
  | 0x1A => { r with env := { r.env with target := v } }
  | 0x1B => { r with env := { r.env with inc := v } }
  | 0x1C => { r with lss := v }
  | 0x1D => { r with lsr := v }
  | 0x38 => { r with menv := { r.menv with stage := v } }
  | 0x39 => { r with menv := { r.menv with value := clampSigned v 0 Config.offsetMax } }
  | 0x3A => { r with menv := { r.menv with target := v } }
  | 0x3B => { r with menv := { r.menv with inc := v } }
  | 0x58 => { r with trem := { r.trem with phase := v } }
  | 0x59 => { r with trem := { r.trem with inc := v } }
  | 0x5A => { r with trem := { r.trem with depth := clampSigned v 0 65536 } }
  | 0x5B => { r with trem := { r.trem with sweepPos := clampSigned v 0 65536 } }
  | 0x5C => { r with trem := { r.trem with sweepInc := v } }
  | 0x60 => { r with mix := { r.mix with panL := v } }
  | 0x61 => { r with mix := { r.mix with panR := v } }
  | 0x63 => { r with mix := { r.mix with leftMix := v } }
  | 0x64 => { r with mix := { r.mix with rightMix := v } }
  | 0x65 => { r with mix := { r.mix with oldLeft := v } }
  | 0x66 => { r with mix := { r.mix with oldRight := v } }
  | 0x67 => { r with mix := { r.mix with leftInc := v } }
  | 0x68 => { r with mix := { r.mix with rightInc := v } }
  | 0x69 => { r with mix := { r.mix with leftOfs := v } }
  | 0x6A => { r with mix := { r.mix with rightOfs := v } }
  | 0x70 => { r with pdly := { r.pdly with base := v } }
  | 0x71 => { r with pdly := { r.pdly with len := clampSigned v 0 256 } }
  | 0x72 => { r with pdly := { r.pdly with wpt := modOrZero v r.pdly.len } }
  | 0x73 => { r with pdly := { r.pdly with rpt := modOrZero v r.pdly.len } }
  | off =>
    if off < 0x38 then { r with env := writeEnvArrays r.env 0x20 off v }
    else { r with menv := writeEnvArrays r.menv 0x40 off v }

/-- A write of control register `a`: store, WARL reduction, write-1-to-clear, or nothing for a read-only or
unmapped address (20_memory.md R154, 40_fixedpoint.md R263, 10_state.md R140). -/
def writeControl (a : Nat) (v : Word) (s : State) : State :=
  if a < 0x100 then writeGlobal a v s
  else if a < 0x400 then s
  else if a < 0x600 then
    { s with delays := s.delays.modify ((a - 0x400) / 8) fun d => writeDelay d ((a - 0x400) % 8) v }
  else if a < 0x700 then
    { s with lfos := s.lfos.modify ((a - 0x600) / 4) fun l => writeLfo l ((a - 0x600) % 4) v }
  else if a < 0x800 then
    { s with filters := s.filters.modify ((a - 0x700) / 32) fun f => writeFilter f ((a - 0x700) % 32) v }
  else if a < 0xC00 then
    { s with slots := s.slots.modify ((a - 0x800) / 64) fun x => writeSlot x ((a - 0x800) % 64) v }
  else if a < 0x1000 then s
  else if a < 0x2000 then
    { s with voices := s.voices.modify ((a - 0x1000) / 0x80) fun r => writeVoiceReg r ((a - 0x1000) % 0x80) v }
  else s

end Sys2Proof.Machine
end

