-- ==== Sys2Proof/Machine/Line.lean ====
section
/-! DEFINITION. The circular buffer and the steps built on it, which the delay-line units and the effect slots
share (41_delayline.md sections 1 and 2, 46_effects.md R715). -/

namespace Sys2Proof.Machine

/-- 1.0 in Q24 (00_scope.md R10). -/
def oneQ24 : Int := 2 ^ 24

/-- The longest line that may be allocated (41_delayline.md R353). -/
def maxLineLength : Nat := 2 ^ 24

/-- The address of the write cursor, which is the oldest sample (41_delayline.md R350). -/
def lineCursor (l : Line) : Word := l.base + l.wpt

/-- The line with its cursor advanced (41_delayline.md R350). -/
def lineAdvance (l : Line) : Line := { l with wpt := BitVec.ofNat 32 ((l.wpt.toNat + 1) % l.len.toNat) }

/-- The address of tap `d`, the sample written `d` writes ago, for `1 ≤ d ≤ L` (41_delayline.md R351). -/
def tapAddress (l : Line) (d : Nat) : Word :=
  l.base + BitVec.ofNat 32 ((l.wpt.toNat + l.len.toNat - d) % l.len.toNat)

/-- `tap(u, d)` and `ltap(ℓ, d)`: a tap outside `1..L` is clamped and sets RANGE (41_delayline.md R351,
46_effects.md R715). -/
def lineTap (l : Line) (d : Int) : Cmd Int := do
  let d' := clampInt d 1 l.len.toNat
  raiseFlagIf (decide (d' ≠ d)) .range
  let v ← memRead (tapAddress l d'.toNat)
  pure v.toInt

/-- `push(ℓ, x)`: store at the cursor and advance it (41_delayline.md R350, 46_effects.md R715). -/
def linePush (l : Line) (x : Int) : Cmd Line := do
  memWrite (lineCursor l) (wordOf x)
  pure (lineAdvance l)

/-- `delay(ℓ, x)`: the oldest sample, replaced by `x` (46_effects.md R715). -/
def lineDelay (l : Line) (x : Int) : Cmd (Int × Line) := do
  let y ← memRead (lineCursor l)
  let l' ← linePush l x
  pure (y.toInt, l')

/-- `eta(f)`, the Q24 allpass-interpolation coefficient (41_delayline.md R355). -/
def eta (f : Int) : Int := Int.tdiv ((2 ^ 24 - f) * 2 ^ 24) (2 ^ 24 + f)

/-- The allpass-interpolated read at delay `m + f / 2^24` with history `h`, both operands clamped with RANGE.
The answer is also the new history (41_delayline.md R355, R356). -/
def lineInterp (l : Line) (m f h : Int) : Cmd Int := do
  let f' := clampInt f 0 (2 ^ 24 - 1)
  raiseFlagIf (decide (f' ≠ f)) .range
  let top : Int := (l.len.toNat : Int) - 1
  let m' := clampInt m 1 (max top 1)
  raiseFlagIf (decide (¬(1 ≤ m ∧ m ≤ top))) .range
  let a ← lineTap l (m' + 1)
  let b ← lineTap l m'
  let d ← sat32 (b - h)
  let p ← fmul 24 d (eta f')
  sat32 (a + p)

/-- `interp(ℓ, Dq, h)`: the interpolated read at a Q16 delay (46_effects.md R715). -/
def lineInterpQ16 (l : Line) (dq h : Int) : Cmd Int := lineInterp l (dq / 2 ^ 16) (dq % 2 ^ 16 * 2 ^ 8) h

/-- A damping coefficient is clamped to `0..2^24` before use (46_effects.md R715). -/
def clampDamp (damp : Int) : Int := clampInt damp 0 oneQ24

/-- `lp(st, x, damp)`, the one-pole low-pass (46_effects.md R715; the loop filter of 41_delayline.md R364). -/
def lowPass (st x damp : Int) : Cmd Int := do
  let p ← fmul 24 x (oneQ24 - clampDamp damp)
  let q ← fmul 24 st (clampDamp damp)
  sat32 (p + q)

/-- One comb step: the output, the line after it and the filter store after it (41_delayline.md R364). -/
def combStep (l : Line) (st x fb damp : Int) : Cmd (Int × Line × Int) := do
  let y ← memRead (lineCursor l)
  let st' ← lowPass st y.toInt damp
  let p ← fmul 24 st' fb
  let w ← sat32 (x + p)
  let l' ← linePush l w
  pure (y.toInt, l', st')

/-- One Schroeder allpass step: the output and the line after it (41_delayline.md R365). -/
def apfStep (l : Line) (x g : Int) : Cmd (Int × Line) := do
  let b ← memRead (lineCursor l)
  let y ← sat32 (b.toInt - x)
  let p ← fmul 24 b.toInt g
  let w ← sat32 (x + p)
  let l' ← linePush l w
  pure (y, l')

/-- One lattice allpass step around a read delay `d`: the output and the line after it (46_effects.md R715,
R731). -/
def latticeWith (l : Line) (d x g : Int) : Cmd (Int × Line) := do
  let p ← fmul 24 g d
  let w ← sat32 (x + p)
  let l' ← linePush l w
  let q ← fmul 24 g w
  let y ← sat32 (d - q)
  pure (y, l')

/-- `lat(ℓ, x, g)` (46_effects.md R715). -/
def latStep (l : Line) (x g : Int) : Cmd (Int × Line) := do
  let d ← memRead (lineCursor l)
  latticeWith l d.toInt x g

/-- A number has a divisor in `d, d+1, ..` up to its square root. -/
def hasDivisorFrom : Nat → Nat → Nat → Bool
  | 0, _, _ => false
  | fuel + 1, d, n =>
    if n < d * d then false else if n % d = 0 then true else hasDivisorFrom fuel (d + 1) n

/-- A number is prime, by trial division. -/
def isPrime (n : Nat) : Bool := decide (2 ≤ n) && !hasDivisorFrom n 2 n

/-- The first prime among `n, n+1, ..`. -/
def firstPrimeFrom : Nat → Nat → Nat
  | 0, n => n
  | fuel + 1, n => if isPrime n then n else firstPrimeFrom fuel (n + 1)

/-- `next_prime_ge(n)`; there is a prime below `2n` (41_delayline.md R357, 70_reset_and_hazards.md R931). -/
def nextPrimeGe (n : Nat) : Nat := firstPrimeFrom (max n 2) (max n 2)

end Sys2Proof.Machine
end

