-- ==== Sys2Proof/Machine/DelayLine.lean ====
section
/-! DEFINITION. The delay-line commands (41_delayline.md section 3). -/

namespace Sys2Proof.Machine

/-- Run a command on a configured delay unit; a missing or unconfigured one sets RANGE and nothing else
happens (41_delayline.md R352). -/
def withDelay (u : Nat) (body : DelayUnit → Cmd Unit) : Cmd Unit := do
  let s ← getState
  match s.delays[u]? with
  | none => raiseFlag .range
  | some d => if d.valid then body d else raiseFlag .range

/-- A buffer of this length at this base can be allocated (41_delayline.md R353). -/
def allocates (s : State) (base len : Nat) : Bool :=
  decide (1 ≤ len ∧ len ≤ maxLineLength ∧ base + len ≤ s.sramWords)

/-- A delay unit configured at a base with a length: history reset, gains kept (41_delayline.md R354, R360). -/
def configureDelay (d : DelayUnit) (base len : Word) : DelayUnit :=
  { d with line := { base := base, len := len, wpt := 0 }, hist := 0, store := 0, valid := true }

/-- DLCFG (41_delayline.md R360). -/
def execDlcfg (rs1 rs2 u : Nat) (s : State) : Host.Outcome State Fault Refusal :=
  runCmd (do
    let base ← readReg rs1
    let len ← readReg rs2
    let t ← getState
    match t.delays[u]? with
    | none => raiseFlag .range
    | some d =>
      if allocates t base.toNat len.toNat then do
        update fun t => { t with sram := memZeroWords t.sram base.toNat len.toNat }
        update (State.setDelay u (configureDelay d base len))
      else raiseFatal (.alloc len)) s

/-- DLWR (41_delayline.md R361). -/
def execDlwr (rs1 u : Nat) (s : State) : Host.Outcome State Fault Refusal :=
  runCmd (withDelay u fun d => do
    let x ← readRegS rs1
    let l ← linePush d.line x
    update (State.setDelay u { d with line := l })) s

/-- DLRD (41_delayline.md R362). -/
def execDlrd (rd rs1 u : Nat) (s : State) : Host.Outcome State Fault Refusal :=
  runCmd (withDelay u fun d => do
    let tap ← readRegS rs1
    let v ← lineTap d.line tap
    writeReg rd (wordOf v)) s

/-- DLMRD (41_delayline.md R363). -/
def execDlmrd (rd rs1 rs2 u : Nat) (s : State) : Host.Outcome State Fault Refusal :=
  runCmd (withDelay u fun d => do
    let m ← readRegS rs1
    let f ← readRegS rs2
    let y ← lineInterp d.line m f d.hist.toInt
    update (State.setDelay u { d with hist := wordOf y })
    writeReg rd (wordOf y)) s

/-- COMB (41_delayline.md R364). -/
def execComb (rd rs1 u : Nat) (s : State) : Host.Outcome State Fault Refusal :=
  runCmd (withDelay u fun d => do
    let x ← readRegS rs1
    let (y, l, st) ← combStep d.line d.store.toInt x d.fb.toInt d.damp.toInt
    update (State.setDelay u { d with line := l, store := wordOf st })
    writeReg rd (wordOf y)) s

/-- APF (41_delayline.md R365). -/
def execApf (rd rs1 u : Nat) (s : State) : Host.Outcome State Fault Refusal :=
  runCmd (withDelay u fun d => do
    let x ← readRegS rs1
    let (y, l) ← apfStep d.line x d.fb.toInt
    update (State.setDelay u { d with line := l })
    writeReg rd (wordOf y)) s

end Sys2Proof.Machine
end

