-- ==== Sys2Proof/Machine/Lfo.lean ====
section
/-! DEFINITION. The LFO (42_lfo.md). -/

namespace Sys2Proof.Machine

/-- The triangle waveform (42_lfo.md R402). -/
def triangleWave (i : Nat) : Int := if i ≤ 256 then (i : Int) * 256 else (512 - (i : Int)) * 256

/-- `wave(w, i)`: the sine is read from table RAM, the triangle computed (42_lfo.md R401, R402). -/
def waveAt (w : Waveform) (i : Nat) : Cmd Int :=
  match w with
  | .sine => do
    let v ← tabRead (Config.lfoSineTab + i)
    pure v.toInt
  | .triangle => pure (triangleWave i)

/-- The table index of step `c` of a cycle of `cycle` steps (42_lfo.md R400). -/
def waveIndex (c cycle : Nat) : Nat := c * Config.lfoN / cycle

/-- `lfo_phase(w, φ)` (42_lfo.md R403). -/
def lfoPhase (w : Waveform) (phase : Word) : Cmd Int := waveAt w (phase.extractLsb' 23 9).toNat

/-- The longest LFO cycle (42_lfo.md R410). -/
def maxLfoCycle : Nat := 2 ^ 24

/-- LFOCFG (42_lfo.md R410). -/
def execLfocfg (rs1 rs2 u : Nat) (s : State) : Host.Outcome State Fault Refusal :=
  runCmd (do
    let c ← readReg rs1
    let start ← readReg rs2
    let t ← getState
    match t.lfos[u]? with
    | none => raiseFlag .range
    | some l =>
      let cycle := clampUnsigned c 1 maxLfoCycle
      raiseFlagIf (decide (cycle ≠ c)) .range
      update (State.setLfo u
        { l with cycle := cycle, count := BitVec.ofNat 32 (start.toNat % cycle.toNat), out := 0 })) s

/-- LFOSTEP (42_lfo.md R411). -/
def execLfostep (rd u : Nat) (s : State) : Host.Outcome State Fault Refusal :=
  runCmd (do
    let t ← getState
    match t.lfos[u]? with
    | none => raiseFlag .range
    | some l =>
      if l.cycle = 0 then raiseFlag .range
      else
        let v ← waveAt l.wave (waveIndex l.count.toNat l.cycle.toNat)
        update (State.setLfo u
          { l with count := BitVec.ofNat 32 ((l.count.toNat + 1) % l.cycle.toNat), out := wordOf v })
        writeReg rd (wordOf v)) s

end Sys2Proof.Machine
end

