-- ==== Sys2Proof/Machine/Envelope.lean ====
section
/-! DEFINITION. The envelope state machine, tremolo and the modulation envelope (44_envelope.md). A function that
may free the voice answers `died` (R505). -/

namespace Sys2Proof.Machine

/-! ### Stages (44_envelope.md R500) -/

/-- SUSTAIN. -/
def Voice.sustainStage (v : Voice) : Nat := if v.soundFont then 3 else 2

/-- FIRST_RELEASE. -/
def Voice.firstRelease (v : Voice) : Nat := if v.soundFont then 4 else 3

/-- FINAL. -/
def Voice.finalStage (v : Voice) : Nat := if v.soundFont then 4 else 5

/-- V_STATUS is ON or SUSTAINED. -/
def Voice.held (v : Voice) : Bool := v.status == .on || v.status == .sustained

/-- `clamp(v, 0, OFFSET_MAX)` (44_envelope.md R502). -/
def clampEnv (v : Int) : Int := clampInt v 0 Config.offsetMax

/-! ### Register updates -/

/-- A freed voice (10_state.md R84). -/
def Voice.freed (v : Voice) : Voice := { v with status := .free, ctrl := v.ctrl ||| diedMask }

/-- `free_voice(v)` (44_envelope.md R505). -/
def freeVoice (n : Nat) : Cmd Bool := do
  writeVoice n Voice.freed
  pure true

/-- `ENV_STAGE <- k`. -/
def Voice.withEnvStage (k : Nat) (v : Voice) : Voice := { v with env := { v.env with stage := BitVec.ofNat 32 k } }

/-- `ENV_VALUE <- clamp(x, 0, OFFSET_MAX)` (44_envelope.md R502). -/
def Voice.withEnvValue (x : Int) (v : Voice) : Voice :=
  { v with env := { v.env with value := wordOf (clampEnv x) } }

/-- `ENV_TARGET <- target; ENV_INC <- inc`. -/
def Voice.withEnvRamp (target inc : Int) (v : Voice) : Voice :=
  { v with env := { v.env with target := wordOf target, inc := wordOf inc } }

/-- `ENV_INC <- inc`. -/
def Voice.withEnvInc (inc : Int) (v : Voice) : Voice := { v with env := { v.env with inc := wordOf inc } }

/-- `ENV_LSS <- lss; ENV_LSR <- lsr`. -/
def Voice.withLastStage (lss lsr : Int) (v : Voice) : Voice := { v with lss := wordOf lss, lsr := wordOf lsr }

/-- `MENV_STAGE <- k`. -/
def Voice.withMenvStage (k : Nat) (v : Voice) : Voice :=
  { v with menv := { v.menv with stage := BitVec.ofNat 32 k } }

/-- `MENV_VALUE <- clamp(x, 0, OFFSET_MAX)` (44_envelope.md R541, 10_state.md R87, log 22). -/
def Voice.withMenvValue (x : Int) (v : Voice) : Voice :=
  { v with menv := { v.menv with value := wordOf (clampEnv x) } }

/-- `MENV_TARGET <- target; MENV_INC <- inc`. -/
def Voice.withMenvRamp (target inc : Int) (v : Voice) : Voice :=
  { v with menv := { v.menv with target := wordOf target, inc := wordOf inc } }

/-- `MENV_INC <- inc`. -/
def Voice.withMenvInc (inc : Int) (v : Voice) : Voice := { v with menv := { v.menv with inc := wordOf inc } }

/-- `MENV_OUT <- out; V_CTRL.FILT_DIRTY <- 1` (44_envelope.md R542). -/
def Voice.withMenvOut (out : Int) (v : Voice) : Voice :=
  { v with menvOut := wordOf out, ctrl := v.ctrl ||| filtDirtyMask }

/-- `AMP <- a; LEFT_MIX <- l; RIGHT_MIX <- r`. -/
def Voice.withAmp (a l r : Int) (v : Voice) : Voice :=
  { v with mix := { v.mix with amp := wordOf a, leftMix := wordOf l, rightMix := wordOf r } }

/-! ### Amplitude envelope -/

/-- `MIN_RAMP`, in control blocks (44_envelope.md R515). -/
def minRamp (s : State) : Int := max 1 (Int.tdiv (20 * s.sampleRate.toNat) (1000 * s.controlRatio.toNat))

/-- The scale factor of a release that starts at `value` (44_envelope.md R514). -/
def releaseScale (value : Int) : Int := Int.tdiv (value * 2 ^ 16) Config.offsetMax

/-- Its reciprocal (44_envelope.md R514). -/
def releaseReciprocal (lss : Int) : Int := if lss = 0 then 0 else min (Int.tdiv (2 ^ 32) lss) maxWord

/-- `release_rescale(v, rate)` (44_envelope.md R514). -/
def releaseRescale (n : Nat) (rate : Int) : Cmd Int := do
  let v ← readVoice n
  let lss := releaseScale v.env.value.toInt
  writeVoice n (Voice.withLastStage lss (releaseReciprocal lss))
  let r ← fmul 16 rate lss
  pure (max 1 r)

/-- The rate limits of a stage: the minimum ramp after the attack, then the decay clamp
(44_envelope.md R515, R516). -/
def limitRate (ramp : Int) (stage : Nat) (delta rate : Int) : Int :=
  let r := if stage > 0 then min rate (max 1 (Int.tdiv delta.natAbs ramp)) else rate
  if delta < 0 then clampInt r 1 delta.natAbs else r

/-- `env_next_stage(v)`, given `env_recompute` for the case that the target is already reached
(44_envelope.md R512, R513). -/
def envNextStage (recompute : Cmd Bool) (n : Nat) : Cmd Bool := do
  let s ← getState
  let v ← readVoice n
  let k := v.env.stage.toNat
  if k > v.finalStage then freeVoice n
  else
    writeVoice n (Voice.withEnvStage (k + 1))
    let target := (entry v.env.offset k).toInt
    let base ← fmul 16 (entry v.env.rate k).toInt (entry v.env.follow k).toInt
    let rate ← (if k = v.firstRelease then releaseRescale n base else pure base)
    let delta := target - v.env.value.toInt
    if delta = 0 then recompute
    else
      writeVoice n (Voice.withEnvRamp target (Int.sign delta * limitRate (minRamp s) k delta rate))
      pure false

/-- What the sustain-decay rule decided (44_envelope.md R520). -/
inductive SustainOutcome where
  | hold | decay | skip
  deriving DecidableEq, Repr

/-- The decay time in milliseconds before the pedal, if there is one: MIN_SUSTAIN_TIME above 1 and the
channel's loop timeout, the shorter of the two (44_envelope.md R520). -/
def sustainTime (mst : Int) (ch : Word) : Option Int :=
  let loop : Int := chLoopTimeout ch * 1000
  if mst > 1 then some (if chLoopTimeout ch > 0 ∧ loop < mst then loop else mst)
  else if chLoopTimeout ch > 0 then some loop else none

/-- The pedal shortens the decay of a voice it holds, unless sostenuto does (44_envelope.md R520). -/
def pedalTime (v : Voice) (ch : Word) (t : Int) : Int :=
  if v.status = .sustained ∧ chSostenuto ch = false then Int.tdiv (t * chSustain ch) 127 else t

/-- The decay width in control blocks (44_envelope.md R520). -/
def sustainWidth (s : State) (t : Int) : Int :=
  max 1 (Int.tdiv (t * s.sampleRate.toNat) (1000 * s.controlRatio.toNat))

/-- The decay rate (44_envelope.md R520). -/
def sustainRate (v : Voice) (width : Int) : Int :=
  let rate := max 1 (Int.tdiv (if v.soundFont then v.env.value.toInt else Config.offsetMax) width)
  let table := (entry v.env.rate v.firstRelease).toInt
  if table > 0 then min rate table else rate

/-- `sustain_decay(v)` (44_envelope.md R520). -/
def sustainDecay (n : Nat) : Cmd SustainOutcome := do
  let s ← getState
  let v ← readVoice n
  let ch := entry s.chState v.channel.val
  if s.minSustainTime.toInt = 1 then pure .skip
  else
    match sustainTime s.minSustainTime.toInt ch with
    | none =>
      writeVoice n (Voice.withEnvInc 0)
      pure .hold
    | some t =>
      writeVoice n (Voice.withEnvRamp 0 (-(sustainRate v (sustainWidth s (pedalTime v ch t)))))
      pure .decay

/-- `env_recompute(v)`; the chain of calls has at most FINAL + 2 links (44_envelope.md R511, R512). -/
def envRecompute : Nat → Nat → Cmd Bool
  | 0, _ => pure false
  | fuel + 1, n => do
    let v ← readVoice n
    let k := v.env.stage.toNat
    if k > v.finalStage then freeVoice n
    else if k > v.sustainStage ∧ v.env.value.toInt ≤ 0 then freeVoice n
    else if k = v.firstRelease ∧ v.held = true then
      let r ← sustainDecay n
      if r = .skip then envNextStage (envRecompute fuel n) n else pure false
    else envNextStage (envRecompute fuel n) n

/-- More links than any chain of stages has (44_envelope.md R512, 70_reset_and_hazards.md R931). -/
def stageFuel : Nat := 8

/-- The value crossed its target in the direction of the increment (44_envelope.md R510, R541). -/
def crossed (inc value target : Int) : Bool :=
  decide ((inc > 0 ∧ value ≥ target) ∨ (inc < 0 ∧ value ≤ target))

/-- `env_update(v)` (44_envelope.md R510). -/
def envUpdate (n : Nat) : Cmd Bool := do
  let v ← readVoice n
  let inc := v.env.inc.toInt
  if inc = 0 then pure false
  else
    let value := clampEnv (v.env.value.toInt + inc)
    writeVoice n (Voice.withEnvValue value)
    if crossed inc value v.env.target.toInt then
      writeVoice n (Voice.withEnvValue v.env.target.toInt)
      envRecompute stageFuel n
    else pure false

/-! ### Tremolo -/

/-- Tremolo with its sweep at a new position, which ends it at 1.0 (44_envelope.md R530). -/
def Tremolo.sweptTo (pos : Int) (t : Tremolo) : Tremolo :=
  if pos ≥ 65536 then { t with sweepPos := 65536, sweepInc := 0 } else { t with sweepPos := wordOf pos }

/-- A sum that `trem_update` stores: through sat32 (40_fixedpoint.md R252), with SAT unless the sum is quiet, as
ENVUPD's are, which sets SAT only through fmul (44_envelope.md R560, logs 11 and 27). -/
def tremSum (quiet : Bool) (sum : Int) : Cmd Int := if quiet then pure (sat32Value sum) else sat32 sum

/-- The sweep of `trem_update` (44_envelope.md R530). -/
def Tremolo.sweep (quiet : Bool) (t : Tremolo) : Cmd Tremolo :=
  if t.sweepInc = 0 then pure t
  else do
    let pos ← tremSum quiet (t.sweepPos.toInt + t.sweepInc.toNat)
    pure (t.sweptTo pos)

/-- `trem_update(v)` (44_envelope.md R530, R531). -/
def tremUpdate (quiet : Bool) (n : Nat) : Cmd Unit := do
  let v ← readVoice n
  let t ← v.trem.sweep quiet
  let depth ← fmul 16 t.depth.toInt t.sweepPos.toInt
  let phase := t.phase + t.inc
  let w ← lfoPhase .sine phase
  let p ← fmul 16 depth w
  let m ← tremSum quiet (65536 - p)
  writeVoice n fun v => { v with trem := { t with phase := phase, mul := wordOf m } }

/-! ### Modulation envelope -/

/-- `menv_recompute(v)`, a loop of at most 7 rounds (44_envelope.md R541, 70_reset_and_hazards.md R931). -/
def menvRecompute : Nat → Nat → Cmd Unit
  | 0, _ => pure ()
  | fuel + 1, n => do
    let v ← readVoice n
    let k := v.menv.stage.toNat
    if k > v.finalStage then writeVoice n (Voice.withMenvInc 0)
    else if k = v.firstRelease ∧ v.held = true then writeVoice n (Voice.withMenvInc 0)
    else
      writeVoice n (Voice.withMenvStage (k + 1))
      let target := (entry v.menv.offset k).toInt
      let rate ← fmul 16 (entry v.menv.rate k).toInt (entry v.menv.follow k).toInt
      let delta := target - v.menv.value.toInt
      if delta = 0 then menvRecompute fuel n
      else
        let rate := if delta < 0 then clampInt rate 1 delta.natAbs else rate
        writeVoice n (Voice.withMenvRamp target (Int.sign delta * rate))

/-- `menv_update(v)` (44_envelope.md R541). -/
def menvUpdate (n : Nat) : Cmd Unit := do
  let v ← readVoice n
  let inc := v.menv.inc.toInt
  if inc = 0 then pure ()
  else
    let value := clampEnv (v.menv.value.toInt + inc)
    writeVoice n (Voice.withMenvValue value)
    if crossed inc value v.menv.target.toInt then
      writeVoice n (Voice.withMenvValue v.menv.target.toInt)
      menvRecompute stageFuel n
    else pure ()

/-- `menv_apply(v)` (44_envelope.md R542). -/
def menvApply (n : Nat) : Cmd Unit := do
  let v ← readVoice n
  let out := v.menv.value.toInt / 2 ^ 14
  if wordOf out ≠ v.menvOut then writeVoice n (Voice.withMenvOut out) else pure ()

/-! ### Envelope to amplitude, and updateSignal -/

/-- The table word for an envelope value (44_envelope.md R550). -/
def envTable (base : Nat) (e : Int) : Cmd Int := do
  let w ← tabRead (base + (e / 2 ^ Config.envTabShift).toNat)
  pure w.toInt

/-- The level before tremolo: early table, late table, or the rescaled late table once release runs
(44_envelope.md R550). -/
def envLevel (v : Voice) : Cmd Int :=
  let e := v.env.value.toInt
  let k := v.env.stage.toNat
  if k ≤ 1 then envTable Config.envEarlyTab e
  else if k ≤ v.firstRelease then envTable Config.envLateTab e
  else do
    let r ← fmul 16 e v.lsr.toInt
    let a ← envTable Config.envLateTab (clampEnv r)
    fmul 16 a v.lss.toInt

/-- `env_amp(v)` (44_envelope.md R550, R551). -/
def envAmp (n : Nat) : Cmd Bool := do
  let v ← readVoice n
  let level ← envLevel v
  let a ← (if v.tremEn then fmul 16 level v.trem.mul.toInt else pure level)
  let l ← fmul 16 a v.mix.panL.toInt
  let r ← fmul 16 a v.mix.panR.toInt
  writeVoice n (Voice.withAmp a l r)
  if (v.status = .off ∨ v.status = .sustained) ∧ a ≤ 0 then freeVoice n else pure false

/-- The modulation envelope's turn, skipped while CTRL.MODENV_EN is 0 (44_envelope.md R540). -/
def modulate (body : Cmd Unit) : Cmd Unit := do
  let s ← getState
  if s.modenvEn then body else pure ()

/-- `update_signal(v)`; `quiet` when ENVUPD runs it (44_envelope.md R555, R560, log 27). -/
def updateSignal (quiet : Bool) (n : Nat) : Cmd Bool := do
  let died ← envUpdate n
  if died then pure true
  else
    let v ← readVoice n
    (if v.tremEn = true ∧ v.trem.inc ≠ 0 then tremUpdate quiet n else pure ())
    modulate (do
      menvUpdate n
      menvApply n)
    envAmp n

/-! ### Commands (44_envelope.md section 8) -/

/-- Run a command on a voice: a missing one sets RANGE and nothing else happens, a FREE one has only the
effect `onFree` (44_envelope.md section 8). -/
def withVoice (n : Nat) (onFree body : Cmd Unit) : Cmd Unit := do
  let s ← getState
  match s.voices[n]? with
  | none => raiseFlag .range
  | some v => if v.status = .free then onFree else body

/-- ENVUPD (44_envelope.md R560). -/
def execEnvupd (rd n : Nat) (s : State) : Host.Outcome State Fault Refusal :=
  runCmd (withVoice n (writeReg rd 0) do
    let died ← updateSignal true n
    writeReg rd (bitWord died)) s

/-- ENVAMP (44_envelope.md R561). -/
def execEnvamp (rd n : Nat) (s : State) : Host.Outcome State Fault Refusal :=
  runCmd (withVoice n (writeReg rd 0) do
    let died ← envAmp n
    writeReg rd (bitWord died)) s

/-- TREMUPD (44_envelope.md R562). -/
def execTremupd (n : Nat) (s : State) : Host.Outcome State Fault Refusal :=
  runCmd (withVoice n (pure ()) (tremUpdate false n)) s

/-- MENVUPD (44_envelope.md R563). -/
def execMenvupd (n : Nat) (s : State) : Host.Outcome State Fault Refusal :=
  runCmd (withVoice n (pure ()) (modulate (do
    menvUpdate n
    menvApply n))) s

/-- ENVSTART (44_envelope.md R564). -/
def execEnvstart (n : Nat) (s : State) : Host.Outcome State Fault Refusal :=
  runCmd (withVoice n (pure ()) do
    writeVoice n (fun v => Voice.withEnvInc 0 (Voice.withEnvStage 0 v))
    let died ← envRecompute stageFuel n
    if died then pure ()
    else
      modulate (do
        writeVoice n (fun v => Voice.withMenvInc 0 (Voice.withMenvStage 0 v))
        menvRecompute stageFuel n
        menvApply n)
      let _ ← envAmp n
      pure ()) s

/-- ENVREL (44_envelope.md R565). -/
def execEnvrel (n : Nat) (s : State) : Host.Outcome State Fault Refusal :=
  runCmd (withVoice n (pure ()) do
    writeVoice n (fun v => Voice.withEnvStage v.firstRelease v)
    let died ← envRecompute stageFuel n
    if died then pure ()
    else
      modulate (do
        writeVoice n (fun v => Voice.withMenvStage v.firstRelease v)
        menvRecompute stageFuel n
        menvApply n)
      let _ ← envAmp n
      pure ()) s

end Sys2Proof.Machine
end

