-- ==== Sys2Proof/Machine/Filters.lean ====
section
/-! DEFINITION. The biquad and the resonant low-pass filters (43_filters.md). -/

namespace Sys2Proof.Machine

/-- Run a command on a filter unit; a missing one sets RANGE and nothing else happens
(43_filters.md R460 to R463). -/
def withFilter (u : Nat) (body : FilterUnit → Cmd Unit) : Cmd Unit := do
  let s ← getState
  match s.filters[u]? with
  | none => raiseFlag .range
  | some f => body f

/-- The exact biquad sum (43_filters.md R430). -/
def biquadSum (f : FilterUnit) (x : Int) : Int :=
  f.b0.toInt * x + f.b1.toInt * f.x1.toInt + f.b2.toInt * f.x2.toInt
    - f.a1.toInt * f.y1.toInt - f.a2.toInt * f.y2.toInt

/-- The unit's history shifted by one input and one output (43_filters.md R430, R431). -/
def biquadShift (f : FilterUnit) (x y : Int) : FilterUnit :=
  { f with x2 := f.x1, x1 := wordOf x, y2 := f.y1, y1 := wordOf y }

/-- One Chamberlin step: the output and the history after it (43_filters.md R450). -/
def svfStep (f q : Int) (h : Hist) (x : Int) : Cmd (Int × Hist) := do
  let band := h.h1.toInt
  let p ← fmul 24 f band
  let low ← sat32 (h.h0.toInt + p)
  let xl ← sat32 (x - low)
  let r ← fmul 24 q band
  let high ← sat32 (xl - r)
  let t ← fmul 24 f high
  let band' ← sat32 (band + t)
  pure (low, { h with h0 := wordOf low, h1 := wordOf band' })

/-- One pole of the ladder: `sat32(fmul_24(sat32(a + b), p) - fmul_24(old, f))` (43_filters.md R455). -/
def ladderPole (f p a b old : Int) : Cmd Int := do
  let sum ← sat32 (a + b)
  let u ← fmul 24 sum p
  let v ← fmul 24 old f
  sat32 (u - v)

/-- One Moog ladder step: the output and the history after it (43_filters.md R455). -/
def moogStep (f p q : Int) (h : Hist) (x : Int) : Cmd (Int × Hist) := do
  let b0 := h.h0.toInt
  let b1 := h.h1.toInt
  let b2 := h.h2.toInt
  let b3 := h.h3.toInt
  let b4 := h.h4.toInt
  let r ← fmul 24 q b4
  let xx ← sat32 (x - r)
  let b1' ← ladderPole f p xx b0 b1
  let b2' ← ladderPole f p b1' b1 b2
  let b3' ← ladderPole f p b2' b2 b3
  let b4' ← ladderPole f p b3' b3 b4
  pure (b4', { h0 := wordOf xx, h1 := wordOf b1', h2 := wordOf b2', h3 := wordOf b3', h4 := wordOf b4' })

/-- A filter unit with its history cleared (43_filters.md R463). -/
def clearFilter (f : FilterUnit) : FilterUnit :=
  { f with x1 := 0, x2 := 0, y1 := 0, y2 := 0, hist := Hist.zero }

/-- BQ (43_filters.md R460). -/
def execBq (rd rs1 u : Nat) (s : State) : Host.Outcome State Fault Refusal :=
  runCmd (withFilter u fun f => do
    let x ← readRegS rs1
    let y ← sat32 (biquadSum f x / 2 ^ 24)
    update (State.setFilter u (biquadShift f x y))
    writeReg rd (wordOf y)) s

/-- SVF (43_filters.md R461). -/
def execSvf (rd rs1 u : Nat) (s : State) : Host.Outcome State Fault Refusal :=
  runCmd (withFilter u fun f => do
    let x ← readRegS rs1
    let (y, h) ← svfStep f.rf.toInt f.rq.toInt f.hist x
    update (State.setFilter u { f with hist := h })
    writeReg rd (wordOf y)) s

/-- MOOG (43_filters.md R462). -/
def execMoog (rd rs1 u : Nat) (s : State) : Host.Outcome State Fault Refusal :=
  runCmd (withFilter u fun f => do
    let x ← readRegS rs1
    let (y, h) ← moogStep f.rf.toInt f.rp.toInt f.rq.toInt f.hist x
    update (State.setFilter u { f with hist := h })
    writeReg rd (wordOf y)) s

/-- FCLR (43_filters.md R463). -/
def execFclr (u : Nat) (s : State) : Host.Outcome State Fault Refusal :=
  runCmd (withFilter u fun f => update (State.setFilter u (clearFilter f))) s

end Sys2Proof.Machine
end

