-- ==== Sys2Proof/Machine/Mixer.lean ====
section
/-! DEFINITION. The voice mixer (45_mixer.md). -/

namespace Sys2Proof.Machine

/-! ### Smoothing (45_mixer.md R615) -/

/-- The increment and offset of one side's ramp, before they are narrowed to 32 bits, for the step `d` to
the new level and the window `w` (45_mixer.md R615). -/
def smoothRamp (d w : Int) : Int × Int :=
  if d.natAbs > w then (Int.tdiv d w, Int.tdiv d w * (1 - w))
  else if d ≠ 0 then (Int.sign d, Int.sign d - d)
  else (0, 0)

/-- `mix_smooth(v)`, left then right (45_mixer.md R615, log 11). -/
def mixSmooth (n : Nat) : Cmd Unit := do
  let s ← getState
  let v ← readVoice n
  let w : Int := s.mixWindow.toNat
  let (li, lo) := smoothRamp (v.mix.leftMix.toInt - v.mix.oldLeft.toInt) w
  let (ri, ro) := smoothRamp (v.mix.rightMix.toInt - v.mix.oldRight.toInt) w
  let li ← sat32 li
  let lo ← sat32 lo
  let ri ← sat32 ri
  let ro ← sat32 ro
  writeVoice n fun v => { v with mix := { v.mix with
    leftInc := wordOf li, leftOfs := wordOf lo, rightInc := wordOf ri, rightOfs := wordOf ro } }

/-! ### One frame -/

/-- A side of the stereo pair. -/
inductive Side where
  | left | right
  deriving DecidableEq, Repr

/-- The word of frame `f` on one side of an interleaved stereo buffer, modulo `2^32` (00_scope.md R11,
45_mixer.md R600, log 10). -/
def frameAddress (base f : Word) : Side → Word
  | .left => base + 2 * f
  | .right => base + 2 * f + 1

/-- Add a contribution's share to one send bus; a send level of 0 does not touch the bus
(45_mixer.md R603). The share is computed just before this bus is accessed, so its SAT is not set where an earlier
access of the frame raises Fatal. DESIGN CHOICE, log 29. -/
def sendTo (base f : Word) (side : Side) (send c : Int) : Cmd Unit :=
  if send = 0 then pure ()
  else do
    let share ← fmul 16 c send
    memAccumulate (frameAddress base f side) share

/-- Add a contribution to an output slot and then to the same slot of each bus that the voice sends to,
reverb, chorus, delay (45_mixer.md R602, R603, log 12). -/
def contribute (v : Voice) (f : Word) (side : Side) (c : Int) : Cmd Unit := do
  let s ← getState
  memAccumulate (frameAddress s.outBase f side) c
  sendTo s.busRevBase f side v.sendRev.toInt c
  sendTo s.busChoBase f side v.sendCho.toInt c
  sendTo s.busDlyBase f side v.sendDly.toInt c

/-- One side of a frame, written normally: the contribution is `sat32(s * l)` (45_mixer.md R602). It is computed just
before this side is accessed, so its SAT is not set where an earlier access of the frame raises Fatal. DESIGN CHOICE,
log 29. -/
def mixSide (v : Voice) (f : Word) (side : Side) (sample level : Int) : Cmd Unit := do
  let c ← sat32 (sample * level)
  contribute v f side c

/-- The cursors of a pan delay after one frame (45_mixer.md R620). -/
def panDelayAdvance (p : PanDelay) : PanDelay :=
  { p with wpt := BitVec.ofNat 32 ((p.wpt.toNat + 1) % p.len.toNat),
           rpt := BitVec.ofNat 32 ((p.rpt.toNat + 1) % p.len.toNat) }

/-- The delayed side of a frame: the slot gets the stored, earlier contribution and the new one is stored
(45_mixer.md R620, log 12). That contribution is computed before the side's first access. DESIGN CHOICE, log 29. -/
def mixDelayed (n : Nat) (v : Voice) (f : Word) (side : Side) (sample level : Int) : Cmd Unit := do
  let c ← sat32 (sample * level)
  let old ← memRead (v.pdly.base + v.pdly.rpt)
  contribute v f side old.toInt
  memWrite (v.pdly.base + v.pdly.wpt) (wordOf c)
  writeVoice n fun v => { v with pdly := panDelayAdvance v.pdly }

/-- Pan delay applies to this voice (45_mixer.md R620). -/
def panDelayOn (s : State) (v : Voice) : Bool :=
  v.panMode == 0 && s.pandlyEn && decide (v.pdly.len.toInt > 0)

/-- The slots of a frame by the pan law, with pan delay and sends (45_mixer.md R601, R603, R604, R620). The left side
is computed and accessed in whole before the right side's product is computed. DESIGN CHOICE, logs 12 and 29. -/
def mixSlots (n : Nat) (f : Word) (sample lL lR : Int) : Cmd Unit := do
  let s ← getState
  let v ← readVoice n
  match v.panMode with
  | 0 =>
    if panDelayOn s v then
      if v.pdlyRight then do
        mixSide v f .left sample lL
        mixDelayed n v f .right sample lR
      else do
        mixDelayed n v f .left sample lL
        mixSide v f .right sample lR
    else do
      mixSide v f .left sample lL
      mixSide v f .right sample lR
  | 1 => do
    mixSide v f .left sample lL
    mixSide v f .right sample lL
  | 2 => mixSide v f .left sample lL
  | _ => mixSide v f .right sample lR

/-- The next sample of the resampled source (45_mixer.md R606). -/
def nextSample (n : Nat) : Cmd Int := do
  let v ← readVoice n
  let x ← memRead v.srcBase
  writeVoice n fun v => { v with srcBase := v.srcBase + 1 }
  pure x.toInt

/-- `voice_filter(v, s)`: Chamberlin, Moog or none; FILT 3 is treated as 0 (45_mixer.md R607, 93 U3). -/
def voiceFilter (n : Nat) (x : Int) : Cmd Int := do
  let v ← readVoice n
  match v.filt with
  | 1 => do
    let (y, h) ← svfStep v.filtF.toInt v.filtQ.toInt v.filtHist x
    writeVoice n fun v => { v with filtHist := h }
    pure y
  | 2 => do
    let (y, h) ← moogStep v.filtF.toInt v.filtP.toInt v.filtQ.toInt v.filtHist x
    writeVoice n fun v => { v with filtHist := h }
    pure y
  | _ => pure x

/-- The ramp offset after one frame (45_mixer.md R617). -/
def rampAdvance (ofs inc : Word) : Cmd Word :=
  if ofs = 0 then pure ofs
  else do
    let v ← sat32 (ofs.toInt + inc.toInt)
    pure (wordOf v)

/-- `mix_frame(v, f)` (45_mixer.md R617). -/
def mixFrame (n : Nat) (f : Word) : Cmd Unit := do
  let x ← nextSample n
  let y ← voiceFilter n x
  let v ← readVoice n
  let lL ← sat32 (v.mix.leftMix.toInt + v.mix.leftOfs.toInt)
  let lR ← sat32 (v.mix.rightMix.toInt + v.mix.rightOfs.toInt)
  let lo ← rampAdvance v.mix.leftOfs v.mix.leftInc
  let ro ← rampAdvance v.mix.rightOfs v.mix.rightInc
  writeVoice n fun v => { v with mix := { v.mix with
    leftOfs := lo, rightOfs := ro, oldLeft := wordOf lL, oldRight := wordOf lR } }
  mixSlots n f y lL lR

/-- `count` frames from frame `f`. -/
def mixFrames (n : Nat) : Nat → Word → Cmd Unit
  | 0, _ => pure ()
  | count + 1, f => do
    mixFrame n f
    mixFrames n count (f + 1)

/-! ### Routines (45_mixer.md R611, R612) -/

/-- The control update of the signal variant, when V_CC has run out: answers whether the voice died
(45_mixer.md R611). -/
def controlUpdate (n : Nat) : Cmd Bool := do
  let s ← getState
  let v ← readVoice n
  if v.cc = 0 then
    writeVoice n fun v => { v with cc := s.controlRatio }
    let died ← updateSignal false n
    if died then pure true
    else
      mixSmooth n
      pure false
  else pure false

/-- The signal variant over `left` frames from frame `f`, one round for each control sub-block. Each round
mixes at least one frame, so `left` rounds are enough (45_mixer.md R611, log 21). V_CC, a frame count, takes the exact
difference and no sat32 (90_conflicts.md C4, log 28). -/
def signalVariant (n : Nat) : Nat → Nat → Word → Cmd Bool
  | 0, _, _ => pure false
  | fuel + 1, left, f =>
    if left = 0 then pure false
    else do
      let died ← controlUpdate n
      if died then pure true
      else
        let v ← readVoice n
        let k := min v.cc.toNat left
        mixFrames n k f
        writeVoice n fun v => { v with cc := v.cc - BitVec.ofNat 32 k }
        signalVariant n fuel (left - k) (f + BitVec.ofNat 32 k)

/-- The static variant (45_mixer.md R612). -/
def staticVariant (n count : Nat) (f : Word) : Cmd Bool := do
  mixFrames n count f
  pure false

/-! ### Dying voice (45_mixer.md R630) -/

/-- The die ramp's step for a starting level (45_mixer.md R630, 90_conflicts.md C17). -/
def dieStep (level : Int) (frames : Nat) : Int :=
  if Int.tdiv level frames ≤ 0 then 1 else Int.tdiv level frames

/-- `count` frames of the die ramp from levels `lL`, `lR` (45_mixer.md R630, log 11). -/
def dieFrames (n : Nat) (iL iR : Int) : Nat → Word → Int → Int → Cmd Unit
  | 0, _, _, _ => pure ()
  | count + 1, f, lL, lR => do
    let lL ← sat32 (lL - iL)
    let lR ← sat32 (lR - iR)
    let v ← readVoice n
    if v.panMode = 0 then
      let x ← nextSample n
      let y ← voiceFilter n x
      mixSlots n f y (max lL 0) (max lR 0)
      dieFrames n iL iR count (f + 1) (max lL 0) (max lR 0)
    else if (if v.panMode = 3 then lR else lL) < 0 then pure ()
    else
      let x ← nextSample n
      let y ← voiceFilter n x
      mixSlots n f y lL lR
      dieFrames n iL iR count (f + 1) lL lR

/-- The die ramp, after which the voice is free (45_mixer.md R630). -/
def dieRamp (n count : Nat) (f : Word) : Cmd Bool := do
  let s ← getState
  let v ← readVoice n
  let frames := min count s.maxDieTime.toNat
  let lL ← sat32 (v.mix.leftMix.toInt + v.mix.leftOfs.toInt)
  let lR ← sat32 (v.mix.rightMix.toInt + v.mix.rightOfs.toInt)
  dieFrames n (dieStep lL frames) (dieStep lR frames) frames f lL lR
  freeVoice n

/-! ### Commands (45_mixer.md section 7) -/

/-- MIXSMOOTH (45_mixer.md R640). -/
def execMixsmooth (n : Nat) (s : State) : Host.Outcome State Fault Refusal :=
  runCmd (withVoice n (pure ()) (mixSmooth n)) s

/-- The routine the voice selects (45_mixer.md R610). -/
def mixRoutine (n count : Nat) (f : Word) : Cmd Bool := do
  let v ← readVoice n
  if v.signal then signalVariant n count count f else staticVariant n count f

/-- A voice that is not dying: the pre-attack delay, then its routine (45_mixer.md R605, R641). V_DELAY, a frame
count, takes the exact difference and no sat32 (90_conflicts.md C4, log 28). -/
def mixLive (n count : Nat) (f : Word) : Cmd Bool := do
  let v ← readVoice n
  let wait := v.delay.toNat
  if count < wait then
    writeVoice n fun v => { v with delay := BitVec.ofNat 32 (wait - count) }
    pure false
  else
    writeVoice n fun v => { v with delay := 0 }
    mixRoutine n (count - wait) (f + BitVec.ofNat 32 wait)

/-- MIXV (45_mixer.md R641). -/
def execMixv (rd rs1 rs2 n : Nat) (s : State) : Host.Outcome State Fault Refusal :=
  runCmd (withVoice n (writeReg rd 0) do
    let off ← readReg rs1
    let cnt ← readReg rs2
    let v ← readVoice n
    if cnt = 0 then writeReg rd 0
    else
      let died ← (if v.status = .die then dieRamp n cnt.toNat off else mixLive n cnt.toNat off)
      writeReg rd (bitWord died)) s

end Sys2Proof.Machine
end

