-- ==== Sys2Proof/Machine/Effects.lean ====
section
/-! DEFINITION. Effect slots: Freeverb, the plate, the stereo and the hexa chorus, and BUSCLR (46_effects.md). An
engine frame answers the wet pair and the record after it. -/

namespace Sys2Proof.Machine

/-! ### Parameters and shared pieces -/

/-- A parameter as a signed number (46_effects.md R704). -/
def paramS (p : FxParams) (i : Nat) : Int := (entry p i).toInt

/-- A parameter whose format is unsigned (46_effects.md R710, R730, R750, R755). -/
def paramU (p : FxParams) (i : Nat) : Nat := (entry p i).toNat

/-- `lfo_at(c)` of an engine's sine LFO of cycle `cycle` (46_effects.md R716). -/
def fxLfo (c cycle : Nat) : Cmd Int := waveAt .sine (waveIndex c cycle)

/-- Lines of the given lengths laid out one after another from a base (46_effects.md R705). -/
def layLines : Nat → List Nat → List Line
  | _, [] => []
  | base, len :: rest =>
    { base := BitVec.ofNat 32 base, len := BitVec.ofNat 32 len, wpt := 0 } :: layLines (base + len) rest

/-- The line at a place of a layout. -/
def lineOf (ls : List Line) (i : Nat) : Line := ls[i]?.getD { base := 0, len := 0, wpt := 0 }

/-! ### Freeverb (46_effects.md R710 to R713) -/

/-- The comb tunings at 44100 Hz (46_effects.md R711). -/
def combTunings : List Nat := [1116, 1188, 1277, 1356, 1422, 1491, 1557, 1617]

/-- The allpass tunings at 44100 Hz (46_effects.md R711). -/
def allpassTunings : List Nat := [556, 441, 341, 225]

/-- The scaled length of a tuning (46_effects.md R711). -/
def freeverbScaled (sampleRate scale t : Nat) : Nat := max 1 (t * sampleRate * scale / (44100 * 65536))

/-- The line length of a tuning (46_effects.md R711). -/
def freeverbLength (sampleRate scale t : Nat) : Nat := nextPrimeGe (freeverbScaled sampleRate scale t)

/-- Every line length of Freeverb, in allocation order (46_effects.md R711, R712). -/
def freeverbLengths (sampleRate : Nat) (p : FxParams) : List Nat :=
  let len := freeverbLength sampleRate (paramU p 7)
  let spread := paramU p 8
  combTunings.map len ++ combTunings.map (fun t => len (t + spread)) ++
    allpassTunings.map len ++ allpassTunings.map (fun t => len (t + spread))

/-- The parameters Freeverb accepts (46_effects.md R710). -/
def freeverbValid (p : FxParams) : Bool := decide (paramU p 7 ≠ 0)

/-- A fresh Freeverb record over its lines (46_effects.md R705, R712). -/
def freeverbFresh (p : FxParams) (ls : List Line) : FreeverbRec :=
  let combs := fun (xs : List Line) => xs.map fun l => ({ line := l, st := 0 } : CombLine)
  { params := p, cl := combs (ls.take 8), cr := combs ((ls.drop 8).take 8),
    al := (ls.drop 16).take 4, ar := (ls.drop 20).take 4 }

/-- The combs of one side in parallel, their outputs summed (46_effects.md R713). -/
def combBank (x fb damp : Int) : List CombLine → Int → Cmd (Int × List CombLine)
  | [], acc => pure (acc, [])
  | c :: rest, acc => do
    let (y, l, st) ← combStep c.line c.st.toInt x fb damp
    let acc ← sat32 (acc + y)
    let (total, rest') ← combBank x fb damp rest acc
    pure (total, { line := l, st := wordOf st } :: rest')

/-- The allpasses of one side in series (46_effects.md R713). -/
def apfChain (g : Int) : List Line → Int → Cmd (Int × List Line)
  | [], x => pure (x, [])
  | l :: rest, x => do
    let (y, l') ← apfStep l x g
    let (out, rest') ← apfChain g rest y
    pure (out, l' :: rest')

/-- One Freeverb frame (46_effects.md R713). -/
def freeverbFrame (r : FreeverbRec) (xL xR : Int) : Cmd (Int × Int × FreeverbRec) := do
  let p := r.params
  let mono ← sat32 (xL + xR)
  let xin ← fmul 24 mono (paramS p 6)
  let (aL, cl) ← combBank xin (paramS p 2) (paramS p 3) r.cl 0
  let (aR, cr) ← combBank xin (paramS p 2) (paramS p 3) r.cr 0
  let (aL, al) ← apfChain (paramS p 9) r.al aL
  let (aR, ar) ← apfChain (paramS p 9) r.ar aR
  let l1 ← fmul 16 aL (paramS p 4)
  let l2 ← fmul 16 aR (paramS p 5)
  let wL ← sat32 (l1 + l2)
  let r1 ← fmul 16 aR (paramS p 4)
  let r2 ← fmul 16 aL (paramS p 5)
  let wR ← sat32 (r1 + r2)
  pure (wL, wR, { r with cl := cl, cr := cr, al := al, ar := ar })

/-! ### Plate (46_effects.md R730 to R733) -/

/-- `sc(n)`, a reference length scaled from 29761 Hz (46_effects.md R730). -/
def plateScaled (sampleRate n : Nat) : Nat := max 1 (n * sampleRate / 29761)

/-- `E`, the scaled excursion in Q16 frames (46_effects.md R730). -/
def plateExcursion (sampleRate : Nat) (p : FxParams) : Nat := paramU p 11 * sampleRate / 29761

/-- The length of a modulated allpass (46_effects.md R730). -/
def plateModLength (sampleRate : Nat) (p : FxParams) (n : Nat) : Nat :=
  plateScaled sampleRate n + plateExcursion sampleRate p / 2 ^ 16 + 2

/-- Every line length of the plate after the pre-delay, in allocation order (46_effects.md R730). -/
def plateTankLengths (sampleRate : Nat) (p : FxParams) : List Nat :=
  let sc := plateScaled sampleRate
  [sc 142, sc 107, sc 379, sc 277, plateModLength sampleRate p 672, sc 4453, sc 1800, sc 3720,
    plateModLength sampleRate p 908, sc 4217, sc 2656, sc 3163]

/-- Every line length of the plate; the pre-delay comes first if there is one (46_effects.md R730). -/
def plateLengths (sampleRate : Nat) (p : FxParams) : List Nat :=
  (if paramU p 9 > 0 then [paramU p 9] else []) ++ plateTankLengths sampleRate p

/-- The parameters the plate accepts (46_effects.md R730). -/
def plateValid (p : FxParams) : Bool :=
  decide (1 ≤ paramU p 10 ∧ paramU p 10 ≤ 2 ^ 24 ∧ paramU p 9 ≤ 2 ^ 24)

/-- A fresh plate record over its lines (46_effects.md R705, R730). -/
def plateFresh (p : FxParams) (ls : List Line) : PlateRec :=
  let tank := if paramU p 9 > 0 then ls.drop 1 else ls
  { params := p, pd := if paramU p 9 > 0 then ls.head? else none,
    id1 := lineOf tank 0, id2 := lineOf tank 1, id3 := lineOf tank 2, id4 := lineOf tank 3,
    mal := lineOf tank 4, dl1 := lineOf tank 5, al2 := lineOf tank 6, dl2 := lineOf tank 7,
    mar := lineOf tank 8, dr1 := lineOf tank 9, ar2 := lineOf tank 10, dr2 := lineOf tank 11,
    lp1 := 0, lp2 := 0, tl := 0, tr := 0, hl := 0, hr := 0, c := 0 }

/-- `modlat`, a modulated allpass of the tank: the output, the line and the history after it. SAMPLE_RATE
is read when the frame runs (46_effects.md R731, log 16). -/
def modLat (sampleRate : Nat) (p : FxParams) (l : Line) (x g v h : Int) (n : Nat) : Cmd (Int × Line × Int) := do
  let dq : Int := plateScaled sampleRate n * 2 ^ 16 + plateExcursion sampleRate p * (2 * v - 65536) / 65536
  let d ← lineInterpQ16 l dq h
  let (y, l') ← latticeWith l d x g
  pure (y, l', d)

/-- The pre-delay, if there is one (46_effects.md R732). -/
def preDelay (pd : Option Line) (x : Int) : Cmd (Int × Option Line) :=
  match pd with
  | none => pure (x, none)
  | some l => do
    let (y, l') ← lineDelay l x
    pure (y, some l')

/-- One half of the tank: modulated allpass, delay, low-pass, plain allpass, delay (46_effects.md R732). -/
def plateHalf (sampleRate : Nat) (p : FxParams) (m d1 a2 d2 : Line) (st h u v : Int) (n : Nat) :
    Cmd (Int × Line × Line × Line × Line × Int × Int) := do
  let g ← sat32 (-(paramS p 6))
  let (y, m', h') ← modLat sampleRate p m u g v h n
  let (z, d1') ← lineDelay d1 y
  let st' ← lowPass st z (paramS p 3)
  let q ← fmul 24 st' (paramS p 2)
  let (w, a2') ← latStep a2 q (paramS p 7)
  let (t, d2') ← lineDelay d2 w
  pure (t, m', d1', a2', d2', st', h')

/-- The network of one plate frame (46_effects.md R732). -/
def plateNetwork (sampleRate : Nat) (r : PlateRec) (xL xR : Int) : Cmd PlateRec := do
  let p := r.params
  let cycle := paramU p 10
  let mono ← sat32 (xL + xR)
  let x ← fmul 24 mono (paramS p 8)
  let (x, pd) ← preDelay r.pd x
  let (a, id1) ← latStep r.id1 x (paramS p 4)
  let (a, id2) ← latStep r.id2 a (paramS p 4)
  let (a, id3) ← latStep r.id3 a (paramS p 5)
  let (a, id4) ← latStep r.id4 a (paramS p 5)
  let vL ← fxLfo r.c cycle
  let vR ← fxLfo ((r.c + cycle / 4) % cycle) cycle
  let fR ← fmul 24 (paramS p 2) r.tr.toInt
  let uL ← sat32 (a + fR)
  let fL ← fmul 24 (paramS p 2) r.tl.toInt
  let uR ← sat32 (a + fL)
  let (tl, mal, dl1, al2, dl2, lp1, hl) ←
    plateHalf sampleRate p r.mal r.dl1 r.al2 r.dl2 r.lp1.toInt r.hl.toInt uL vL 672
  let (tr, mar, dr1, ar2, dr2, lp2, hr) ←
    plateHalf sampleRate p r.mar r.dr1 r.ar2 r.dr2 r.lp2.toInt r.hr.toInt uR vR 908
  pure { r with
    pd := pd, id1 := id1, id2 := id2, id3 := id3, id4 := id4, mal := mal, dl1 := dl1, al2 := al2, dl2 := dl2,
    mar := mar, dr1 := dr1, ar2 := ar2, dr2 := dr2, lp1 := wordOf lp1, lp2 := wordOf lp2,
    tl := wordOf tl, tr := wordOf tr, hl := wordOf hl, hr := wordOf hr, c := (r.c + 1) % cycle }

/-- An output tap of the plate (46_effects.md R733). -/
def plateTap (sampleRate : Nat) (l : Line) (n : Nat) : Cmd Int := lineTap l (plateScaled sampleRate n + 1)

/-- The output taps of the plate (46_effects.md R733). -/
def plateTaps (sampleRate : Nat) (r : PlateRec) : Cmd (Int × Int) := do
  let tap := plateTap sampleRate
  let a1 ← tap r.dr1 266
  let a2 ← tap r.dr1 2974
  let a3 ← tap r.ar2 1913
  let a4 ← tap r.dr2 1996
  let a5 ← tap r.dl1 1990
  let a6 ← tap r.al2 187
  let a7 ← tap r.dl2 1066
  let b1 ← tap r.dl1 353
  let b2 ← tap r.dl1 3627
  let b3 ← tap r.al2 1228
  let b4 ← tap r.dl2 2673
  let b5 ← tap r.dr1 2111
  let b6 ← tap r.ar2 335
  let b7 ← tap r.dr2 121
  let sL ← sat32 (a1 + a2 - a3 + a4 - a5 - a6 - a7)
  let sR ← sat32 (b1 + b2 - b3 + b4 - b5 - b6 - b7)
  let wL ← fmul 24 sL (paramS r.params 12)
  let wR ← fmul 24 sR (paramS r.params 12)
  pure (wL, wR)

/-- One plate frame (46_effects.md R732, R733, log 16). -/
def plateFrame (r : PlateRec) (xL xR : Int) : Cmd (Int × Int × PlateRec) := do
  let s ← getState
  let r' ← plateNetwork s.sampleRate.toNat r xL xR
  let (wL, wR) ← plateTaps s.sampleRate.toNat r'
  pure (wL, wR, r')

/-! ### Stereo chorus (46_effects.md R750 to R752) -/

/-- The length of both chorus lines (46_effects.md R750). -/
def chorusLength (p : FxParams) : Nat := (paramU p 2 + paramU p 3) / 2 ^ 16 + 2

/-- The parameters the chorus accepts (46_effects.md R750). -/
def chorusValid (p : FxParams) : Bool :=
  decide (65536 ≤ paramU p 2 ∧ 1 ≤ paramU p 4 ∧ paramU p 4 ≤ 2 ^ 24 ∧
    paramU p 2 + paramU p 3 < 2 ^ 32 ∧ chorusLength p ≤ 2 ^ 24)

/-- A fresh chorus record over its lines (46_effects.md R705, R750). -/
def chorusFresh (p : FxParams) (ls : List Line) : ChorusRec :=
  { params := p, xl := lineOf ls 0, xr := lineOf ls 1, hl := 0, hr := 0, c := 0 }

/-- One channel of the chorus at LFO count `c` (46_effects.md R751, log 17). -/
def chorusChannel (p : FxParams) (l : Line) (h : Word) (x : Int) (c : Nat) : Cmd (Int × Line) := do
  let v ← fxLfo c (paramU p 4)
  let depth ← fmul 16 (paramU p 3) v
  let y ← lineInterpQ16 l (paramU p 2 + depth) h.toInt
  let fb ← fmul 24 y (paramS p 5)
  let w ← sat32 (x + fb)
  let l' ← linePush l w
  pure (y, l')

/-- One chorus frame (46_effects.md R751). -/
def chorusFrame (r : ChorusRec) (xL xR : Int) : Cmd (Int × Int × ChorusRec) := do
  let p := r.params
  let cycle := paramU p 4
  let (wL, xl) ← chorusChannel p r.xl r.hl xL r.c
  let (wR, xr) ← chorusChannel p r.xr r.hr xR ((r.c + paramU p 6) % cycle)
  pure (wL, wR, { r with xl := xl, xr := xr, hl := wordOf wL, hr := wordOf wR, c := (r.c + 1) % cycle })

/-! ### Hexa chorus (46_effects.md R755 to R757) -/

/-- `k_i = 2i - 5` (46_effects.md R755). -/
def hexaK (i : Nat) : Int := 2 * i - 5

/-- `D_i` (46_effects.md R755). -/
def hexaDelay (p : FxParams) (i : Nat) : Int := paramS p 2 + hexaK i * paramS p 6

/-- `P_i` (46_effects.md R755). -/
def hexaDepth (p : FxParams) (i : Nat) : Int := paramS p 3 + hexaK i * paramS p 7

/-- `pan_i` (46_effects.md R755). -/
def hexaPan (p : FxParams) (i : Nat) : Int := clampInt (32768 + hexaK i * paramS p 8) 0 65536

/-- `max_i (D_i + P_i)` (46_effects.md R755). -/
def hexaDeepest (p : FxParams) : Int :=
  (List.range 6).foldl (fun m i => max m (hexaDelay p i + hexaDepth p i)) (hexaDelay p 0 + hexaDepth p 0)

/-- The line length, as an exact number (46_effects.md R755). -/
def hexaLength (p : FxParams) : Int := hexaDeepest p / 2 ^ 16 + 2

/-- The parameters the hexa chorus accepts (46_effects.md R755). -/
def hexaValid (p : FxParams) : Bool :=
  decide (1 ≤ paramU p 4 ∧ paramU p 4 ≤ 2 ^ 24 ∧ (∀ i ∈ List.range 6, 65536 ≤ hexaDelay p i) ∧
    (∀ i ∈ List.range 6, 0 ≤ hexaDepth p i) ∧ hexaLength p ≤ 2 ^ 24)

/-- A fresh hexa chorus record over its line (46_effects.md R705, R755). -/
def hexaFresh (p : FxParams) (ls : List Line) : HexaRec :=
  { params := p, x := lineOf ls 0, h := Vector.replicate 6 0, c := 0 }

/-- The taps `i`, `i + 1`, .. of one frame: the feedback sum, the wet pair and the histories after them
(46_effects.md R756, log 17). -/
def hexaTaps (p : FxParams) (l : Line) (c : Nat) :
    Nat → Nat → Int → Int → Int → Vector Word 6 → Cmd (Int × Int × Int × Vector Word 6)
  | 0, _, acc, wL, wR, h => pure (acc, wL, wR, h)
  | count + 1, i, acc, wL, wR, h => do
    let v ← fxLfo ((c + i * paramU p 4 / 6) % paramU p 4) (paramU p 4)
    let depth ← fmul 16 (hexaDepth p i) v
    let y ← lineInterpQ16 l (hexaDelay p i + depth) (entry h i).toInt
    let acc ← sat32 (acc + y)
    let l1 ← fmul 16 y (65536 - hexaPan p i)
    let wL ← sat32 (wL + l1)
    let r1 ← fmul 16 y (hexaPan p i)
    let wR ← sat32 (wR + r1)
    hexaTaps p l c count (i + 1) acc wL wR (h.setIfInBounds i (wordOf y))

/-- One hexa chorus frame (46_effects.md R756). -/
def hexaFrame (r : HexaRec) (xL xR : Int) : Cmd (Int × Int × HexaRec) := do
  let p := r.params
  let xm ← sat32 (xL + xR)
  let (acc, wL, wR, h) ← hexaTaps p r.x r.c 6 0 0 0 0 r.h
  let fb ← fmul 24 acc (paramS p 5)
  let w ← sat32 (xm + fb)
  let x ← linePush r.x w
  pure (wL, wR, { r with x := x, h := h, c := (r.c + 1) % paramU p 4 })

/-! ### Building a slot (46_effects.md R705 to R708, R770) -/

/-- FX_TYPE names an engine (46_effects.md R701). -/
def hasEngine (x : Slot) : Bool := decide (1 ≤ x.fxType.toNat ∧ x.fxType.toNat ≤ 4)

/-- The engine's validity test on the slot's parameters (46_effects.md R707). -/
def engineValid (x : Slot) : Bool :=
  match x.fxType.toNat with
  | 1 => freeverbValid x.params
  | 2 => plateValid x.params
  | 3 => chorusValid x.params
  | _ => hexaValid x.params

/-- The line lengths the engine needs, in allocation order (46_effects.md R705). -/
def engineLengths (sampleRate : Nat) (x : Slot) : List Nat :=
  match x.fxType.toNat with
  | 1 => freeverbLengths sampleRate x.params
  | 2 => plateLengths sampleRate x.params
  | 3 => [chorusLength x.params, chorusLength x.params]
  | _ => [(hexaLength x.params).toNat]

/-- The engine's record over its lines, everything 0 (46_effects.md R705). -/
def engineFresh (x : Slot) (ls : List Line) : FxRecord :=
  match x.fxType.toNat with
  | 1 => .freeverb (freeverbFresh x.params ls)
  | 2 => .plate (plateFresh x.params ls)
  | 3 => .chorus (chorusFresh x.params ls)
  | _ => .hexa (hexaFresh x.params ls)

/-- The lengths can be allocated in the slot's region (46_effects.md R705). FX_LIMIT is a signed word, FX_BASE
enters exact unsigned arithmetic (00_scope.md R7). -/
def slotAllocates (s : State) (x : Slot) (lens : List Nat) : Bool :=
  lens.all (fun l => decide (1 ≤ l ∧ l ≤ maxLineLength)) &&
    decide ((lens.sum : Int) ≤ x.limit.toInt ∧ x.base.toNat + lens.sum ≤ s.sramWords)

/-- What FATAL_ADDR shows of an FXINIT total: the total, a free value if it does not fit (60_exceptions.md
R807, log 18). -/
def totalInfo (t : Nat) : Word := if t < 2 ^ 32 then BitVec.ofNat 32 t else Config.wideTotal t

/-- Build the effect of slot `i`: FXINIT after its index check (46_effects.md R770, R708). -/
def buildSlot (i : Nat) : Cmd Unit := do
  update fun s => { s with slots := s.slots.modify i discardSlot }
  let s ← getState
  let x := s.slotAt i
  if !hasEngine x then pure ()
  else if !engineValid x then update (State.setSlot i { x with record := .bypassed })
  else
    let lens := engineLengths s.sampleRate.toNat x
    if slotAllocates s x lens then do
      update fun s => { s with sram := memZeroWords s.sram x.base.toNat lens.sum }
      update (State.setSlot i
        { x with used := BitVec.ofNat 32 lens.sum, record := engineFresh x (layLines x.base.toNat lens) })
    else raiseFatal (.alloc (totalInfo lens.sum))

/-! ### Processing (46_effects.md R702, R703, R709, R771) -/

/-- The buffer a slot reads (46_effects.md R703). -/
def inputBase (s : State) : FxBus → Word
  | .reverb => s.busRevBase
  | .chorus => s.busChoBase
  | .delay => s.busDlyBase
  | .insert => s.outBase

/-- A slot that is pass-through: no engine for its type, or bypassed (46_effects.md R709). -/
def passThrough (x : Slot) : Bool := !hasEngine x || x.record == .bypassed

/-- The dry/wet mix of one side (46_effects.md R702). -/
def dryWet (p : FxParams) (x w : Int) : Cmd Int := do
  let d ← fmul 16 x (paramS p 0)
  let e ← fmul 16 w (paramS p 1)
  sat32 (d + e)

/-- The record of slot `i` replaced. -/
def setRecord (i : Nat) (r : FxRecord) : Cmd Unit :=
  update fun s => { s with slots := s.slots.modify i fun x => { x with record := r } }

/-- Store an engine's new record and mix its wet pair with the input (46_effects.md R702). -/
def finishFrame (i : Nat) (p : FxParams) (xL xR wL wR : Int) (r : FxRecord) : Cmd (Int × Int) := do
  setRecord i r
  let yL ← dryWet p xL wL
  let yR ← dryWet p xR wR
  pure (yL, yR)

/-- The output pair of slot `i` for an input pair (46_effects.md R702, R709, R771). -/
def slotFrame (i : Nat) (xL xR : Int) : Cmd (Int × Int) := do
  let s ← getState
  let x := s.slotAt i
  if passThrough x then pure (xL, xR)
  else
    match x.record with
    | .empty => pure (xL, xR)
    | .bypassed => pure (xL, xR)
    | .freeverb r => do
      let (wL, wR, r') ← freeverbFrame r xL xR
      finishFrame i r.params xL xR wL wR (.freeverb r')
    | .plate r => do
      let (wL, wR, r') ← plateFrame r xL xR
      finishFrame i r.params xL xR wL wR (.plate r')
    | .chorus r => do
      let (wL, wR, r') ← chorusFrame r xL xR
      finishFrame i r.params xL xR wL wR (.chorus r')
    | .hexa r => do
      let (wL, wR, r') ← hexaFrame r xL xR
      finishFrame i r.params xL xR wL wR (.hexa r')

/-- Deliver an output pair for frame `f`: send mode adds it to the output block and clears the bus words,
insert mode writes it back (46_effects.md R703). The rule orders the pairs and not the two words of one pair:
the left word's whole access comes before the right word's. DESIGN CHOICE, log 26. -/
def deliver (bus : FxBus) (f : Word) (yL yR : Int) : Cmd Unit := do
  let s ← getState
  if bus = .insert then do
    memWrite (frameAddress s.outBase f .left) (wordOf yL)
    memWrite (frameAddress s.outBase f .right) (wordOf yR)
  else do
    memAccumulate (frameAddress s.outBase f .left) yL
    memAccumulate (frameAddress s.outBase f .right) yR
    memWrite (frameAddress (inputBase s bus) f .left) 0
    memWrite (frameAddress (inputBase s bus) f .right) 0

/-- One frame of slot `i` at output frame `f` (46_effects.md R771). -/
def processFrame (i : Nat) (f : Word) : Cmd Unit := do
  let s ← getState
  let bus := (s.slotAt i).bus
  let xL ← memRead (frameAddress (inputBase s bus) f .left)
  let xR ← memRead (frameAddress (inputBase s bus) f .right)
  let (yL, yR) ← slotFrame i xL.toInt xR.toInt
  deliver bus f yL yR

/-- `count` frames of slot `i` from output frame `f`. -/
def processFrames (i : Nat) : Nat → Word → Cmd Unit
  | 0, _ => pure ()
  | count + 1, f => do
    processFrame i f
    processFrames i count (f + 1)

/-! ### Commands (46_effects.md section 7) -/

/-- Run a command on a slot; a missing one sets RANGE and nothing else happens (46_effects.md R770 to R772). -/
def withSlot (i : Nat) (body : Cmd Unit) : Cmd Unit := do
  let s ← getState
  if i < s.slots.length then body else raiseFlag .range

/-- FXINIT (46_effects.md R770). -/
def execFxinit (slot : Nat) (s : State) : Host.Outcome State Fault Refusal :=
  runCmd (withSlot slot (buildSlot slot)) s

/-- The lazy init of FXPROC (46_effects.md R708). -/
def lazyInit (i : Nat) : Cmd Unit := do
  let s ← getState
  if (s.slotAt i).record = .empty ∧ hasEngine (s.slotAt i) = true then buildSlot i else pure ()

/-- FXPROC (46_effects.md R771). A pass-through slot in insert mode makes no access (R709). -/
def execFxproc (rs1 rs2 slot : Nat) (s : State) : Host.Outcome State Fault Refusal :=
  runCmd (withSlot slot do
    let off ← readReg rs1
    let cnt ← readReg rs2
    lazyInit slot
    let t ← getState
    let x := t.slotAt slot
    if passThrough x = true ∧ x.bus = .insert then pure () else processFrames slot cnt.toNat off) s

/-- FXFREE (46_effects.md R772). -/
def execFxfree (slot : Nat) (s : State) : Host.Outcome State Fault Refusal :=
  runCmd (withSlot slot (update fun t => { t with slots := t.slots.modify slot discardSlot })) s

/-- Clear a buffer if the mask selects it (46_effects.md R773). -/
def clearIf (selected : Bool) (base off : Word) (cnt : Nat) : Cmd Unit :=
  if selected then memClear (2 * cnt) (base + 2 * off) else pure ()

/-- BUSCLR (46_effects.md R773). The frame count is a signed word, so a count of 0 or below clears nothing
(00_scope.md R7). -/
def execBusclr (rs1 rs2 mask : Nat) (s : State) : Host.Outcome State Fault Refusal :=
  runCmd (do
    let off ← readReg rs1
    let cnt ← readRegS rs2
    clearIf (mask.testBit 0) s.busRevBase off cnt.toNat
    clearIf (mask.testBit 1) s.busChoBase off cnt.toNat
    clearIf (mask.testBit 2) s.busDlyBase off cnt.toNat
    clearIf (mask.testBit 3) s.outBase off cnt.toNat) s

end Sys2Proof.Machine
end

