-- ==== Sys2Proof/Machine/FixedPoint.lean ====
section
/-! DEFINITION. Moves, register and memory access, and fixed-point arithmetic (40_fixedpoint.md). -/

namespace Sys2Proof.Machine

/-- `x[rd] <- op(x[rs1], x[rs2])`, the shape of every arithmetic command (40_fixedpoint.md R267 to R283). -/
def arithmetic (op : Int → Int → Cmd Int) (rd rs1 rs2 : Nat) : Cmd Unit := do
  let a ← readRegS rs1
  let b ← readRegS rs2
  let v ← op a b
  writeReg rd (wordOf v)

/-- NOP (40_fixedpoint.md R260). -/
def execNop (s : State) : Host.Outcome State Fault Refusal := runCmd (pure ()) s

/-- LUI (40_fixedpoint.md R261, 30_encoding.md R204). -/
def execLui (rd imm22 : Nat) (s : State) : Host.Outcome State Fault Refusal :=
  runCmd (writeReg rd (BitVec.ofNat 32 (imm22 * 2 ^ 10))) s

/-- ORI (40_fixedpoint.md R264). -/
def execOri (rd rs1 imm : Nat) (s : State) : Host.Outcome State Fault Refusal :=
  runCmd (do
    let a ← readReg rs1
    writeReg rd (a ||| BitVec.ofNat 32 imm)) s

/-- ADDS (40_fixedpoint.md R267). -/
def execAdds (rd rs1 rs2 : Nat) (s : State) : Host.Outcome State Fault Refusal :=
  runCmd (arithmetic adds rd rs1 rs2) s

/-- SUBS (40_fixedpoint.md R268). -/
def execSubs (rd rs1 rs2 : Nat) (s : State) : Host.Outcome State Fault Refusal :=
  runCmd (arithmetic subs rd rs1 rs2) s

/-- RDREG (40_fixedpoint.md R262). -/
def execRdreg (rd rs1 imm : Nat) (s : State) : Host.Outcome State Fault Refusal :=
  runCmd (do
    let base ← readReg rs1
    let t ← getState
    writeReg rd (readControl t (controlAddress base imm))) s

/-- WRREG (40_fixedpoint.md R263). -/
def execWrreg (rs1 rs2 imm : Nat) (s : State) : Host.Outcome State Fault Refusal :=
  runCmd (do
    let base ← readReg rs1
    let v ← readReg rs2
    update (writeControl (controlAddress base imm) v)) s

/-- LDS (40_fixedpoint.md R265). -/
def execLds (rd rs1 imm : Nat) (s : State) : Host.Outcome State Fault Refusal :=
  runCmd (do
    let base ← readReg rs1
    let v ← memRead (effectiveAddress base imm)
    writeReg rd v) s

/-- STS (40_fixedpoint.md R269). -/
def execSts (rs1 rs2 imm : Nat) (s : State) : Host.Outcome State Fault Refusal :=
  runCmd (do
    let base ← readReg rs1
    let v ← readReg rs2
    memWrite (effectiveAddress base imm) v) s

/-- ACCS (40_fixedpoint.md R266). -/
def execAccs (rs1 rs2 imm : Nat) (s : State) : Host.Outcome State Fault Refusal :=
  runCmd (do
    let base ← readReg rs1
    let v ← readRegS rs2
    memAccumulate (effectiveAddress base imm) v) s

/-- FMUL8 (40_fixedpoint.md R270). -/
def execFmul8 (rd rs1 rs2 : Nat) (s : State) : Host.Outcome State Fault Refusal :=
  runCmd (arithmetic (fmul 8) rd rs1 rs2) s

/-- FMUL16 (40_fixedpoint.md R271). -/
def execFmul16 (rd rs1 rs2 : Nat) (s : State) : Host.Outcome State Fault Refusal :=
  runCmd (arithmetic (fmul 16) rd rs1 rs2) s

/-- FMUL24 (40_fixedpoint.md R272). -/
def execFmul24 (rd rs1 rs2 : Nat) (s : State) : Host.Outcome State Fault Refusal :=
  runCmd (arithmetic (fmul 24) rd rs1 rs2) s

/-- FMUL28 (40_fixedpoint.md R273). -/
def execFmul28 (rd rs1 rs2 : Nat) (s : State) : Host.Outcome State Fault Refusal :=
  runCmd (arithmetic (fmul 28) rd rs1 rs2) s

/-- FDIV8 (40_fixedpoint.md R280). -/
def execFdiv8 (rd rs1 rs2 : Nat) (s : State) : Host.Outcome State Fault Refusal :=
  runCmd (arithmetic (fdiv 8) rd rs1 rs2) s

/-- FDIV16 (40_fixedpoint.md R281). -/
def execFdiv16 (rd rs1 rs2 : Nat) (s : State) : Host.Outcome State Fault Refusal :=
  runCmd (arithmetic (fdiv 16) rd rs1 rs2) s

/-- FDIV24 (40_fixedpoint.md R282). -/
def execFdiv24 (rd rs1 rs2 : Nat) (s : State) : Host.Outcome State Fault Refusal :=
  runCmd (arithmetic (fdiv 24) rd rs1 rs2) s

/-- FDIV28 (40_fixedpoint.md R283). -/
def execFdiv28 (rd rs1 rs2 : Nat) (s : State) : Host.Outcome State Fault Refusal :=
  runCmd (arithmetic (fdiv 28) rd rs1 rs2) s

end Sys2Proof.Machine
end

