-- ==== Sys2Proof/Machine/Dispatch.lean ====
section
/-! DEFINITION. The meaning of every command, one arm each (30_encoding.md R210). -/

namespace Sys2Proof.Machine

/-- What a command does. -/
def exec (i : Instr) (s : State) : Host.Outcome State Fault Refusal :=
  match i with
  | .nop => Sys2Proof.Machine.execNop s
  | .lui rd imm22 => Sys2Proof.Machine.execLui rd imm22 s
  | .ori rd rs1 imm => Sys2Proof.Machine.execOri rd rs1 imm s
  | .adds rd rs1 rs2 => Sys2Proof.Machine.execAdds rd rs1 rs2 s
  | .subs rd rs1 rs2 => Sys2Proof.Machine.execSubs rd rs1 rs2 s
  | .rdreg rd rs1 imm => Sys2Proof.Machine.execRdreg rd rs1 imm s
  | .wrreg rs1 rs2 imm => Sys2Proof.Machine.execWrreg rs1 rs2 imm s
  | .lds rd rs1 imm => Sys2Proof.Machine.execLds rd rs1 imm s
  | .sts rs1 rs2 imm => Sys2Proof.Machine.execSts rs1 rs2 imm s
  | .accs rs1 rs2 imm => Sys2Proof.Machine.execAccs rs1 rs2 imm s
  | .fmul8 rd rs1 rs2 => Sys2Proof.Machine.execFmul8 rd rs1 rs2 s
  | .fmul16 rd rs1 rs2 => Sys2Proof.Machine.execFmul16 rd rs1 rs2 s
  | .fmul24 rd rs1 rs2 => Sys2Proof.Machine.execFmul24 rd rs1 rs2 s
  | .fmul28 rd rs1 rs2 => Sys2Proof.Machine.execFmul28 rd rs1 rs2 s
  | .fdiv8 rd rs1 rs2 => Sys2Proof.Machine.execFdiv8 rd rs1 rs2 s
  | .fdiv16 rd rs1 rs2 => Sys2Proof.Machine.execFdiv16 rd rs1 rs2 s
  | .fdiv24 rd rs1 rs2 => Sys2Proof.Machine.execFdiv24 rd rs1 rs2 s
  | .fdiv28 rd rs1 rs2 => Sys2Proof.Machine.execFdiv28 rd rs1 rs2 s
  | .dlcfg rs1 rs2 u => Sys2Proof.Machine.execDlcfg rs1 rs2 u s
  | .dlwr rs1 u => Sys2Proof.Machine.execDlwr rs1 u s
  | .dlrd rd rs1 u => Sys2Proof.Machine.execDlrd rd rs1 u s
  | .dlmrd rd rs1 rs2 u => Sys2Proof.Machine.execDlmrd rd rs1 rs2 u s
  | .comb rd rs1 u => Sys2Proof.Machine.execComb rd rs1 u s
  | .apf rd rs1 u => Sys2Proof.Machine.execApf rd rs1 u s
  | .lfocfg rs1 rs2 u => Sys2Proof.Machine.execLfocfg rs1 rs2 u s
  | .lfostep rd u => Sys2Proof.Machine.execLfostep rd u s
  | .bq rd rs1 u => Sys2Proof.Machine.execBq rd rs1 u s
  | .svf rd rs1 u => Sys2Proof.Machine.execSvf rd rs1 u s
  | .moog rd rs1 u => Sys2Proof.Machine.execMoog rd rs1 u s
  | .fclr u => Sys2Proof.Machine.execFclr u s
  | .envupd rd n => Sys2Proof.Machine.execEnvupd rd n s
  | .envamp rd n => Sys2Proof.Machine.execEnvamp rd n s
  | .tremupd n => Sys2Proof.Machine.execTremupd n s
  | .menvupd n => Sys2Proof.Machine.execMenvupd n s
  | .mixsmooth n => Sys2Proof.Machine.execMixsmooth n s
  | .mixv rd rs1 rs2 n => Sys2Proof.Machine.execMixv rd rs1 rs2 n s
  | .fxinit slot => Sys2Proof.Machine.execFxinit slot s
  | .fxproc rs1 rs2 slot => Sys2Proof.Machine.execFxproc rs1 rs2 slot s
  | .fxfree slot => Sys2Proof.Machine.execFxfree slot s
  | .busclr rs1 rs2 mask => Sys2Proof.Machine.execBusclr rs1 rs2 mask s
  | .envstart n => Sys2Proof.Machine.execEnvstart n s
  | .envrel n => Sys2Proof.Machine.execEnvrel n s

end Sys2Proof.Machine
end

