-- ==== Sys2Proof/Machine/Port.lean ====
section
/-! DEFINITION. The host port: the byte address map, host reads and writes, and the command port
(20_memory.md R160 to R163). -/

namespace Sys2Proof.Machine

/-- What a host byte address selects (20_memory.md R160). -/
inductive HostTarget where
  | control (a : Nat)
  | command
  | tram (a : Nat)
  | sram (a : Nat)
  | nothing
  deriving DecidableEq, Repr

/-- Byte address of the command port (20_memory.md R160). -/
def commandPortAddress : Word := 0x00040000

/-- The byte address map over words: control registers, command port, table RAM, sample RAM, each only as
far as it exists (20_memory.md R150, R160, log 6). -/
def hostTarget (s : State) (addr : Word) : HostTarget :=
  let b := addr.toNat
  if b < 0x40000 then .control (b / 4)
  else if addr = commandPortAddress then .command
  else if 0x100000 ≤ b ∧ b < 0x100000 + 4 * Config.tramWords then .tram ((b - 0x100000) / 4)
  else if 0x1000000 ≤ b ∧ (b - 0x1000000) / 4 < s.sramWords then .sram ((b - 0x1000000) / 4)
  else .nothing

/-- The port performs an access: 32 bits wide and 4-byte aligned (20_memory.md R163). -/
def performed (w : Width) (addr : Word) : Bool := w == .word && decide (addr.toNat % 4 = 0)

/-- The word a host read returns, and the state after it: a read changes nothing, but a read of the
write-only command port takes a fresh free value (20_memory.md R154, R160, log 8). -/
def hostReadWord (s : State) (addr : Word) : Word × State :=
  match hostTarget s addr with
  | .control a => (readControl s a, s)
  | .command => (Config.commandPortRead s.freeCount, { s with freeCount := s.freeCount + 1 })
  | .tram a => (s.tramWord a, s)
  | .sram a => (s.sramWord a, s)
  | .nothing => (0, s)

/-- A host read; one that is not performed returns 0 (20_memory.md R163, log 7). -/
def hostRead (w : Width) (addr : Word) (s : State) : State :=
  if performed w addr then { (hostReadWord s addr).2 with hostData := (hostReadWord s addr).1 }
  else { s with hostData := 0 }

/-- Table RAM with one word stored. -/
def State.withTramWord (a : Nat) (v : Word) (s : State) : State := { s with tram := memPutWord s.tram a v }

/-- A command word arrives: it is executed, or sets ILL, and after a Fatal halt it is discarded
(20_memory.md R161, 30_encoding.md R220, 60_exceptions.md R806). -/
def runWord (run : Instr → State → Host.Outcome State Fault Refusal) (w : Word) (s : State) :
    Host.Outcome State Fault Refusal :=
  if s.fatal then .next s
  else
    match decode w with
    | .ok i => run i { s with cmd := w }
    | .error _ => .next (illegalCommand { s with cmd := w })

/-- A host write; one that is not performed is ignored (20_memory.md R154, R160, R163, log 7). -/
def hostWrite (run : Instr → State → Host.Outcome State Fault Refusal) (w : Width) (addr data : Word)
    (s : State) : Host.Outcome State Fault Refusal :=
  if performed w addr then
    match hostTarget s addr with
    | .control a => .next (writeControl a data s)
    | .command => runWord run data s
    | .tram a => .next (State.withTramWord a data s)
    | .sram a => .next (State.withSramWord a data s)
    | .nothing => .next s
  else .next s

/-- One step of the block and its host: the oldest access of the port is performed, to completion; with none
pending the block is idle and keeps its state (20_memory.md R161, R170, 60_exceptions.md R820, log 2). -/
def portStep (run : Instr → State → Host.Outcome State Fault Refusal) (s : State) :
    Host.Outcome State Fault Refusal :=
  match s.port with
  | [] => .next s
  | .read w addr :: rest => .next (hostRead w addr { s with port := rest })
  | .write w addr data :: rest => hostWrite run w addr data { s with port := rest }

/-- The host's next access is the write of this word to the command port. -/
def State.withCommand (w : Word) (s : State) : State :=
  { s with port := .write .word commandPortAddress w :: s.port }

/-- The word whose low `nbits` bits are those of `w`, the others 0, as its little-endian bytes spell it
(20_memory.md R162). -/
def fetchWord (nbits w : Nat) : Word := BitVec.ofNat 32 (w % 2 ^ nbits)

end Sys2Proof.Machine
end

