-- ==== Sys2Proof/Machine/Step.lean ====
section
/-! DEFINITION. One step of the machine: the oldest pending host access (20_memory.md R161, R170, log 2). -/

namespace Sys2Proof.Machine

/-- One step: the host's oldest pending access, a command-port write running one command to completion. -/
def step (s : State) : Host.Outcome State Fault Refusal := portStep exec s

/-- The state whose next step runs the command word with the low `nbits` bits of `w`: the host is about to
write it to the command port (20_memory.md R160, log 2). -/
def State.withFetchWord (s : State) (nbits w : Nat) : State := s.withCommand (fetchWord nbits w)

end Sys2Proof.Machine
end

