-- ==== Sys2Proof/Safety.lean ====
section
/-! DEFINITION. What counts as a failed run (60_exceptions.md R809, 93 U15) and which accesses and commands a
conforming host issues (93 U3, U4, U7). -/

namespace Sys2Proof.Safety

open Sys2Proof.Machine

/-- The fault that a halted machine records (60_exceptions.md R807). -/
def recordedFault (s : State) : Option Fault :=
  if s.fatal then
    match s.fatalCause with
    | .none => none
    | .badAddr => some (.badAddr s.fatalAddr)
    | .alloc => some (.alloc s.fatalAddr)
  else none

/-- A step with the Fatal halt taken as a fault outcome, as 60_exceptions.md R809 has it; log 1. -/
def verdict (s : State) : Host.Outcome State Fault Refusal :=
  match step s with
  | .next t =>
    match recordedFault t with
    | some f => if s.fatal then .next t else .fault f
    | none => .next t
  | o => o

/-- A host access that the port performs (20_memory.md R163, 93 U4). -/
def conformingAccess : HostAccess → Bool
  | .read w addr => performed w addr
  | .write w addr _ => performed w addr

/-- A command word with an assigned opcode (30_encoding.md R221, 93 U7). -/
def conformingCommand (w : Word) : Bool :=
  match decode w with
  | .ok _ => true
  | .error _ => false

/-- No voice selects the reserved filter 3 (10_state.md R82, 93 U3). -/
def conformingVoices (s : State) : Bool := s.voices.all fun v => v.filt != 3

/-- The block has not halted: the premise of every claim about a command sequence (60_exceptions.md R809). -/
def running (s : State) : Bool := !s.fatal

end Sys2Proof.Safety
end

