-- ==== Sys2Proof/Claims.lean ====
section
/-! DEFINITION. The terms in which the statements of the certificate are written: narrowing and its flags, buffer
taps, legal register values, allocated lines, and which state a command may touch. -/

namespace Sys2Proof.Claims

open Sys2Proof.Machine

/-! ### Arithmetic -/

/-- A number held between two bounds (00_scope.md R9). -/
def clamp (lo hi v : Int) : Int := max lo (min hi v)

/-- A number narrowed to 32 bits (00_scope.md R9 `sat32`). -/
def narrow (v : Int) : Int := clamp (-2147483648) 2147483647 v

/-- Every number of a list fits 32 bits. -/
def fitAll (vs : List Int) : Bool := vs.all fun v => decide (-2147483648 ≤ v ∧ v ≤ 2147483647)

/-- STATUS after narrowing the numbers of a list: SAT is set if one of them did not fit
(60_exceptions.md R801, R804). -/
def satIf (vs : List Int) (st : Word) : Word := if fitAll vs then st else st ||| 1

/-- STATUS after a range check: RANGE is set if an operand was outside (60_exceptions.md R802). -/
def rangeIf (outside : Bool) (st : Word) : Word := if outside then st ||| 4 else st

/-- The exact Q-scaled product, rounded toward minus infinity (40_fixedpoint.md R250). -/
def scaled (q : Nat) (a b : Int) : Int := Int.fdiv (a * b) (2 ^ q)

/-! ### Lines -/

/-- A line lies inside sample RAM and its cursor inside the line (41_delayline.md R350, R353). -/
def lineOk (words : Nat) (l : Line) : Bool :=
  decide (1 ≤ l.len.toNat ∧ l.len.toNat ≤ 2 ^ 24 ∧ l.base.toNat + l.len.toNat ≤ words ∧ l.wpt.toNat < l.len.toNat)

/-- The sample-RAM word that tap `k` of a line reads (41_delayline.md R351). -/
def tapAt (l : Line) (k : Int) : Nat :=
  l.base.toNat + (((l.wpt.toNat : Int) - k) % (l.len.toNat : Int)).toNat

/-- The sample at tap `k` of a line (41_delayline.md R351). -/
def tapSample (s : State) (l : Line) (k : Int) : Int := (s.sramWord (tapAt l k)).toInt

/-- The line with its cursor one further (41_delayline.md R350). -/
def advanced (l : Line) : Line := { l with wpt := BitVec.ofNat 32 ((l.wpt.toNat + 1) % l.len.toNat) }

/-- The lines of an effect record (46_effects.md R712, R730, R750, R755). -/
def recordLines : FxRecord → List Line
  | .empty => []
  | .bypassed => []
  | .freeverb r => r.cl.map (·.line) ++ r.cr.map (·.line) ++ r.al ++ r.ar
  | .plate r => r.pd.toList ++ [r.id1, r.id2, r.id3, r.id4, r.mal, r.dl1, r.al2, r.dl2, r.mar, r.dr1, r.ar2, r.dr2]
  | .chorus r => [r.xl, r.xr]
  | .hexa r => [r.x]

/-- The words of a line, as sample-RAM addresses. -/
def lineWord (l : Line) (a : Nat) : Bool := decide (l.base.toNat ≤ a ∧ a < l.base.toNat + l.len.toNat)

/-! ### Legal values of the registers -/

/-- The registers of an envelope hold legal values (10_state.md R86, R87; 44_envelope.md R502). -/
def envOk (e : EnvRegs) : Bool :=
  decide (e.value.toNat ≤ 0x3FFFFFFF ∧
    (∀ i : Fin 6, e.rate[i].toNat ≤ 0x3FFFFFFF ∧ e.offset[i].toNat ≤ 0x3FFFFFFF ∧ e.follow[i].toNat ≤ 2 ^ 24))

/-- The registers of a voice hold legal values (10_state.md R82, R86 to R90). -/
def voiceOk (v : Voice) : Bool :=
  decide (v.ctrl.toNat < 2 ^ 10) && envOk v.env && envOk v.menv && decide (v.menvOut.toNat ≤ 65535) &&
    decide (v.trem.depth.toNat ≤ 65536 ∧ v.trem.sweepPos.toNat ≤ 65536) &&
    decide (v.pdly.len.toNat ≤ 256 ∧ v.pdly.wpt.toNat ≤ 255 ∧ v.pdly.rpt.toNat ≤ 255)

/-- The count of an LFO unit is below its cycle, and 0 in an unconfigured unit (10_state.md R101,
42_lfo.md R400). -/
def lfoOk (l : LfoUnit) : Bool :=
  decide (l.cycle.toNat ≤ 2 ^ 24) && decide (if l.cycle = 0 then l.count = 0 else l.count.toNat < l.cycle.toNat)

/-- The global registers hold legal values and their reserved bits are 0 (10_state.md R61 to R70). -/
def globalsOk (s : State) : Bool :=
  decide (s.status.toNat < 2 ^ 5 ∧ s.ctrl.toNat < 2 ^ 2 ∧
    (1 ≤ s.sampleRate.toNat ∧ s.sampleRate.toNat ≤ 1048576) ∧
    (1 ≤ s.controlRatio.toNat ∧ s.controlRatio.toNat ≤ 255) ∧
    (1 ≤ s.mixWindow.toNat ∧ s.mixWindow.toNat ≤ 65535) ∧
    (1 ≤ s.maxDieTime.toNat ∧ s.maxDieTime.toNat ≤ 65535) ∧
    ∀ i : Fin 16, s.chState[i].toNat / 2 ^ 8 % 2 ^ 8 = 0)

/-- The voice registers that reset to 1.0 in Q16: the follow multipliers, TREM_SWEEP_POS and TREM_MUL
(70_reset_and_hazards.md R901). -/
def resetsToOne (off : Nat) : Bool :=
  decide ((0x30 ≤ off ∧ off ≤ 0x35) ∨ (0x50 ≤ off ∧ off ≤ 0x55) ∨ off = 0x5B ∨ off = 0x5D)

/-! ### Invariants -/

/-- Both RAMs are in canonical form (log 3). -/
def MemoryCanonical (s : State) : Prop := Memory.wf s.sram = true ∧ Memory.wf s.tram = true

/-- Every register holds a legal value, and STATUS.FATAL is set exactly when a cause is recorded
(60_exceptions.md R806, R807). -/
def RegistersLegal (s : State) : Prop :=
  globalsOk s = true ∧ (s.fatal = true ↔ s.fatalCause ≠ .none) ∧ (∀ v ∈ s.voices, voiceOk v = true) ∧
    (∀ d ∈ s.delays, d.damp.toNat ≤ 2 ^ 24) ∧ (∀ l ∈ s.lfos, lfoOk l = true)

/-- The host has loaded a unipolar sine table (42_lfo.md R401). -/
def SineUnipolar (s : State) : Prop := ∀ i < 512, (s.tramWord (2048 + i)).toNat ≤ 65536

/-- TREM_MUL and LFO_OUT are unipolar (10_state.md R88, R101; 44_envelope.md R531). -/
def OutputsUnipolar (s : State) : Prop :=
  (∀ v ∈ s.voices, v.trem.mul.toNat ≤ 65536) ∧ ∀ l ∈ s.lfos, l.out.toNat ≤ 65536

/-- The LFO count of an effect record is below its cycle (46_effects.md R716). -/
def recordCountOk : FxRecord → Bool
  | .empty => true
  | .bypassed => true
  | .freeverb _ => true
  | .plate r => decide (r.c < r.params[10].toNat)
  | .chorus r => decide (r.c < r.params[4].toNat)
  | .hexa r => decide (r.c < r.params[4].toNat)

/-- The build is legal, every configured line lies inside sample RAM, the LFO count of an effect is below its cycle,
and only an initialised slot has words in use (00_scope.md R6; 41_delayline.md R353; 46_effects.md R705 to R707,
R716). -/
def LinesAllocated (s : State) : Prop :=
  s.params.legal = true ∧
    (∀ d ∈ s.delays, d.valid = true → lineOk s.sramWords d.line = true) ∧
    (∀ x ∈ s.slots, (∀ l ∈ recordLines x.record, lineOk s.sramWords l = true) ∧ recordCountOk x.record = true ∧
      (x.record.state ≠ 1 → x.used = 0))

/-! ### The register map -/

/-- The word a register table gives an offset, 0 where it lists none (10_state.md R80, R140). -/
def listed (table : List (Nat × Word)) (off : Nat) : Word := ((table.find? fun p => p.1 == off).map (·.2)).getD 0

/-- A register array of six words from an offset on. -/
def six (base : Nat) (a : Vector Word 6) : List (Nat × Word) :=
  [(base, a[0]), (base + 1, a[1]), (base + 2, a[2]), (base + 3, a[3]), (base + 4, a[4]), (base + 5, a[5])]

/-- The registers of a delay-line unit by offset (10_state.md R100). -/
def delayRegs (d : DelayUnit) : List (Nat × Word) :=
  [(0, d.line.base), (1, d.line.len), (2, d.line.wpt), (3, d.hist), (4, d.fb), (5, d.damp), (6, d.store),
    (7, if d.valid then 1 else 0)]

/-- The registers of an LFO unit by offset (10_state.md R101). -/
def lfoRegs (l : LfoUnit) : List (Nat × Word) :=
  [(0, l.cycle), (1, l.count), (2, if l.wave = .triangle then 1 else 0), (3, l.out)]

/-- The registers of a filter unit by offset (10_state.md R102). -/
def filterRegs (f : FilterUnit) : List (Nat × Word) :=
  [(0, f.b0), (1, f.b1), (2, f.b2), (3, f.a1), (4, f.a2), (5, f.x1), (6, f.x2), (7, f.y1), (8, f.y2),
    (9, f.rf), (10, f.rq), (11, f.rp), (12, f.hist.h0), (13, f.hist.h1), (14, f.hist.h2), (15, f.hist.h3),
    (16, f.hist.h4), (17, if f.dirty then 1 else 0), (18, f.pfreq), (19, f.pq), (20, f.pgain)]

/-- The number of an input bus in FX_BUS (10_state.md R103). -/
def busCode : FxBus → Word
  | .reverb => 0
  | .chorus => 1
  | .delay => 2
  | .insert => 3

/-- FX_STATE: 0 empty, 1 initialised, 2 bypassed (10_state.md R103). -/
def stateCode : FxRecord → Word
  | .empty => 0
  | .bypassed => 2
  | .freeverb _ => 1
  | .plate _ => 1
  | .chorus _ => 1
  | .hexa _ => 1

/-- The registers of an effect slot by offset (10_state.md R103). -/
def slotRegs (x : Slot) : List (Nat × Word) :=
  [(0x00, x.fxType), (0x01, stateCode x.record), (0x02, busCode x.bus), (0x03, x.base), (0x04, x.limit),
    (0x05, x.used)] ++ (List.finRange 32).map fun i => (0x10 + i.val, x.params[i])

/-- V_STATUS as a number (10_state.md R83). -/
def statusCode : VoiceStatus → Word
  | .free => 0
  | .on => 1
  | .sustained => 2
  | .off => 3
  | .die => 4

/-- The registers of a voice by offset (10_state.md R81 to R90). -/
def voiceRegs (v : Voice) : List (Nat × Word) :=
  [(0x00, v.ctrl), (0x01, statusCode v.status), (0x02, BitVec.ofNat 32 v.channel.val), (0x03, v.delay),
    (0x04, v.srcBase), (0x05, v.cc), (0x06, v.sendRev), (0x07, v.sendCho), (0x08, v.sendDly),
    (0x09, v.filtF), (0x0A, v.filtQ), (0x0B, v.filtP), (0x0C, v.filtHist.h0), (0x0D, v.filtHist.h1),
    (0x0E, v.filtHist.h2), (0x0F, v.filtHist.h3), (0x10, v.filtHist.h4),
    (0x18, v.env.stage), (0x19, v.env.value), (0x1A, v.env.target), (0x1B, v.env.inc), (0x1C, v.lss), (0x1D, v.lsr)] ++
  six 0x20 v.env.rate ++ six 0x28 v.env.offset ++ six 0x30 v.env.follow ++
  [(0x38, v.menv.stage), (0x39, v.menv.value), (0x3A, v.menv.target), (0x3B, v.menv.inc), (0x3C, v.menvOut)] ++
  six 0x40 v.menv.rate ++ six 0x48 v.menv.offset ++ six 0x50 v.menv.follow ++
  [(0x58, v.trem.phase), (0x59, v.trem.inc), (0x5A, v.trem.depth), (0x5B, v.trem.sweepPos), (0x5C, v.trem.sweepInc),
    (0x5D, v.trem.mul), (0x60, v.mix.panL), (0x61, v.mix.panR), (0x62, v.mix.amp), (0x63, v.mix.leftMix),
    (0x64, v.mix.rightMix), (0x65, v.mix.oldLeft), (0x66, v.mix.oldRight), (0x67, v.mix.leftInc),
    (0x68, v.mix.rightInc), (0x69, v.mix.leftOfs), (0x6A, v.mix.rightOfs), (0x70, v.pdly.base), (0x71, v.pdly.len),
    (0x72, v.pdly.wpt), (0x73, v.pdly.rpt)]

/-! ### Envelope stages

A chain of env_recompute and env_next_stage passes through the stages whose target is the value already, and ends at the
first one that it does not pass. -/

/-- The rate of a stage with its follow multiplier, before it is narrowed (44_envelope.md R513). -/
def followed (e : EnvRegs) (k : Nat) : Int := scaled 16 (entry e.rate k).toInt (entry e.follow k).toInt

/-- ENV_LSS and ENV_LSR of a release that starts at a value (44_envelope.md R514). -/
def releaseScales (value : Int) : Int × Int :=
  let lss := value * 2 ^ 16 / 0x3FFFFFFF
  (lss, if lss = 0 then 0 else min (2 ^ 32 / lss) 2147483647)

/-- ENV_INC of stage `k` entered at a value that differs from its target, for the first release stage `first`
(44_envelope.md R512 to R516). -/
def stageIncrement (s : State) (e : EnvRegs) (first k : Nat) (value : Int) : Int :=
  let delta := (entry e.offset k).toInt - value
  let base := narrow (followed e k)
  let rate := if k = first then max 1 (narrow (scaled 16 base (releaseScales value).1)) else base
  let ramp := max 1 (20 * (s.sampleRate.toNat : Int) / (1000 * (s.controlRatio.toNat : Int)))
  let limited := if k = 0 then rate else min rate (max 1 ((delta.natAbs : Int) / ramp))
  if delta < 0 then -(clamp 1 (-delta) limited) else limited

/-- ENV_TARGET and ENV_INC that the sustain-decay rule leaves, from a value (44_envelope.md R520). -/
def sustainRamp (s : State) (v : Voice) (value : Int) : Word × Word :=
  let ch := s.chState[v.channel]
  let mst := s.minSustainTime.toInt
  let loop : Int := (ch.toNat / 2 ^ 16 : Nat) * 1000
  let limit := if mst ≤ 1 then loop else if loop = 0 then mst else min mst loop
  let time := if v.status = .sustained ∧ ch.getLsbD 7 = false then limit * (ch.toNat % 128 : Nat) / 127 else limit
  let width := max 1 (time * (s.sampleRate.toNat : Int) / (1000 * (s.controlRatio.toNat : Int)))
  let whole : Int := if v.ctrl.getLsbD 0 then value else 0x3FFFFFFF
  let table := (entry v.env.rate (if v.ctrl.getLsbD 0 then 4 else 3)).toInt
  let rate := if 0 < table then min (max 1 (whole / width)) table else max 1 (whole / width)
  if limit = 0 then (v.env.target, 0) else (0, BitVec.ofInt 32 (-rate))

/-- How a chain of stages ends. -/
inductive StageEnd where
  | freed | sustains | enters | passes
  deriving DecidableEq, Repr

/-- What happens at stage counter `k` of the amplitude envelope at a value (44_envelope.md R500, R511, R512,
R520). -/
def stageEnd (s : State) (v : Voice) (value : Int) (k : Nat) : StageEnd :=
  let first := if v.ctrl.getLsbD 0 then 4 else 3
  let final := if v.ctrl.getLsbD 0 then 4 else 5
  if final < k ∨ (first ≤ k ∧ value ≤ 0) then .freed
  else if k = first ∧ (v.status = .on ∨ v.status = .sustained) ∧ s.minSustainTime.toInt ≠ 1 then .sustains
  else if (entry v.env.offset k).toInt ≠ value then .enters
  else .passes

/-- The stage counter at which the chain from `k` ends (44_envelope.md R512). -/
def lastStage (s : State) (v : Voice) (value : Int) (k : Nat) : Nat :=
  ((List.range' k 8).find? fun j => stageEnd s v value j != .passes).getD k

/-- The stages whose rate is read on the way from `k`: those passed and the one entered (44_envelope.md R512). -/
def stagesRead (s : State) (v : Voice) (value : Int) (k : Nat) : List Nat :=
  let j := lastStage s v value k
  List.range' k (if stageEnd s v value j = .enters then j + 1 - k else j - k)

/-- The voice after a chain of stages from `k` at a value: freed, sustained, or in the stage entered
(44_envelope.md R505, R511, R512, R514, R520). -/
def stageReached (s : State) (v : Voice) (value : Int) (k : Nat) : Voice :=
  let first := if v.ctrl.getLsbD 0 then 4 else 3
  let j := lastStage s v value k
  let u := if first ∈ stagesRead s v value k then
      { v with lss := BitVec.ofInt 32 (releaseScales value).1, lsr := BitVec.ofInt 32 (releaseScales value).2 }
    else v
  match stageEnd s v value j with
  | .freed => { u with status := .free, ctrl := v.ctrl ||| 0x200, env := { v.env with stage := BitVec.ofNat 32 j } }
  | .sustains => { u with env := { v.env with
      stage := BitVec.ofNat 32 j, target := (sustainRamp s v value).1, inc := (sustainRamp s v value).2 } }
  | .enters => { u with env := { v.env with
      stage := BitVec.ofNat 32 (j + 1), target := entry v.env.offset j,
      inc := BitVec.ofInt 32 (stageIncrement s v.env first j value) } }
  | .passes => u

/-- The numbers that chain narrows (44_envelope.md R513, R514). -/
def stageChecks (s : State) (v : Voice) (value : Int) (k : Nat) : List Int :=
  let first := if v.ctrl.getLsbD 0 then 4 else 3
  (stagesRead s v value k).flatMap fun j =>
    followed v.env j :: if j = first then [scaled 16 (narrow (followed v.env j)) (releaseScales value).1] else []

/-- The modulation envelope stops at stage counter `k`: it is finished, or held before release
(44_envelope.md R541). -/
def modulationHolds (v : Voice) (k : Nat) : Bool :=
  decide ((if v.ctrl.getLsbD 0 then 4 else 5) < k ∨
    (k = (if v.ctrl.getLsbD 0 then 4 else 3) ∧ (v.status = .on ∨ v.status = .sustained)))

/-- The stage counter at which the modulation envelope's loop from `k` ends (44_envelope.md R541). -/
def lastModulationStage (v : Voice) (value : Int) (k : Nat) : Nat :=
  ((List.range' k 8).find? fun j => modulationHolds v j || decide ((entry v.menv.offset j).toInt ≠ value)).getD k

/-- The modulation envelope after its loop from `k` at a value (44_envelope.md R541). -/
def modulationReached (v : Voice) (value : Int) (k : Nat) : EnvRegs :=
  let j := lastModulationStage v value k
  let delta := (entry v.menv.offset j).toInt - value
  let rate := narrow (followed v.menv j)
  if modulationHolds v j then { v.menv with value := BitVec.ofInt 32 value, stage := BitVec.ofNat 32 j, inc := 0 }
  else { v.menv with
    value := BitVec.ofInt 32 value, stage := BitVec.ofNat 32 (j + 1), target := entry v.menv.offset j,
    inc := BitVec.ofInt 32 (if delta < 0 then -(clamp 1 (-delta) rate) else rate) }

/-- The numbers that loop narrows (44_envelope.md R541). -/
def modulationChecks (v : Voice) (value : Int) (k : Nat) : List Int :=
  let j := lastModulationStage v value k
  (List.range' k (if modulationHolds v j then j - k else j + 1 - k)).map (followed v.menv)

/-! ### What a command names -/

/-- The operand register a command writes (30_encoding.md R210). -/
def destination : Instr → Option Nat
  | .lui rd _ => some rd
  | .ori rd _ _ => some rd
  | .adds rd _ _ => some rd
  | .subs rd _ _ => some rd
  | .rdreg rd _ _ => some rd
  | .lds rd _ _ => some rd
  | .fmul8 rd _ _ => some rd
  | .fmul16 rd _ _ => some rd
  | .fmul24 rd _ _ => some rd
  | .fmul28 rd _ _ => some rd
  | .fdiv8 rd _ _ => some rd
  | .fdiv16 rd _ _ => some rd
  | .fdiv24 rd _ _ => some rd
  | .fdiv28 rd _ _ => some rd
  | .dlrd rd _ _ => some rd
  | .dlmrd rd _ _ _ => some rd
  | .comb rd _ _ => some rd
  | .apf rd _ _ => some rd
  | .lfostep rd _ => some rd
  | .bq rd _ _ => some rd
  | .svf rd _ _ => some rd
  | .moog rd _ _ => some rd
  | .envupd rd _ => some rd
  | .envamp rd _ => some rd
  | .mixv rd _ _ _ => some rd
  | .nop => none
  | .wrreg _ _ _ => none
  | .sts _ _ _ => none
  | .accs _ _ _ => none
  | .dlcfg _ _ _ => none
  | .dlwr _ _ => none
  | .lfocfg _ _ _ => none
  | .fclr _ => none
  | .tremupd _ => none
  | .menvupd _ => none
  | .mixsmooth _ => none
  | .fxinit _ => none
  | .fxproc _ _ _ => none
  | .fxfree _ => none
  | .busclr _ _ _ => none
  | .envstart _ => none
  | .envrel _ => none

/-- The command's unit, voice or slot does not exist (30_encoding.md R203, 60_exceptions.md R802). -/
def missingIndex (s : State) : Instr → Bool
  | .dlcfg _ _ u => decide (s.delays.length ≤ u)
  | .dlwr _ u => decide (s.delays.length ≤ u)
  | .dlrd _ _ u => decide (s.delays.length ≤ u)
  | .dlmrd _ _ _ u => decide (s.delays.length ≤ u)
  | .comb _ _ u => decide (s.delays.length ≤ u)
  | .apf _ _ u => decide (s.delays.length ≤ u)
  | .lfocfg _ _ u => decide (s.lfos.length ≤ u)
  | .lfostep _ u => decide (s.lfos.length ≤ u)
  | .bq _ _ u => decide (s.filters.length ≤ u)
  | .svf _ _ u => decide (s.filters.length ≤ u)
  | .moog _ _ u => decide (s.filters.length ≤ u)
  | .fclr u => decide (s.filters.length ≤ u)
  | .envupd _ n => decide (s.voices.length ≤ n)
  | .envamp _ n => decide (s.voices.length ≤ n)
  | .tremupd n => decide (s.voices.length ≤ n)
  | .menvupd n => decide (s.voices.length ≤ n)
  | .envstart n => decide (s.voices.length ≤ n)
  | .envrel n => decide (s.voices.length ≤ n)
  | .mixsmooth n => decide (s.voices.length ≤ n)
  | .mixv _ _ _ n => decide (s.voices.length ≤ n)
  | .fxinit i => decide (s.slots.length ≤ i)
  | .fxproc _ _ i => decide (s.slots.length ≤ i)
  | .fxfree i => decide (s.slots.length ≤ i)
  | .nop => false
  | .lui _ _ => false
  | .ori _ _ _ => false
  | .adds _ _ _ => false
  | .subs _ _ _ => false
  | .rdreg _ _ _ => false
  | .wrreg _ _ _ => false
  | .lds _ _ _ => false
  | .sts _ _ _ => false
  | .accs _ _ _ => false
  | .fmul8 _ _ _ => false
  | .fmul16 _ _ _ => false
  | .fmul24 _ _ _ => false
  | .fmul28 _ _ _ => false
  | .fdiv8 _ _ _ => false
  | .fdiv16 _ _ _ => false
  | .fdiv24 _ _ _ => false
  | .fdiv28 _ _ _ => false
  | .busclr _ _ _ => false

/-- The bits of a command word that its row of 30_encoding.md R210 uses. -/
def usedBits : Instr → Word
  | .nop => 0xFC000000
  | .lui _ _ => 0xFFFFFFFF
  | .ori _ _ _ => 0xFFFC3FFF
  | .adds _ _ _ => 0xFFFFC000
  | .subs _ _ _ => 0xFFFFC000
  | .rdreg _ _ _ => 0xFFFC3FFF
  | .wrreg _ _ _ => 0xFC3FFFFF
  | .lds _ _ _ => 0xFFFC3FFF
  | .sts _ _ _ => 0xFC3FFFFF
  | .accs _ _ _ => 0xFC3FFFFF
  | .fmul8 _ _ _ => 0xFFFFC000
  | .fmul16 _ _ _ => 0xFFFFC000
  | .fmul24 _ _ _ => 0xFFFFC000
  | .fmul28 _ _ _ => 0xFFFFC000
  | .fdiv8 _ _ _ => 0xFFFFC000
  | .fdiv16 _ _ _ => 0xFFFFC000
  | .fdiv24 _ _ _ => 0xFFFFC000
  | .fdiv28 _ _ _ => 0xFFFFC000
  | .dlcfg _ _ _ => 0xFC3FFFFF
  | .dlwr _ _ => 0xFC3C3FFF
  | .dlrd _ _ _ => 0xFFFC3FFF
  | .dlmrd _ _ _ _ => 0xFFFFFFFF
  | .comb _ _ _ => 0xFFFC3FFF
  | .apf _ _ _ => 0xFFFC3FFF
  | .lfocfg _ _ _ => 0xFC3FFFFF
  | .lfostep _ _ => 0xFFC03FFF
  | .bq _ _ _ => 0xFFFC3FFF
  | .svf _ _ _ => 0xFFFC3FFF
  | .moog _ _ _ => 0xFFFC3FFF
  | .fclr _ => 0xFC003FFF
  | .envupd _ _ => 0xFFC03FFF
  | .envamp _ _ => 0xFFC03FFF
  | .tremupd _ => 0xFC003FFF
  | .menvupd _ => 0xFC003FFF
  | .mixsmooth _ => 0xFC003FFF
  | .mixv _ _ _ _ => 0xFFFFFFFF
  | .fxinit _ => 0xFC003FFF
  | .fxproc _ _ _ => 0xFC3FFFFF
  | .fxfree _ => 0xFC003FFF
  | .busclr _ _ _ => 0xFC3FFFFF
  | .envstart _ => 0xFC003FFF
  | .envrel _ => 0xFC003FFF

/-- An opcode that the map leaves unassigned (30_encoding.md R220). -/
def unassignedOpcode (op : Nat) : Bool :=
  decide ((0x0A ≤ op ∧ op ≤ 0x0F) ∨ op = 0x1E ∨ op = 0x1F ∨ op = 0x22 ∨ op = 0x23 ∨ op = 0x2E ∨ op = 0x2F ∨
    (0x36 ≤ op ∧ op ≤ 0x3F))

/-- Every word with this opcode is this command of its fields, whatever its other fields hold
(30_encoding.md R201, R202, R206, R211). -/
def encodes (op : Nat) (command : Word → Instr) : Prop := ∀ w : Word, fieldOp w = op → decode w = .ok (command w)

/-- The control register a command writes, with the word written (40_fixedpoint.md R263). -/
def controlWrite (s : State) : Instr → Option (Nat × Word)
  | .wrreg rs1 rs2 imm => some (((s.reg rs1).toNat + imm) % 2 ^ 16, s.reg rs2)
  | _ => none

/-! ### Mixing and effects -/

/-- Every word of `cnt` frames from frame `off` of a stereo buffer lies in sample RAM (00_scope.md R11). -/
def framesOk (words : Nat) (base : Word) (off cnt : Nat) : Bool := decide (base.toNat + 2 * (off + cnt) ≤ words)

/-- A word of `cnt` frames from frame `off` of a stereo buffer (00_scope.md R11). -/
def frameWord (base : Word) (off cnt a : Nat) : Bool :=
  decide (base.toNat + 2 * off ≤ a ∧ a < base.toNat + 2 * (off + cnt))

/-- PANMODE, V_CTRL bits 2:1: 0 mystery, 1 center, 2 hard left, 3 hard right (10_state.md R82). -/
def panLaw (v : Voice) : Nat := v.ctrl.toNat / 2 % 4

/-- Pan delay applies: PANMODE = 0, CTRL.PANDLY_EN = 1 and PDLY_LEN > 0 (10_state.md R62, 45_mixer.md R620). -/
def panDelayed (s : State) (v : Voice) : Bool :=
  decide (panLaw v = 0 ∧ s.ctrl.getLsbD 1 = true ∧ 0 < v.pdly.len.toInt)

/-- Every address that MIXV of `cnt` frames from `off` can form lies in sample RAM: source, output block, the
buses the voice sends to, the pan-delay buffer (45_mixer.md R600, R603, R606, R620). -/
def mixInRange (s : State) (v : Voice) (off cnt : Nat) : Bool :=
  decide (v.srcBase.toNat + cnt ≤ s.sramWords) && framesOk s.sramWords s.outBase off cnt &&
    (v.sendRev == 0 || framesOk s.sramWords s.busRevBase off cnt) &&
    (v.sendCho == 0 || framesOk s.sramWords s.busChoBase off cnt) &&
    (v.sendDly == 0 || framesOk s.sramWords s.busDlyBase off cnt) &&
    (!panDelayed s v || decide (v.pdly.base.toNat + v.pdly.len.toNat ≤ s.sramWords ∧
      v.pdly.wpt.toNat < v.pdly.len.toNat ∧ v.pdly.rpt.toNat < v.pdly.len.toNat))

/-- A word that MIXV of `cnt` frames from `off` may store to (45_mixer.md R600, R603, R620). -/
def mixWord (s : State) (v : Voice) (off cnt a : Nat) : Bool :=
  frameWord s.outBase off cnt a ||
    (v.sendRev != 0 && frameWord s.busRevBase off cnt a) ||
    (v.sendCho != 0 && frameWord s.busChoBase off cnt a) ||
    (v.sendDly != 0 && frameWord s.busDlyBase off cnt a) ||
    (panDelayed s v && decide (v.pdly.base.toNat ≤ a ∧ a < v.pdly.base.toNat + v.pdly.len.toNat))

/-- A slot is empty although FX_TYPE names an engine: FXPROC builds it first (46_effects.md R708). -/
def needsInit (x : Slot) : Bool := x.record == .empty && hasEngine x

/-- The words an engine allocates, or has allocated (46_effects.md R705). -/
def slotWord (s : State) (x : Slot) (a : Nat) : Bool :=
  if needsInit x then
    engineValid x && decide (x.base.toNat ≤ a ∧ a < x.base.toNat + (engineLengths s.sampleRate.toNat x).sum)
  else (recordLines x.record).any fun l => lineWord l a

/-- The slot can run: its lines lie in sample RAM, or it is empty and its build does not fail
(46_effects.md R705, R708). -/
def slotRunnable (s : State) (x : Slot) : Bool :=
  if needsInit x then !engineValid x || slotAllocates s x (engineLengths s.sampleRate.toNat x)
  else (recordLines x.record).all fun l => lineOk s.sramWords l

/-! ### Addresses in the order of the accesses -/

/-- The word of a frame of a stereo buffer, modulo `2^32`; `side` is 0 for left and 1 for right (00_scope.md R11,
45_mixer.md R600, log 10). -/
def frameAddr (base : Word) (f side : Nat) : Nat := (base.toNat + 2 * f + side) % 2 ^ 32

/-- The words that one side of a mixed frame reads and writes: with pan delay the read of its buffer first and the
write last, the output slot, and the buses the voice sends to (45_mixer.md R602, R603, R620, log 12). -/
def sideAccesses (s : State) (v : Voice) (k f side : Nat) : List Nat :=
  let delayed := panDelayed s v && decide (v.ctrl.getLsbD 3 = decide (side = 1))
  let cursor := fun c : Word => (v.pdly.base.toNat + (if k = 0 then c.toNat else (c.toNat + k) % v.pdly.len.toNat)) % 2 ^ 32
  (if delayed then [cursor v.pdly.rpt] else []) ++ [frameAddr s.outBase f side] ++
    (if v.sendRev = 0 then [] else [frameAddr s.busRevBase f side]) ++
    (if v.sendCho = 0 then [] else [frameAddr s.busChoBase f side]) ++
    (if v.sendDly = 0 then [] else [frameAddr s.busDlyBase f side]) ++
    (if delayed then [cursor v.pdly.wpt] else [])

/-- The words that the static routine reads and writes for `cnt` frames from frame `off`, in order: the sample, the
left side unless panned hard right, the right side unless panned hard left (45_mixer.md R601, R606, R612, R617). -/
def mixAccesses (s : State) (v : Voice) (off cnt : Nat) : List Nat :=
  (List.range cnt).flatMap fun k =>
    [(v.srcBase.toNat + k) % 2 ^ 32] ++ (if panLaw v = 3 then [] else sideAccesses s v k (off + k) 0) ++
      (if panLaw v = 2 then [] else sideAccesses s v k (off + k) 1)

/-- The words outside its own lines that FXPROC accesses for `cnt` frames from frame `off`, in order: the input
pair, the output pair, and the bus pair again (46_effects.md R703, logs 10 and 26). -/
def slotAccesses (s : State) (bus : FxBus) (off cnt : Nat) : List Nat :=
  (List.range cnt).flatMap fun k =>
    [frameAddr (inputBase s bus) (off + k) 0, frameAddr (inputBase s bus) (off + k) 1,
      frameAddr s.outBase (off + k) 0, frameAddr s.outBase (off + k) 1]

/-- The words that BUSCLR writes, in order (46_effects.md R773, log 10). -/
def clearedWords (s : State) (mask off cnt : Nat) : List Nat :=
  ([(0, s.busRevBase), (1, s.busChoBase), (2, s.busDlyBase), (3, s.outBase)].filter fun c => mask.testBit c.1).flatMap
    fun c => (List.range (2 * cnt)).map fun k => (c.2.toNat + 2 * off + k) % 2 ^ 32

/-- The slot makes no access at all: a pass-through slot in insert mode (46_effects.md R707 to R709). -/
def slotQuiet (x : Slot) : Bool :=
  decide (x.bus = .insert) && (!hasEngine x || x.record == .bypassed || (needsInit x && !engineValid x))

end Sys2Proof.Claims
end

