-- ==== Sys2Proof/EngineClaims.lean ====
section
/-! DEFINITION. What one frame of each effect engine computes, over sample RAM as numbers by word address
(46_effects.md R713, R732, R733, R751, R756), with the numbers it narrows and the operands it tests. The accesses stand
in the order of the rules, so lines that overlap each other or the buffers are covered too. -/

namespace Sys2Proof.Claims

open Sys2Proof.Machine

/-- Sample RAM as signed words by word address. -/
abbrev Ram := Nat → Int

/-- The sample RAM of a machine. -/
def ramOf (s : State) : Ram := fun a => (s.sramWord a).toInt

/-- One word stored. -/
def Ram.put (m : Ram) (a : Nat) (v : Int) : Ram := fun b => if b = a then v else m b

/-- Sample RAM in the middle of FXPROC, with the numbers narrowed so far, whether an operand has left its range, the
words of the buffers accessed so far, in order, and the size of sample RAM. -/
structure Scene where
  ram : Ram
  checks : List Int
  outside : Bool
  words : List Nat
  size : Nat

/-- More numbers narrowed (60_exceptions.md R801). -/
def Scene.noting (m : Scene) (vs : List Int) : Scene := { m with checks := m.checks ++ vs }

/-- An operand tested against its range (60_exceptions.md R802). -/
def Scene.testing (m : Scene) (outside : Bool) : Scene := { m with outside := m.outside || outside }

/-- One word stored. -/
def Scene.put (m : Scene) (a : Nat) (v : Int) : Scene := { m with ram := m.ram.put a v }

/-- `fmul_Q` (40_fixedpoint.md R250). -/
def mulQ (q : Nat) (a b : Int) : Int := narrow (scaled q a b)

/-- Parameter `i` as a signed number (46_effects.md R704). -/
def par (p : FxParams) (i : Nat) : Int := ((p[i]?).getD 0).toInt

/-- Parameter `i` as an unsigned number (46_effects.md R704). -/
def parU (p : FxParams) (i : Nat) : Nat := ((p[i]?).getD 0).toNat

/-! ### Line operations (46_effects.md R715, R716) -/

/-- The address of a line's write cursor, which holds its oldest sample (41_delayline.md R350). -/
def cursorOf (l : Line) : Nat := l.base.toNat + l.wpt.toNat

/-- `push(ℓ, x)`. -/
def pushed (l : Line) (x : Int) (m : Scene) : Line × Scene := (advanced l, m.put (cursorOf l) x)

/-- `delay(ℓ, x)`. -/
def delayed (l : Line) (x : Int) (m : Scene) : Int × Line × Scene := (m.ram (cursorOf l), pushed l x m)

/-- `lp(st, x, damp)`, damp held in 0..2^24. -/
def smoothed (st x damp : Int) (m : Scene) : Int × Scene :=
  let d := clamp 0 (2 ^ 24) damp
  let sum := mulQ 24 x (2 ^ 24 - d) + mulQ 24 st d
  (narrow sum, m.noting [scaled 24 x (2 ^ 24 - d), scaled 24 st d, sum])

/-- `comb(ℓ, st, x, fb, damp)` (41_delayline.md R364). -/
def combed (c : CombLine) (x fb damp : Int) (m : Scene) : Int × CombLine × Scene :=
  let y := m.ram (cursorOf c.line)
  let (st, m) := smoothed c.st.toInt y damp m
  let sum := x + mulQ 24 st fb
  let (l, m) := pushed c.line (narrow sum) (m.noting [scaled 24 st fb, sum])
  (y, { line := l, st := BitVec.ofInt 32 st }, m)

/-- `apf(ℓ, x, g)` (41_delayline.md R365). -/
def allpassed (l : Line) (x g : Int) (m : Scene) : Int × Line × Scene :=
  let b := m.ram (cursorOf l)
  let sum := x + mulQ 24 b g
  (narrow (b - x), pushed l (narrow sum) (m.noting [b - x, scaled 24 b g, sum]))

/-- The lattice allpass around a read delay `d` (46_effects.md R715, R731). -/
def latticed (l : Line) (d x g : Int) (m : Scene) : Int × Line × Scene :=
  let sum := x + mulQ 24 g d
  let w := narrow sum
  let y := d - mulQ 24 g w
  (narrow y, pushed l w (m.noting [scaled 24 g d, sum, scaled 24 g w, y]))

/-- `ltap(ℓ, d)`; a tap outside 1..L is clamped. -/
def tapped (l : Line) (d : Int) (m : Ram) : Int := m (tapAt l (clamp 1 l.len.toNat d))

/-- `interp(ℓ, Dq, h)`: the allpass-interpolated read at a Q16 delay, whose integer part lies in 1..L-1 or is
clamped with RANGE (41_delayline.md R355, R356). -/
def interpolated (l : Line) (dq h : Int) (m : Scene) : Int × Scene :=
  let len : Int := l.len.toNat
  let whole := dq / 2 ^ 16
  let d := clamp 1 (max (len - 1) 1) whole
  let f := dq % 2 ^ 16 * 2 ^ 8
  let coefficient := Int.tdiv ((2 ^ 24 - f) * 2 ^ 24) (2 ^ 24 + f)
  let diff := tapped l d m.ram - h
  let y := tapped l (d + 1) m.ram + mulQ 24 (narrow diff) coefficient
  (narrow y, (m.testing (decide (¬(1 ≤ whole ∧ whole ≤ len - 1)))).noting
    [diff, scaled 24 (narrow diff) coefficient, y])

/-- `lfo_at(c)`, the sine table at step `c` of a cycle (46_effects.md R716). -/
def lfoAt (s : State) (c cycle : Nat) : Int := (s.tramWord (2048 + c * 512 / cycle)).toInt

/-! ### Freeverb (46_effects.md R713) -/

/-- The combs of one side, their outputs summed from a number on. -/
def combsSum (x fb damp : Int) : List CombLine → Int → Scene → Int × List CombLine × Scene
  | [], acc, m => (acc, [], m)
  | c :: cs, acc, m =>
    let (y, c', m) := combed c x fb damp m
    let (total, cs', m) := combsSum x fb damp cs (narrow (acc + y)) (m.noting [acc + y])
    (total, c' :: cs', m)

/-- The allpasses of one side in series. -/
def allpassChain (g : Int) : List Line → Int → Scene → Int × List Line × Scene
  | [], x, m => (x, [], m)
  | l :: ls, x, m =>
    let (y, l', m) := allpassed l x g m
    let (out, ls', m) := allpassChain g ls y m
    (out, l' :: ls', m)

/-- Two numbers with a Q16 gain each, added (46_effects.md R702, R713). -/
def blended (x g y h : Int) (m : Scene) : Int × Scene :=
  let sum := mulQ 16 x g + mulQ 16 y h
  (narrow sum, m.noting [scaled 16 x g, scaled 16 y h, sum])

/-- One Freeverb frame: the wet pair, the record and the scene (46_effects.md R713). -/
def freeverbStep (r : FreeverbRec) (xL xR : Int) (m : Scene) : (Int × Int) × FreeverbRec × Scene :=
  let p := par r.params
  let x := mulQ 24 (narrow (xL + xR)) (p 6)
  let m := m.noting [xL + xR, scaled 24 (narrow (xL + xR)) (p 6)]
  let (aL, cl, m) := combsSum x (p 2) (p 3) r.cl 0 m
  let (aR, cr, m) := combsSum x (p 2) (p 3) r.cr 0 m
  let (aL, al, m) := allpassChain (p 9) r.al aL m
  let (aR, ar, m) := allpassChain (p 9) r.ar aR m
  let (wL, m) := blended aL (p 4) aR (p 5) m
  let (wR, m) := blended aR (p 4) aL (p 5) m
  ((wL, wR), { r with cl := cl, cr := cr, al := al, ar := ar }, m)

/-! ### Plate (46_effects.md R730 to R733) -/

/-- `sc(n)` at the machine's SAMPLE_RATE (46_effects.md R730, log 16). -/
def scaledLength (s : State) (n : Nat) : Nat := max 1 (n * s.sampleRate.toNat / 29761)

/-- `modlat(ℓ, x, g, v, h, n)`: the output, the history, the line and the scene (46_effects.md R731). -/
def swungLattice (s : State) (p : FxParams) (l : Line) (x v h : Int) (n : Nat) (m : Scene) :
    Int × Int × Line × Scene :=
  let excursion : Int := (parU p 11 * s.sampleRate.toNat / 29761 : Nat)
  let dq := (scaledLength s n : Int) * 2 ^ 16 + excursion * (2 * v - 65536) / 65536
  let (d, m) := interpolated l dq h (m.noting [-par p 6])
  let (y, l', m) := latticed l d x (narrow (-par p 6)) m
  (y, d, l', m)

/-- One half of the tank: what it puts out, the history, the low-pass store, its four lines and the scene
(46_effects.md R732). -/
def tankHalf (s : State) (p : FxParams) (lm d1 al d2 : Line) (st h x v : Int) (n : Nat) (m : Scene) :
    Int × Int × Int × (Line × Line × Line × Line) × Scene :=
  let (y, h', lm', m) := swungLattice s p lm x v h n m
  let (z, d1', m) := delayed d1 y m
  let (st', m) := smoothed st z (par p 3) m
  let m := m.noting [scaled 24 st' (par p 2)]
  let (w, al', m) := latticed al (m.ram (cursorOf al)) (mulQ 24 st' (par p 2)) (par p 7) m
  let (t, d2', m) := delayed d2 w m
  (t, h', st', (lm', d1', al', d2'), m)

/-- The network of one plate frame: the record and the scene (46_effects.md R732). -/
def plateNetworkStep (s : State) (r : PlateRec) (xL xR : Int) (m : Scene) : PlateRec × Scene :=
  let p := par r.params
  let cycle := parU r.params 10
  let mono := narrow (xL + xR)
  let m := m.noting [xL + xR, scaled 24 mono (p 8)]
  let (x, pd, m) : Int × Option Line × Scene := match r.pd with
    | none => (mulQ 24 mono (p 8), none, m)
    | some l =>
      let (x, l', m) := delayed l (mulQ 24 mono (p 8)) m
      (x, some l', m)
  let (a, id1, m) := latticed r.id1 (m.ram (cursorOf r.id1)) x (p 4) m
  let (a, id2, m) := latticed r.id2 (m.ram (cursorOf r.id2)) a (p 4) m
  let (a, id3, m) := latticed r.id3 (m.ram (cursorOf r.id3)) a (p 5) m
  let (a, id4, m) := latticed r.id4 (m.ram (cursorOf r.id4)) a (p 5) m
  let uL := a + mulQ 24 (p 2) r.tr.toInt
  let uR := a + mulQ 24 (p 2) r.tl.toInt
  let m := m.noting [scaled 24 (p 2) r.tr.toInt, uL, scaled 24 (p 2) r.tl.toInt, uR]
  let vL := lfoAt s r.c cycle
  let vR := lfoAt s ((r.c + cycle / 4) % cycle) cycle
  let (tl, hl, lp1, (mal, dl1, al2, dl2), m) :=
    tankHalf s r.params r.mal r.dl1 r.al2 r.dl2 r.lp1.toInt r.hl.toInt (narrow uL) vL 672 m
  let (tr, hr, lp2, (mar, dr1, ar2, dr2), m) :=
    tankHalf s r.params r.mar r.dr1 r.ar2 r.dr2 r.lp2.toInt r.hr.toInt (narrow uR) vR 908 m
  let w := BitVec.ofInt 32
  ({ params := r.params, pd := pd, id1 := id1, id2 := id2, id3 := id3, id4 := id4,
     mal := mal, dl1 := dl1, al2 := al2, dl2 := dl2, mar := mar, dr1 := dr1, ar2 := ar2, dr2 := dr2,
     lp1 := w lp1, lp2 := w lp2, tl := w tl, tr := w tr, hl := w hl, hr := w hr, c := (r.c + 1) % cycle }, m)

/-- The output taps of one side: lines with their reference positions and signs (46_effects.md R733). -/
def tapsLeft (r : PlateRec) : List (Line × Nat × Int) :=
  [(r.dr1, 266, 1), (r.dr1, 2974, 1), (r.ar2, 1913, -1), (r.dr2, 1996, 1), (r.dl1, 1990, -1), (r.al2, 187, -1),
    (r.dl2, 1066, -1)]

/-- The output taps of the other side (46_effects.md R733). -/
def tapsRight (r : PlateRec) : List (Line × Nat × Int) :=
  [(r.dl1, 353, 1), (r.dl1, 3627, 1), (r.al2, 1228, -1), (r.dl2, 2673, 1), (r.dr1, 2111, -1), (r.ar2, 335, -1),
    (r.dr2, 121, -1)]

/-- The exact sum of output taps, narrowed once, with the output gain (46_effects.md R733). -/
def tapsSum (s : State) (p : FxParams) (taps : List (Line × Nat × Int)) (m : Scene) : Int × Scene :=
  let delay := fun n => (scaledLength s n : Int) + 1
  let sum := (taps.map fun t => t.2.2 * tapped t.1 (delay t.2.1) m.ram).sum
  (mulQ 24 (narrow sum) (par p 12),
    (m.testing (taps.any fun t => decide (¬(1 ≤ delay t.2.1 ∧ delay t.2.1 ≤ t.1.len.toNat)))).noting
      [sum, scaled 24 (narrow sum) (par p 12)])

/-- One plate frame: the wet pair, the record and the scene (46_effects.md R732, R733). -/
def plateStep (s : State) (r : PlateRec) (xL xR : Int) (m : Scene) : (Int × Int) × PlateRec × Scene :=
  let (r', m) := plateNetworkStep s r xL xR m
  let (wL, m) := tapsSum s r.params (tapsLeft r') m
  let (wR, m) := tapsSum s r.params (tapsRight r') m
  ((wL, wR), r', m)

/-! ### Choruses (46_effects.md R751, R755, R756) -/

/-- One channel of the stereo chorus at LFO count `c` (46_effects.md R751, log 17). -/
def chorusSide (s : State) (p : FxParams) (l : Line) (h x : Int) (c : Nat) (m : Scene) : Int × Line × Scene :=
  let swing := scaled 16 (parU p 3) (lfoAt s c (parU p 4))
  let (y, m) := interpolated l (parU p 2 + narrow swing) h (m.noting [swing])
  let sum := x + mulQ 24 y (par p 5)
  (y, pushed l (narrow sum) (m.noting [scaled 24 y (par p 5), sum]))

/-- One frame of the stereo chorus (46_effects.md R751). -/
def chorusStep (s : State) (r : ChorusRec) (xL xR : Int) (m : Scene) : (Int × Int) × ChorusRec × Scene :=
  let cycle := parU r.params 4
  let (wL, xl, m) := chorusSide s r.params r.xl r.hl.toInt xL r.c m
  let (wR, xr, m) := chorusSide s r.params r.xr r.hr.toInt xR ((r.c + parU r.params 6) % cycle) m
  ((wL, wR), { r with
    xl := xl, xr := xr, hl := BitVec.ofInt 32 wL, hr := BitVec.ofInt 32 wR, c := (r.c + 1) % cycle }, m)

/-- What tap `i` of the hexa chorus reads (46_effects.md R755, R756, log 17). -/
def hexaTap (s : State) (r : HexaRec) (i : Nat) (m : Scene) : Int × Scene :=
  let p := par r.params
  let cycle := parU r.params 4
  let k : Int := 2 * i - 5
  let swing := scaled 16 (p 3 + k * p 7) (lfoAt s ((r.c + i * cycle / 6) % cycle) cycle)
  interpolated r.x (p 2 + k * p 6 + narrow swing) ((r.h[i]?).getD 0).toInt (m.noting [swing])

/-- A running sum narrowed at each step. -/
def runningSum (parts : List Int) (m : Scene) : Int × Scene :=
  parts.foldl (fun r x => (narrow (r.1 + x), r.2.noting [r.1 + x])) (0, m)

/-- One frame of the hexa chorus: six taps, all read before the write (46_effects.md R756). -/
def hexaStep (s : State) (r : HexaRec) (xL xR : Int) (m : Scene) : (Int × Int) × HexaRec × Scene :=
  let p := par r.params
  let pan := fun i : Nat => clamp 0 65536 (32768 + (2 * (i : Int) - 5) * p 8)
  let taps := [0, 1, 2, 3, 4, 5]
  let y := fun i => (hexaTap s r i m).1
  let m := taps.foldl (fun m i => (hexaTap s r i m).2) (m.noting [xL + xR])
  let gains := fun gain : Nat → Int => taps.map fun i => scaled 16 (y i) (gain i)
  let left := gains fun i => 65536 - pan i
  let right := gains pan
  let (acc, m) := runningSum (taps.map y) m
  let (wL, m) := runningSum (left.map narrow) m
  let (wR, m) := runningSum (right.map narrow) m
  let sum := narrow (xL + xR) + mulQ 24 acc (p 5)
  let (x, m) := pushed r.x (narrow sum) (m.noting (left ++ right ++ [scaled 24 acc (p 5), sum]))
  ((wL, wR), { r with
    x := x, h := Vector.ofFn fun i => BitVec.ofInt 32 (y i.val), c := (r.c + 1) % parU r.params 4 }, m)

/-! ### Frames (46_effects.md R702, R703, R771) -/

/-- A word of a buffer accessed lies outside sample RAM: the command has stopped (20_memory.md R152). -/
def Scene.halted (m : Scene) : Bool := m.words.any fun a => decide (m.size ≤ a)

/-- A word of a buffer accessed, and what follows if it lies in sample RAM; nothing once the command has stopped
(20_memory.md R152; 60_exceptions.md R806). -/
def Scene.access (m : Scene) (a : Nat) (use : Scene → Scene) : Scene :=
  if m.halted then m
  else
    let m' := { m with words := m.words ++ [a] }
    if m'.halted then m' else use m'

/-- A frame's input pair read (46_effects.md R703). -/
def Scene.reading (m : Scene) (base : Word) (f : Nat) : Scene :=
  m.access (frameAddr base f 0) fun m => m.access (frameAddr base f 1) id

/-- A word of a buffer stored. -/
def Scene.storing (m : Scene) (a : Nat) (v : Int) : Scene := m.access a fun m => m.put a v

/-- A word of a buffer added to (45_mixer.md R602). -/
def Scene.adding (m : Scene) (a : Nat) (v : Int) : Scene :=
  m.access a fun m => (m.noting [m.ram a + v]).put a (narrow (m.ram a + v))

/-- An output pair delivered to frame `f` (46_effects.md R703, log 26). -/
def deliveredPair (s : State) (bus : FxBus) (f : Nat) (y : Int × Int) (m : Scene) : Scene :=
  let out := frameAddr s.outBase f
  let src := frameAddr (inputBase s bus) f
  if bus = .insert then (m.storing (out 0) y.1).storing (out 1) y.2
  else (((m.adding (out 0) y.1).adding (out 1) y.2).storing (src 0) 0).storing (src 1) 0

/-- `cnt` frames of a pass-through slot from frame `f`: each input pair delivered (46_effects.md R709, R771). -/
def passedSteps (s : State) (bus : FxBus) : Nat → Nat → Scene → Scene
  | 0, _, m => m
  | cnt + 1, f, m =>
    let src := frameAddr (inputBase s bus) f
    let x := (m.ram (src 0), m.ram (src 1))
    passedSteps s bus cnt (f + 1) (deliveredPair s bus f x (m.reading (inputBase s bus) f))

/-- One frame of a slot: the engine on the input pair, dry and wet mixed, the pair delivered (46_effects.md R702,
R703, R771). -/
def slotStep {R : Type} (engine : R → Int → Int → Scene → (Int × Int) × R × Scene) (p : FxParams) (s : State)
    (bus : FxBus) (f : Nat) (r : R) (m : Scene) : R × Scene :=
  let src := frameAddr (inputBase s bus) f
  let (xL, xR) := (m.ram (src 0), m.ram (src 1))
  let m := m.reading (inputBase s bus) f
  if m.halted then (r, m)
  else
    let (w, r', m) := engine r xL xR m
    let (yL, m) := blended xL (par p 0) w.1 (par p 1) m
    let (yR, m) := blended xR (par p 0) w.2 (par p 1) m
    (r', deliveredPair s bus f (yL, yR) m)

/-- `cnt` frames of a slot from frame `f` (46_effects.md R771). -/
def slotSteps {R : Type} (engine : R → Int → Int → Scene → (Int × Int) × R × Scene) (p : FxParams) (s : State)
    (bus : FxBus) : Nat → Nat → R → Scene → R × Scene
  | 0, _, r, m => (r, m)
  | cnt + 1, f, r, m =>
    let (r', m') := slotStep engine p s bus f r m
    slotSteps engine p s bus cnt (f + 1) r' m'

/-- The beginning of an FXPROC. -/
def sceneOf (s : State) : Scene :=
  { ram := ramOf s, checks := [], outside := false, words := [], size := s.sramWords }

/-- A command leaves this: `t` with sample RAM as the scene has it, SAT for the numbers narrowed and RANGE for the
operands outside their range, and nothing else changed but CMD_SEQ, one further, or, where a word accessed lies
outside sample RAM, what the halt records (60_exceptions.md R801, R802, R804, R806). -/
def SceneDone (t : State) (m : Scene) (o : Host.Outcome State Fault Refusal) : Prop :=
  let flags := rangeIf m.outside (satIf m.checks t.status)
  ∃ u, o = .next u ∧ (∀ a, ramOf u a = m.ram a) ∧
    match m.words.find? fun a => t.sramWords ≤ a with
    | some a =>
      u = { t with
        status := flags ||| 16, sram := u.sram, fatalCause := .badAddr, fatalInfo := t.cmd,
        fatalAddr := BitVec.ofNat 32 a }
    | none => u = { t with status := flags, sram := u.sram, cmdSeq := t.cmdSeq + 1 }

/-- FXPROC of `cnt` frames from frame `off` on slot `i` leaves the slot's record, sample RAM and the flags as an engine
makes them, up to the access that halts it if one does. -/
def FramesDone {R : Type} (engine : R → Int → Int → Scene → (Int × Int) × R × Scene) (p : FxParams)
    (mk : R → FxRecord) (s : State) (x : Slot) (i off cnt : Nat) (r : R) (o : Host.Outcome State Fault Refusal) : Prop :=
  let after := slotSteps engine p s x.bus cnt off r (sceneOf s)
  SceneDone { s with slots := s.slots.set i { x with record := mk after.1 } } after.2 o

end Sys2Proof.Claims
end

