-- ==== Sys2Proof/VoiceClaims.lean ====
section
/-! DEFINITION. What the envelope commands and the mixer make of a voice, of sample RAM as numbers by word address
and of the numbers they narrow, written again from 44_envelope.md and 45_mixer.md in the order of the rules. -/

namespace Sys2Proof.Claims

open Sys2Proof.Machine

/-! ### Turns of an envelope command: the voice after it and the numbers narrowed -/

/-- A further turn. -/
def andThen (r : Voice × List Int) (turn : Voice → Voice × List Int) : Voice × List Int :=
  ((turn r.1).1, r.2 ++ (turn r.1).2)

/-- A further turn, unless the voice is freed (44_envelope.md R505). -/
def unlessFreed (r : Voice × List Int) (turn : Voice → Voice × List Int) : Voice × List Int :=
  if r.1.status = .free then r else andThen r turn

/-- A voice freed by the block (10_state.md R84). -/
def reclaimed (v : Voice) : Voice := { v with status := .free, ctrl := v.ctrl ||| 0x200 }

/-- `env_update`: stopped, moving, or at the target snapped and recomputed (44_envelope.md R502, R510, log 22). -/
def enveloped (s : State) (v : Voice) : Voice × List Int :=
  let inc := v.env.inc.toInt
  let target := v.env.target.toInt
  let moved := clamp 0 0x3FFFFFFF (v.env.value.toInt + inc)
  let snapped := clamp 0 0x3FFFFFFF target
  let valued := fun x : Int => { v with env := { v.env with value := BitVec.ofInt 32 x } }
  if inc = 0 then (v, [])
  else if (0 < inc ∧ target ≤ moved) ∨ (inc < 0 ∧ moved ≤ target) then
    (stageReached s (valued snapped) snapped v.env.stage.toNat,
      stageChecks s (valued snapped) snapped v.env.stage.toNat)
  else (valued moved, [])

/-- `trem_update`; in ENVUPD, `quiet`, only the products set SAT (44_envelope.md R530, R560, logs 11 and 27). -/
def shaken (quiet : Bool) (s : State) (v : Voice) : Voice × List Int :=
  let swept := v.trem.sweepPos.toInt + (if v.trem.sweepInc = 0 then 0 else (v.trem.sweepInc.toNat : Int))
  let full := decide (v.trem.sweepInc ≠ 0 ∧ 65536 ≤ swept)
  let pos : Word := if full then 65536 else BitVec.ofInt 32 (narrow swept)
  let phase := v.trem.phase + v.trem.inc
  let depth := scaled 16 v.trem.depth.toInt pos.toInt
  let dip := scaled 16 (narrow depth) (s.tramWord (2048 + phase.toNat / 2 ^ 23)).toInt
  let mul := 65536 - narrow dip
  ({ v with trem := { v.trem with
      phase := phase, sweepPos := pos, sweepInc := if full then 0 else v.trem.sweepInc,
      mul := BitVec.ofInt 32 (narrow mul) } },
    if quiet then [depth, dip] else [swept, depth, dip, mul])

/-- `menv_apply` (44_envelope.md R542). -/
def exposed (v : Voice) : Voice :=
  let out := BitVec.ofInt 32 (v.menv.value.toInt / 2 ^ 14)
  if out = v.menvOut then v else { v with menvOut := out, ctrl := v.ctrl ||| 0x100 }

/-- `menv_update` and `menv_apply`, while CTRL.MODENV_EN is 1 (44_envelope.md R540 to R542, log 22). -/
def modulationTurn (s : State) (v : Voice) : Voice × List Int :=
  let inc := v.menv.inc.toInt
  let target := v.menv.target.toInt
  let moved := clamp 0 0x3FFFFFFF (v.menv.value.toInt + inc)
  let snapped := clamp 0 0x3FFFFFFF target
  if s.ctrl.getLsbD 0 = false then (v, [])
  else if inc = 0 then (exposed v, [])
  else if (0 < inc ∧ target ≤ moved) ∨ (inc < 0 ∧ moved ≤ target) then
    (exposed { v with menv := modulationReached v snapped v.menv.stage.toNat },
      modulationChecks v snapped v.menv.stage.toNat)
  else (exposed { v with menv := { v.menv with value := BitVec.ofInt 32 moved } }, [])

/-- The modulation envelope started at stage `k`, `menv_recompute` and `menv_apply`, while CTRL.MODENV_EN is 1
(44_envelope.md R540 to R542, R564, R565). -/
def modulationStart (s : State) (k : Nat) (v : Voice) : Voice × List Int :=
  if s.ctrl.getLsbD 0 = false then (v, [])
  else (exposed { v with menv := modulationReached v v.menv.value.toInt k }, modulationChecks v v.menv.value.toInt k)

/-- `env_amp`: the level by table, times tremolo, panned; a silent OFF or SUSTAINED voice is freed
(44_envelope.md R550, R551). -/
def levelled (s : State) (v : Voice) : Voice × List Int :=
  let e := v.env.value.toInt
  let table := fun (base : Nat) (x : Int) => (s.tramWord (base + (x / 2 ^ 20).toNat)).toInt
  let stretched := scaled 16 e v.lsr.toInt
  let back := scaled 16 (table 1024 (clamp 0 0x3FFFFFFF (narrow stretched))) v.lss.toInt
  let early := decide (v.env.stage.toNat ≤ 1)
  let releasing := decide ((if v.ctrl.getLsbD 0 then 4 else 3) < v.env.stage.toNat)
  let level := if early then table 0 e else if releasing then narrow back else table 1024 e
  let dipped := scaled 16 level v.trem.mul.toInt
  let amp := if v.ctrl.getLsbD 7 then narrow dipped else level
  let left := scaled 16 amp v.mix.panL.toInt
  let right := scaled 16 amp v.mix.panR.toInt
  let w := { v with mix := { v.mix with
    amp := BitVec.ofInt 32 amp, leftMix := BitVec.ofInt 32 (narrow left), rightMix := BitVec.ofInt 32 (narrow right) } }
  (if (v.status = .off ∨ v.status = .sustained) ∧ amp ≤ 0 then reclaimed w else w,
    (if early then [] else if releasing then [stretched, back] else []) ++
      (if v.ctrl.getLsbD 7 then [dipped] else []) ++ [left, right])

/-- `update_signal`: the amplitude envelope, then tremolo where it runs, the modulation envelope and the level
(44_envelope.md R555). -/
def updated (quiet : Bool) (s : State) (v : Voice) : Voice × List Int :=
  unlessFreed (enveloped s v) fun u =>
    let r := if u.ctrl.getLsbD 7 = true ∧ u.trem.inc ≠ 0 then shaken quiet s u else (u, [])
    andThen (andThen r (modulationTurn s)) (levelled s)

/-- What ENVSTART and ENVREL do after `env_recompute`: the modulation envelope from stage `k`, and the level
(44_envelope.md R564, R565). -/
def restarted (s : State) (k : Nat) (r : Voice × List Int) : Voice × List Int :=
  unlessFreed r fun u => andThen (modulationStart s k u) (levelled s)

/-- `mix_smooth` (45_mixer.md R615, log 11). -/
def smoothedMix (s : State) (v : Voice) : Voice × List Int :=
  let w : Int := s.mixWindow.toNat
  let ramp := fun d : Int =>
    if w < d.natAbs then (Int.tdiv d w, Int.tdiv d w * (1 - w))
    else if d ≠ 0 then (Int.sign d, Int.sign d - d) else (0, 0)
  let left := ramp (v.mix.leftMix.toInt - v.mix.oldLeft.toInt)
  let right := ramp (v.mix.rightMix.toInt - v.mix.oldRight.toInt)
  ({ v with mix := { v.mix with
      leftInc := BitVec.ofInt 32 (narrow left.1), leftOfs := BitVec.ofInt 32 (narrow left.2),
      rightInc := BitVec.ofInt 32 (narrow right.1), rightOfs := BitVec.ofInt 32 (narrow right.2) } },
    [left.1, left.2, right.1, right.2])

/-! ### Mixing -/

/-- The voice and sample RAM in the middle of MIXV, with the numbers narrowed and the words accessed so far, these in
order, and the size of sample RAM. -/
structure Mixing where
  voice : Voice
  ram : Ram
  checks : List Int
  words : List Nat
  size : Nat

/-- What comes next, unless a word accessed lies outside sample RAM: MIXV stops there and all it did before stays
(20_memory.md R152; 60_exceptions.md R806). -/
def Mixing.next (x y : Mixing) : Mixing := if x.words.any fun a => decide (x.size ≤ a) then x else y

/-- More numbers narrowed. -/
def Mixing.noting (x : Mixing) (vs : List Int) : Mixing := x.next { x with checks := x.checks ++ vs }

/-- One more word accessed. -/
def Mixing.accessing (x : Mixing) (a : Nat) : Mixing := x.next { x with words := x.words ++ [a] }

/-- A word accessed and stored. -/
def Mixing.storing (x : Mixing) (a : Nat) (v : Int) : Mixing :=
  let y := x.accessing a
  y.next { y with ram := y.ram.put a v }

/-- A turn of the voice. -/
def Mixing.turn (x : Mixing) (f : Voice → Voice × List Int) : Mixing :=
  x.next { x with voice := (f x.voice).1, checks := x.checks ++ (f x.voice).2 }

/-- A word added to (45_mixer.md R602). -/
def Mixing.add (x : Mixing) (a : Nat) (c : Int) : Mixing :=
  ((x.accessing a).noting [x.ram a + c]).storing a (narrow (x.ram a + c))

/-- A contribution's share added to a send bus, unless the send level is 0 (45_mixer.md R603). -/
def Mixing.send (x : Mixing) (base level : Word) (f side : Nat) (c : Int) : Mixing :=
  if level = 0 then x
  else (x.noting [scaled 16 c level.toInt]).add (frameAddr base f side) (mulQ 16 c level.toInt)

/-- A contribution added to one slot of the output frame and of each bus (45_mixer.md R602, R603, logs 12 and 29). -/
def contributed (s : State) (f side : Nat) (c : Int) (x : Mixing) : Mixing :=
  let v := x.voice
  (((x.add (frameAddr s.outBase f side) c).send s.busRevBase v.sendRev f side c).send
    s.busChoBase v.sendCho f side c).send s.busDlyBase v.sendDly f side c

/-- One side of a frame; with pan delay the stored, earlier contribution goes out and the new one is stored, and
both cursors advance (45_mixer.md R602, R620, logs 12 and 29). -/
def sided (s : State) (f side : Nat) (sample level : Int) (x : Mixing) : Mixing :=
  let c := sample * level
  let p := x.voice.pdly
  let next := fun w : Word => BitVec.ofNat 32 ((w.toNat + 1) % p.len.toNat)
  let oldest := (p.base + p.rpt).toNat
  let newest := (p.base + p.wpt).toNat
  if panDelayed s x.voice ∧ x.voice.ctrl.getLsbD 3 = decide (side = 1) then
    ((contributed s f side (x.ram oldest) ((x.noting [c]).accessing oldest)).storing newest (narrow c)).turn fun v =>
      ({ v with pdly := { p with wpt := next p.wpt, rpt := next p.rpt } }, [])
  else contributed s f side (narrow c) (x.noting [c])

/-- The slots of a frame by the pan law (45_mixer.md R601, R604). -/
def panned (s : State) (f : Nat) (sample lL lR : Int) (x : Mixing) : Mixing :=
  let law := panLaw x.voice
  let y := if law = 3 then x else sided s f 0 sample lL x
  if law = 2 then y else sided s f 1 sample (if law = 1 then lL else lR) y

/-- A Chamberlin step: output, history, numbers narrowed (43_filters.md R450). -/
def chamberlin (f q : Int) (h : Hist) (x : Int) : Int × Hist × List Int :=
  let band := h.h1.toInt
  let low := h.h0.toInt + mulQ 24 f band
  let d := x - narrow low
  let high := narrow d - mulQ 24 q band
  let band' := band + mulQ 24 f (narrow high)
  (narrow low, { h with h0 := BitVec.ofInt 32 (narrow low), h1 := BitVec.ofInt 32 (narrow band') },
    [scaled 24 f band, low, d, scaled 24 q band, high, scaled 24 f (narrow high), band'])

/-- One pole of the Moog ladder: its number before narrowing, and those narrowed (43_filters.md R455). -/
def pole (f p a old prev : Int) : Int × List Int :=
  let y := mulQ 24 (narrow (a + prev)) p - mulQ 24 old f
  (y, [a + prev, scaled 24 (narrow (a + prev)) p, scaled 24 old f, y])

/-- A Moog step: output, history, numbers narrowed (43_filters.md R455). -/
def moogLadder (f p q : Int) (h : Hist) (x : Int) : Int × Hist × List Int :=
  let xx := x - mulQ 24 q h.h4.toInt
  let r1 := pole f p (narrow xx) h.h1.toInt h.h0.toInt
  let r2 := pole f p (narrow r1.1) h.h2.toInt h.h1.toInt
  let r3 := pole f p (narrow r2.1) h.h3.toInt h.h2.toInt
  let r4 := pole f p (narrow r3.1) h.h4.toInt h.h3.toInt
  let w := fun v : Int => BitVec.ofInt 32 (narrow v)
  (narrow r4.1, { h0 := w xx, h1 := w r1.1, h2 := w r2.1, h3 := w r3.1, h4 := w r4.1 },
    [scaled 24 q h.h4.toInt, xx] ++ r1.2 ++ r2.2 ++ r3.2 ++ r4.2)

/-- The voice filter that V_CTRL bits 5:4 select (10_state.md R82, 45_mixer.md R607). -/
def voiceFiltered (v : Voice) (x : Int) : Int × Hist × List Int :=
  if v.ctrl.toNat / 2 ^ 4 % 4 = 1 then chamberlin v.filtF.toInt v.filtQ.toInt v.filtHist x
  else if v.ctrl.toNat / 2 ^ 4 % 4 = 2 then moogLadder v.filtF.toInt v.filtP.toInt v.filtQ.toInt v.filtHist x
  else (x, v.filtHist, [])

/-- The next sample of the source, through the voice filter (45_mixer.md R606, R607). -/
def sampled (x : Mixing) : Int × Mixing :=
  let a := x.voice.srcBase.toNat
  let r := voiceFiltered x.voice (x.ram a)
  (r.1, (x.accessing a).turn fun v => ({ v with srcBase := v.srcBase + 1, filtHist := r.2.1 }, r.2.2))

/-- `mix_frame` (45_mixer.md R617, log 11). -/
def framed (s : State) (f : Nat) (x : Mixing) : Mixing :=
  let (sample, y) := sampled x
  let m := y.voice.mix
  let lL := m.leftMix.toInt + m.leftOfs.toInt
  let lR := m.rightMix.toInt + m.rightOfs.toInt
  let ramp := fun ofs inc : Word => if ofs = 0 then 0 else ofs.toInt + inc.toInt
  let nextL := ramp m.leftOfs m.leftInc
  let nextR := ramp m.rightOfs m.rightInc
  let w := fun v : Int => BitVec.ofInt 32 (narrow v)
  panned s f sample (narrow lL) (narrow lR) (y.turn fun v =>
    ({ v with mix := { m with leftOfs := w nextL, rightOfs := w nextR, oldLeft := w lL, oldRight := w lR } },
      [lL, lR, nextL, nextR]))

/-- The static routine: `cnt` frames from frame `f` (45_mixer.md R612). -/
def staticFrames (s : State) : Nat → Nat → Mixing → Mixing
  | 0, _, x => x
  | cnt + 1, f, x => staticFrames s cnt (f + 1) (framed s f x)

/-- A control update: the signal updated and, if the voice lives, the mix smoothed (45_mixer.md R611). -/
def controlled (s : State) (x : Mixing) : Mixing :=
  x.turn fun v => unlessFreed (updated false s { v with cc := s.controlRatio }) (smoothedMix s)

/-- The signal routine: `cnt` frames from frame `f`, `k` frames after V_CC was last written. Where those are all the
frames V_CC counts the next control update comes, which may free the voice; at the end V_CC drops by them
(45_mixer.md R611). -/
def signalFrames (s : State) : Nat → Nat → Nat → Mixing → Mixing
  | 0, _, k, x => x.turn fun v => ({ v with cc := v.cc - BitVec.ofNat 32 k }, [])
  | cnt + 1, f, k, x =>
    if x.voice.cc.toNat ≠ k then signalFrames s cnt (f + 1) (k + 1) (framed s f x)
    else if (controlled s x).voice.status = .free then controlled s x
    else signalFrames s cnt (f + 1) 1 (framed s f (controlled s x))

/-- The frames of the die ramp from levels `lL`, `lR`: in full stereo held at 0, else stopped below it
(45_mixer.md R630, log 11). -/
def dyingFrames (s : State) (iL iR : Int) : Nat → Nat → Int → Int → Mixing → Mixing
  | 0, _, _, _, x => x
  | cnt + 1, f, lL, lR, x =>
    let law := panLaw x.voice
    let y := x.noting [lL - iL, lR - iR]
    let held := fun l : Int => if law = 0 then max (narrow l) 0 else narrow l
    if (if law = 3 then held (lR - iR) else held (lL - iL)) < 0 then y
    else
      let (sample, z) := sampled y
      dyingFrames s iL iR cnt (f + 1) (held (lL - iL)) (held (lR - iR))
        (panned s f sample (held (lL - iL)) (held (lR - iR)) z)

/-- The die ramp over at most MAX_DIE_TIME frames, after which the voice is free (45_mixer.md R630). -/
def died (s : State) (cnt f : Nat) (x : Mixing) : Mixing :=
  let m := x.voice.mix
  let n := min cnt s.maxDieTime.toNat
  let lL := m.leftMix.toInt + m.leftOfs.toInt
  let lR := m.rightMix.toInt + m.rightOfs.toInt
  let step := fun l : Int => max 1 (Int.tdiv (narrow l) n)
  (dyingFrames s (step lL) (step lR) n f (narrow lL) (narrow lR) (x.noting [lL, lR])).turn fun v => (reclaimed v, [])

/-- The beginning of a MIXV on a voice. -/
def mixingOf (s : State) (v : Voice) : Mixing :=
  { voice := v, ram := ramOf s, checks := [], words := [], size := s.sramWords }

/-- MIXV into `rd` on voice `n` leaves this: the voice and all of sample RAM as mixed and SAT for the numbers
narrowed, and nothing else changed but what a completed command writes, 1 in `rd` if the voice was freed and else 0,
or, where a word accessed lies outside sample RAM, what the halt records (45_mixer.md R641; 60_exceptions.md R804,
R806). -/
def MixDone (s : State) (rd n : Nat) (x : Mixing) (o : Host.Outcome State Fault Refusal) : Prop :=
  ∃ t, o = .next t ∧ (∀ a, ramOf t a = x.ram a) ∧
    match x.words.find? fun a => s.sramWords ≤ a with
    | some a =>
      t = { s with
        status := satIf x.checks s.status ||| 16, sram := t.sram, voices := s.voices.set n x.voice,
        fatalCause := .badAddr, fatalInfo := s.cmd, fatalAddr := BitVec.ofNat 32 a }
    | none =>
      t = { s with
        regs := s.regs.setIfInBounds rd (if x.voice.status = .free then 1 else 0), status := satIf x.checks s.status,
        sram := t.sram, voices := s.voices.set n x.voice, cmdSeq := s.cmdSeq + 1 }

/-- MIXV into `rd` on voice `n`, which accesses these words in this order, completes, or halts with cause BAD_ADDR at
the first of them outside sample RAM; no byte changes but in the words before it (20_memory.md R152; 45_mixer.md R641;
60_exceptions.md R806). -/
def MixHalts (s : State) (rd n : Nat) (words : List Nat) (o : Host.Outcome State Fault Refusal) : Prop :=
  ∃ t w, o = .next t ∧
    (∀ b, b / 4 ∉ words.takeWhile (fun a => a < s.sramWords) → t.sramByte b = s.sramByte b) ∧
    match words.find? fun a => s.sramWords ≤ a with
    | some a =>
      t = { s with
        status := t.status, sram := t.sram, voices := s.voices.set n w, fatalCause := .badAddr,
        fatalInfo := s.cmd, fatalAddr := BitVec.ofNat 32 a } ∧
      (t.status = s.status ||| 16 ∨ t.status = s.status ||| 17)
    | none =>
      t = { s with
        regs := s.regs.setIfInBounds rd (if w.status = .free then 1 else 0), status := t.status, sram := t.sram,
        voices := s.voices.set n w, cmdSeq := s.cmdSeq + 1 } ∧
      (t.status = s.status ∨ t.status = s.status ||| 1)

end Sys2Proof.Claims
end

