-- ==== Sys2Proof/Certificates/Slice0/Obligations.lean ====
section
/-! DEFINITION. The statements about the machine. Each docstring names the rules a statement formalises. -/

open Sys2Proof Sys2Proof.Machine Sys2Proof.Claims

/-! ## Encoding -/

/-- Decoding the word of a well-formed command gives the command back, for every command and every operand value
(30_encoding.md R200 to R211). -/
def Obligations.DecodeOfEncode : Prop :=
  ∀ i : Instr, i.wf = true → decode (encode i) = .ok i

/-- A word that decodes is the word of a well-formed command, but for the bits the command's row does not use, and
those bits are ignored: any value of them decodes to the same command (30_encoding.md R201 to R203, R206, R210). -/
def Obligations.EncodeOfDecode : Prop :=
  (∀ (w : Word) (i : Instr), decode w = .ok i → i.wf = true ∧ encode i = w &&& usedBits i) ∧
  ∀ (w w' : Word) (i : Instr), decode w = .ok i → w' &&& usedBits i = w &&& usedBits i → decode w' = .ok i

/-- A few words written out from the formats decode to the commands they stand for (30_encoding.md R201, R202, R210;
95_test_vectors.md). A sanity statement. -/
def Obligations.SampleWordsDecode : Prop :=
  decode 0x00000000 = .ok .nop ∧ decode 0x04400040 = .ok (.lui 1 0x40) ∧ decode 0x0CC48000 = .ok (.adds 3 1 2) ∧
    decode 0xB4C48000 = .ok (.mixv 3 1 2 0) ∧ decode 0xCC04C008 = .ok (.busclr 1 3 8)

/-! ## Steps, halts and the whole machine -/

/-- A step runs the decoded command: when the host's oldest access writes the command port, the block is not halted
and the word decodes, the step is the command's meaning with the access consumed and the word recorded (20_memory.md
R160, R161). Rests on the model's choice of log 2. -/
def Obligations.StepRunsDecodedCommand : Prop :=
  ∀ (s : State) (w : Word) (rest : List HostAccess) (i : Instr),
    s.port = .write .word commandPortAddress w :: rest → s.fatal = false → decode w = .ok i →
      step s = exec i { s with port := rest, cmd := w }

/-- The unassigned opcodes: exactly those of the list stand for no command, and a word with one sets ILL, changes
nothing else and completes (30_encoding.md R210, R220). Rests on the model's choices of logs 2 and 24. -/
def Obligations.UnassignedOpcodeCompletes : Prop :=
  (∀ w : Word, unassignedOpcode (fieldOp w) = false → ∃ i, decode w = .ok i) ∧
  ∀ (s : State) (w : Word) (rest : List HostAccess),
    s.port = .write .word commandPortAddress w :: rest → s.fatal = false → unassignedOpcode (fieldOp w) = true →
      step s = .next { s with
        port := rest, cmd := w, status := s.status ||| 8, cmdSeq := s.cmdSeq + 1 }

/-- The Fatal halt: a halted block discards command words, and every access but a host write of 1 to RESET leaves it
halted with the same record (20_memory.md R161; 60_exceptions.md R806; 70_reset_and_hazards.md R900). Rests on the
model's choices of logs 1 and 2. -/
def Obligations.HaltEndsOnlyByReset : Prop :=
  ∀ s : State, s.fatal = true →
    (∀ w rest, s.port = .write .word commandPortAddress w :: rest → step s = .next { s with port := rest }) ∧
    (∀ a rest, s.port = a :: rest → a ≠ .write .word 0x24 1 →
      ∃ t, step s = .next t ∧ t.fatal = true ∧ t.fatalCause = s.fatalCause ∧ t.fatalInfo = s.fatalInfo ∧
        t.fatalAddr = s.fatalAddr ∧ t.cmdSeq = s.cmdSeq ∧ t.regs = s.regs)

/-- A command that raises the Fatal halt is a fault of the run, with the recorded cause and address, and every other
step of a machine that is not halted is not: the reading of the halt by 60_exceptions.md R809 agrees with the halted
state that the step answers. The two forms of one outcome are the model's choice, log 1. -/
def Obligations.HaltIsAFault : Prop :=
  ∀ s t : State, s.fatal = false → step s = .next t →
    (t.fatal = false → Safety.verdict s = .next t) ∧
    (t.fatal = true → Safety.verdict s =
      .fault (if t.fatalCause = .badAddr then .badAddr t.fatalAddr else .alloc t.fatalAddr))

/-- A host write of 1 to RESET puts every register at its reset value, empties every slot, ends a halt, and keeps
sample RAM, table RAM and the build (70_reset_and_hazards.md R900). That the recorded command word, the host's data
and freeCount are kept is the model's choice, log 5. Rests on the model's choices of logs 2, 4 and 5. -/
def Obligations.ResetWriteResets : Prop :=
  ∀ (s : State) (rest : List HostAccess), s.port = .write .word 0x24 1 :: rest →
    ∃ t, step s = .next t ∧ t.fatal = false ∧
      t = { State.resetWith s.params with
        sram := s.sram, tram := s.tram, cmd := s.cmd, port := rest, hostData := s.hostData,
        freeCount := s.freeCount }

/-- Every host access but a write of the command port: what a word read returns from control registers, table RAM,
sample RAM, the command port (a free value) and elsewhere (0), what a word write does there, that a narrow or
misaligned access is not performed, and that a word lies in both RAMs low byte first; with none pending the step
keeps the state (20_memory.md R160, R162, R163). Rests on the model's choices of logs 2, 6, 7 and 8. -/
def Obligations.HostAccessResults : Prop :=
  (∀ (s : State) (k j : Nat), j < 4 →
    s.sramByte (4 * k + j) = (s.sramWord k).extractLsb' (8 * j) 8 ∧
    s.tramByte (4 * k + j) = (s.tramWord k).extractLsb' (8 * j) 8) ∧
  (∀ s : State, s.port = [] → step s = .next s) ∧
  (∀ (s : State) (w : Width) (a v : Word) (rest : List HostAccess), (w ≠ .word ∨ a.toNat % 4 ≠ 0) →
    (s.port = .read w a :: rest → step s = .next { s with port := rest, hostData := 0 }) ∧
    (s.port = .write w a v :: rest → step s = .next { s with port := rest })) ∧
  (∀ (s : State) (a : Word) (rest : List HostAccess), s.port = .read .word a :: rest → a.toNat % 4 = 0 →
    let after := fun v : Word => step s = .next { s with port := rest, hostData := v }
    let n := a.toNat
    if n < 0x40000 then after (readControl s (n / 4))
    else if n = 0x40000 then
      step s = .next { s with
        port := rest, hostData := Config.commandPortRead s.freeCount, freeCount := s.freeCount + 1 }
    else if 0x100000 ≤ n ∧ n < 0x100000 + 4 * 2560 then after (s.tramWord ((n - 0x100000) / 4))
    else if 0x1000000 ≤ n ∧ n < 0x1000000 + 4 * s.sramWords then after (s.sramWord ((n - 0x1000000) / 4))
    else after 0) ∧
  ∀ (s : State) (a v : Word) (rest : List HostAccess), s.port = .write .word a v :: rest → a.toNat % 4 = 0 →
    let n := a.toNat
    if n < 0x40000 then step s = .next (writeControl (n / 4) v { s with port := rest })
    else if n = 0x40000 then True
    else if 0x100000 ≤ n ∧ n < 0x100000 + 4 * 2560 then
      ∃ t, step s = .next t ∧ t = { s with port := rest, tram := t.tram } ∧
        t.tramWord ((n - 0x100000) / 4) = v ∧
        ∀ b, b + 0x100000 < n ∨ n + 4 ≤ b + 0x100000 → t.tramByte b = s.tramByte b
    else if 0x1000000 ≤ n ∧ n < 0x1000000 + 4 * s.sramWords then
      ∃ t, step s = .next t ∧ t = { s with port := rest, sram := t.sram } ∧
        t.sramWord ((n - 0x1000000) / 4) = v ∧
        ∀ b, b + 0x1000000 < n ∨ n + 4 ≤ b + 0x1000000 → t.sramByte b = s.sramByte b
    else step s = .next { s with port := rest }

/-- Every command but WRREG that completes advances CMD_SEQ by one, and one that raises Fatal leaves it and records
its own word (10_state.md R52; 60_exceptions.md R806). WRREG is left to GlobalRegisterWrites: it may write RESET.
Rests on the model's choice of log 1. -/
def Obligations.CommandsAreCounted : Prop :=
  ∀ (i : Instr) (s t : State), s.fatal = false → controlWrite s i = none → exec i s = .next t →
    (t.fatal = false → t.cmdSeq = s.cmdSeq + 1) ∧
    (t.fatal = true → t.cmdSeq = s.cmdSeq ∧ t.fatalInfo = s.cmd ∧ t.fatalCause ≠ .none)

/-- Flags are sticky: no command but a WRREG clears a flag (60_exceptions.md R803, R804). -/
def Obligations.FlagsAreSticky : Prop :=
  ∀ (i : Instr) (s t : State) (f : Flag), controlWrite s i = none → exec i s = .next t →
    s.flag f = true → t.flag f = true

/-- The frame of every command but WRREG: its destination is the only operand register that may change, and it
leaves CTRL, the rates, windows and times, the buffer bases, the channel states, table RAM, the build and the host's
side as they were (10_state.md R50, R52; 20_memory.md R155). -/
def Obligations.CommandFrame : Prop :=
  ∀ (i : Instr) (s t : State), controlWrite s i = none → exec i s = .next t →
    (∀ r : Nat, destination i ≠ some r → t.reg r = s.reg r) ∧
    t.ctrl = s.ctrl ∧ t.sampleRate = s.sampleRate ∧ t.controlRatio = s.controlRatio ∧
    t.minSustainTime = s.minSustainTime ∧ t.mixWindow = s.mixWindow ∧ t.maxDieTime = s.maxDieTime ∧
    t.outBase = s.outBase ∧ t.busRevBase = s.busRevBase ∧ t.busChoBase = s.busChoBase ∧
    t.busDlyBase = s.busDlyBase ∧ t.chState = s.chState ∧ t.tram = s.tram ∧ t.params = s.params ∧
    t.cmd = s.cmd ∧ t.port = s.port ∧ t.hostData = s.hostData ∧ t.freeCount = s.freeCount

/-- Every step keeps both RAMs in canonical form (log 3). Rests on the model's choice of log 3. -/
def Obligations.StepKeepsMemoryCanonical : Prop :=
  ∀ s t : State, MemoryCanonical s → step s = .next t → MemoryCanonical t

/-- Every step keeps every register legal: reserved bits 0, WARL ranges, envelope values in 0..OFFSET_MAX, MENV_OUT
in 0..65535, pan-delay cursors in 0..255, LFO counts below their cycles; and over a unipolar sine table TREM_MUL and
LFO_OUT stay in 0..65536 (10_state.md R61 to R101; 42_lfo.md R401; 44_envelope.md R502, R531, R542). Rests on the
model's choices of logs 14, 15 and 22. -/
def Obligations.StepKeepsRegistersLegal : Prop :=
  ∀ s t : State, RegistersLegal s → step s = .next t →
    RegistersLegal t ∧ (SineUnipolar s → OutputsUnipolar s → OutputsUnipolar t)

/-- Every step keeps every configured line inside sample RAM with its cursor inside the line, and the LFO count of
every effect below its cycle (41_delayline.md R350, R353; 46_effects.md R705, R706, R716). Rests on the model's
choices of logs 4 and 19. -/
def Obligations.StepKeepsLinesAllocated : Prop :=
  ∀ s t : State, LinesAllocated s → step s = .next t → LinesAllocated t

/-- The machine after reset: the operand registers are 0, the control registers of the list hold their reset values,
the build parameters or 1.0, and every other control register reads 0, so that no voice plays, no unit is configured
and no slot is typed; and it satisfies the three invariants (70_reset_and_hazards.md R900, R901). Rests on the
model's choices of logs 3 and 4. -/
def Obligations.ResetState : Prop :=
  MemoryCanonical State.reset ∧ RegistersLegal State.reset ∧ OutputsUnipolar State.reset ∧
  LinesAllocated State.reset ∧
  (let s := State.reset
   (∀ r, s.reg r = 0) ∧
   readControl s 0x000 = 0x46580007 ∧ readControl s 0x002 = 1 ∧ readControl s 0x003 = 44100 ∧
    readControl s 0x004 = 44 ∧ readControl s 0x006 = 882 ∧ readControl s 0x007 = 20 ∧
    readControl s 0x011 = 0x04081020 ∧ readControl s 0x012 = 0x1008 ∧ readControl s 0x013 = 65536 ∧
    (∀ n off, n < 32 → resetsToOne off = true → readControl s (0x1000 + 128 * n + off) = 0x10000) ∧
    (∀ a, a ∉ [0x000, 0x002, 0x003, 0x004, 0x006, 0x007, 0x011, 0x012, 0x013] →
      ¬(0x1000 ≤ a ∧ a < 0x2000 ∧ resetsToOne (a % 128) = true) → readControl s a = 0))

/-! ## Moves, memory and arithmetic -/

/-- NOP, LUI, ORI and the saturating ADDS and SUBS: their results, the flag, and nothing else changes but CMD_SEQ;
each is every word with its opcode (40_fixedpoint.md R260, R261, R264, R267, R268). -/
def Obligations.MoveAndAddResults : Prop :=
  encodes 0x00 (fun _ => .nop) ∧ encodes 0x01 (fun w => .lui (fieldRd w) (fieldImm22 w)) ∧
  encodes 0x02 (fun w => .ori (fieldRd w) (fieldRs1 w) (fieldImm w)) ∧
  encodes 0x03 (fun w => .adds (fieldRd w) (fieldRs1 w) (fieldRs2 w)) ∧
  encodes 0x04 (fun w => .subs (fieldRd w) (fieldRs1 w) (fieldRs2 w)) ∧
  (∀ (s : State) (rd rs1 imm : Nat),
    exec .nop s = .next { s with cmdSeq := s.cmdSeq + 1 } ∧
    exec (.lui rd imm) s = .next { s with
      regs := s.regs.setIfInBounds rd (BitVec.ofNat 32 imm <<< 10), cmdSeq := s.cmdSeq + 1 } ∧
    exec (.ori rd rs1 imm) s = .next { s with
      regs := s.regs.setIfInBounds rd (s.reg rs1 ||| BitVec.ofNat 32 imm), cmdSeq := s.cmdSeq + 1 }) ∧
  ∀ (s : State) (rd rs1 rs2 : Nat),
    let a := (s.reg rs1).toInt
    let b := (s.reg rs2).toInt
    let after := fun v : Int => ({ s with
      regs := s.regs.setIfInBounds rd (BitVec.ofInt 32 (narrow v)),
      status := satIf [v] s.status, cmdSeq := s.cmdSeq + 1 } : State)
    exec (.adds rd rs1 rs2) s = .next (after (a + b)) ∧ exec (.subs rd rs1 rs2) s = .next (after (a - b))

/-- `fmul_Q` at every scaling: floor of the exact product, saturated, SAT set if that changed it; FMULQ is every
word with its opcode (40_fixedpoint.md R250, R270 to R273). -/
def Obligations.MultiplyResults : Prop :=
  encodes 0x10 (fun w => .fmul8 (fieldRd w) (fieldRs1 w) (fieldRs2 w)) ∧
  encodes 0x11 (fun w => .fmul16 (fieldRd w) (fieldRs1 w) (fieldRs2 w)) ∧
  encodes 0x12 (fun w => .fmul24 (fieldRd w) (fieldRs1 w) (fieldRs2 w)) ∧
  encodes 0x13 (fun w => .fmul28 (fieldRd w) (fieldRs1 w) (fieldRs2 w)) ∧
  ∀ (s : State) (rd rs1 rs2 : Nat),
    let a := (s.reg rs1).toInt
    let b := (s.reg rs2).toInt
    let after := fun q : Nat => ({ s with
      regs := s.regs.setIfInBounds rd (BitVec.ofInt 32 (narrow (scaled q a b))),
      status := satIf [scaled q a b] s.status, cmdSeq := s.cmdSeq + 1 } : State)
    exec (.fmul8 rd rs1 rs2) s = .next (after 8) ∧ exec (.fmul16 rd rs1 rs2) s = .next (after 16) ∧
      exec (.fmul24 rd rs1 rs2) s = .next (after 24) ∧ exec (.fmul28 rd rs1 rs2) s = .next (after 28)

/-- `fdiv_Q` at every scaling: the quotient rounded toward zero and saturated, or the fixed result of a division by
zero with DZ and without SAT; FDIVQ is every word with its opcode (40_fixedpoint.md R253, R258, R280 to R283). -/
def Obligations.DivideResults : Prop :=
  encodes 0x14 (fun w => .fdiv8 (fieldRd w) (fieldRs1 w) (fieldRs2 w)) ∧
  encodes 0x15 (fun w => .fdiv16 (fieldRd w) (fieldRs1 w) (fieldRs2 w)) ∧
  encodes 0x16 (fun w => .fdiv24 (fieldRd w) (fieldRs1 w) (fieldRs2 w)) ∧
  encodes 0x17 (fun w => .fdiv28 (fieldRd w) (fieldRs1 w) (fieldRs2 w)) ∧
  ∀ (s : State) (rd rs1 rs2 : Nat),
    let a := (s.reg rs1).toInt
    let b := (s.reg rs2).toInt
    let quotient := fun q : Nat => Int.tdiv (a * 2 ^ q) b
    let byZero : Int := if a > 0 then 2147483647 else if a < 0 then -2147483648 else 0
    let after := fun q : Nat => ({ s with
      regs := s.regs.setIfInBounds rd (BitVec.ofInt 32 (if b = 0 then byZero else narrow (quotient q))),
      status := if b = 0 then s.status ||| 2 else satIf [quotient q] s.status, cmdSeq := s.cmdSeq + 1 } : State)
    exec (.fdiv8 rd rs1 rs2) s = .next (after 8) ∧ exec (.fdiv16 rd rs1 rs2) s = .next (after 16) ∧
      exec (.fdiv24 rd rs1 rs2) s = .next (after 24) ∧ exec (.fdiv28 rd rs1 rs2) s = .next (after 28)

/-- What the spec infers from its multiply and divide rules, in R254 and R255: multiplying and dividing by one,
products with 0 and of -1 and 1, commutation, the two saturating corners, and quotients rounded toward zero at every
sign combination. -/
def Obligations.ArithmeticIdentities : Prop :=
  ∀ (s : State) (a b : Word) (q : Nat), q ∈ [8, 16, 24, 28] →
    fmul q a.toInt (2 ^ q) s = .ok a.toInt s ∧ fmul q a.toInt 0 s = .ok 0 s ∧ fmul q (-1) 1 s = .ok (-1) s ∧
      fmul q a.toInt b.toInt s = fmul q b.toInt a.toInt s ∧
      fmul q (-2 ^ 31) (-2 ^ 31) s = .ok (2 ^ 31 - 1) { s with status := s.status ||| 1 } ∧
      fdiv q a.toInt (2 ^ q) s = .ok a.toInt s ∧
      fdiv q (-2 ^ 31) (-1) s = .ok (2 ^ 31 - 1) { s with status := s.status ||| 1 } ∧
      ∀ quotient : Int, quotient = Int.tdiv (a.toInt * 2 ^ q) b.toInt → b ≠ 0 →
        fits32 quotient = true → fits32 (-quotient) = true →
          fdiv q a.toInt b.toInt s = .ok quotient s ∧ fdiv q (-a.toInt) b.toInt s = .ok (-quotient) s ∧
            quotient.natAbs = a.toInt.natAbs * 2 ^ q / b.toInt.natAbs

/-- LDS, STS and ACCS in range: the word loaded, stored or accumulated, every other byte of sample RAM unchanged
(20_memory.md R152; 30_encoding.md R205; 40_fixedpoint.md R265, R266, R269). -/
def Obligations.LoadStoreResults : Prop :=
  ∀ (s : State) (rd rs1 rs2 imm : Nat),
    let ea := (effectiveAddress (s.reg rs1) imm).toNat
    let sum := (s.sramWord ea).toInt + (s.reg rs2).toInt
    ea = ((s.reg rs1).toNat + imm) % 2 ^ 32 ∧
    (ea < s.sramWords →
      exec (.lds rd rs1 imm) s = .next { s with
        regs := s.regs.setIfInBounds rd (s.sramWord ea), cmdSeq := s.cmdSeq + 1 } ∧
      (∃ t, exec (.sts rs1 rs2 imm) s = .next t ∧ t = { s with sram := t.sram, cmdSeq := s.cmdSeq + 1 } ∧
        t.sramWord ea = s.reg rs2 ∧ ∀ b, b < 4 * ea ∨ 4 * ea + 4 ≤ b → t.sramByte b = s.sramByte b) ∧
      (∃ t, exec (.accs rs1 rs2 imm) s = .next t ∧
        t = { s with sram := t.sram, status := satIf [sum] s.status, cmdSeq := s.cmdSeq + 1 } ∧
        t.sramWord ea = BitVec.ofInt 32 (narrow sum) ∧
        ∀ b, b < 4 * ea ∨ 4 * ea + 4 ≤ b → t.sramByte b = s.sramByte b))

/-- Taking the Fatal halt on an address outside sample RAM: LDS, STS and ACCS set FATAL and record cause, command
word and address, and nothing else changes; BUSCLR halts at the first word outside it, the words before it cleared;
and after any command but WRREG, a halt on a bad address names an address outside it and the command's own word, and
leaves CMD_SEQ and the operand registers (20_memory.md R152; 60_exceptions.md R806, R807; 46_effects.md R773). Rests
on the model's choices of logs 1 and 10. -/
def Obligations.BadAddressHalts : Prop :=
  (∀ (s : State) (rd rs1 rs2 imm : Nat),
    let ea := effectiveAddress (s.reg rs1) imm
    let halted := { s with
      status := s.status ||| 16, fatalCause := .badAddr, fatalInfo := s.cmd, fatalAddr := ea }
    s.sramWords ≤ ea.toNat →
      exec (.lds rd rs1 imm) s = .next halted ∧ exec (.sts rs1 rs2 imm) s = .next halted ∧
        exec (.accs rs1 rs2 imm) s = .next halted) ∧
  (∀ (s : State) (rs1 rs2 mask a : Nat),
    let words := clearedWords s mask (s.reg rs1).toNat (s.reg rs2).toInt.toNat
    words.find? (fun w => s.sramWords ≤ w) = some a →
      ∃ t, exec (.busclr rs1 rs2 mask) s = .next t ∧
        t = { s with
          status := s.status ||| 16, sram := t.sram, fatalCause := .badAddr, fatalInfo := s.cmd,
          fatalAddr := BitVec.ofNat 32 a } ∧
        ∀ b, t.sramByte b = if b / 4 ∈ words.takeWhile (fun w => w < s.sramWords) then 0 else s.sramByte b) ∧
  ∀ (i : Instr) (s t : State), s.fatal = false → controlWrite s i = none → exec i s = .next t → t.fatal = true →
    t.fatalCause = .badAddr →
      s.sramWords ≤ t.fatalAddr.toNat ∧ t.fatalInfo = s.cmd ∧ t.cmdSeq = s.cmdSeq ∧ t.regs = s.regs

/-- MIXV by each routine, static, signal and die ramp, and FXPROC on a slot that can run halt exactly where an
access of theirs leaves sample RAM: at the first such word in the order of the accesses, with cause BAD_ADDR, and no
byte changed but in the words before it and the slot's own; a MIXV or FXPROC none of whose words leaves it
completes. What the accesses before the halt leave in the voice, the record and sample RAM, MixStaticResult,
MixSignalResult, DieRampResult, PassThroughResults and the engines' frames say (20_memory.md R152; 45_mixer.md R600
to R606, R611, R612, R620, R630; 46_effects.md R703, R771). Rests on the model's choices of logs 1, 10, 11, 12, 22,
26 and 28. -/
def Obligations.BufferAddressHalts : Prop :=
  (∀ (s : State) (v : Voice) (rd rs1 rs2 n : Nat), s.voices[n]? = some v → v.status ≠ .free → v.status ≠ .die →
    v.ctrl.getLsbD 6 = false → v.delay.toNat ≤ (s.reg rs2).toNat → s.reg rs2 ≠ 0 →
    let words := mixAccesses s v ((s.reg rs1).toNat + v.delay.toNat) ((s.reg rs2).toNat - v.delay.toNat)
    MixHalts s rd n words (exec (.mixv rd rs1 rs2 n) s)) ∧
  (∀ (s : State) (v : Voice) (rd rs1 rs2 n : Nat), s.voices[n]? = some v → v.status ≠ .free → v.status ≠ .die →
    v.ctrl.getLsbD 6 = true → s.controlRatio ≠ 0 → v.delay.toNat ≤ (s.reg rs2).toNat → s.reg rs2 ≠ 0 →
    let first := (s.reg rs1).toNat + v.delay.toNat
    let cnt := (s.reg rs2).toNat - v.delay.toNat
    MixHalts s rd n (signalFrames s cnt first 0 (mixingOf s { v with delay := 0 })).words
      (exec (.mixv rd rs1 rs2 n) s)) ∧
  (∀ (s : State) (v : Voice) (rd rs1 rs2 n : Nat), s.voices[n]? = some v → v.status = .die → s.reg rs2 ≠ 0 →
    MixHalts s rd n (died s (s.reg rs2).toNat (s.reg rs1).toNat (mixingOf s v)).words
      (exec (.mixv rd rs1 rs2 n) s)) ∧
  ∀ (s : State) (x : Slot) (rs1 rs2 i : Nat), s.slots[i]? = some x → s.sramWords ≤ 2 ^ 24 →
    slotRunnable s x = true → slotQuiet x = false →
    let words := slotAccesses s x.bus (s.reg rs1).toNat (s.reg rs2).toNat
    ∃ t y, exec (.fxproc rs1 rs2 i) s = .next t ∧
      (∀ b, b / 4 ∉ words.takeWhile (fun a => a < s.sramWords) → slotWord s x (b / 4) = false →
        t.sramByte b = s.sramByte b) ∧
      match words.find? fun a => s.sramWords ≤ a with
      | some a =>
        t = { s with
          status := t.status, sram := t.sram, slots := s.slots.set i y, fatalCause := .badAddr,
          fatalInfo := s.cmd, fatalAddr := BitVec.ofNat 32 a } ∧
        ∃ m : Word, t.status = s.status ||| 16 ||| m ∧ m &&& ~~~(5 : Word) = 0
      | none =>
        t = { s with
          status := t.status, sram := t.sram, slots := s.slots.set i y, cmdSeq := s.cmdSeq + 1 } ∧
        ∃ m : Word, t.status = s.status ||| m ∧ m &&& ~~~(5 : Word) = 0

/-! ## Control registers -/

/-- RDREG reads the register map: every register of the global table, of each unit, slot and voice as its table
lists it, and 0 at every other address, inside a block or outside, among them the blocks of units, slots and voices
that do not exist (10_state.md R60, R80 to R103, R140; 30_encoding.md R205; 40_fixedpoint.md R262). -/
def Obligations.ControlRegisterReads : Prop :=
  ∀ (s : State) (rd rs1 imm : Nat),
    exec (.rdreg rd rs1 imm) s = .next { s with
      regs := s.regs.setIfInBounds rd (readControl s (((s.reg rs1).toNat + imm) % 2 ^ 16)),
      cmdSeq := s.cmdSeq + 1 } ∧
    readControl s 0x000 = 0x46580007 ∧ readControl s 0x001 = s.status ∧ readControl s 0x002 = s.ctrl ∧
    readControl s 0x003 = s.sampleRate ∧ readControl s 0x004 = s.controlRatio ∧
    readControl s 0x005 = s.minSustainTime ∧ readControl s 0x006 = s.mixWindow ∧
    readControl s 0x007 = s.maxDieTime ∧ readControl s 0x008 = s.outBase ∧ readControl s 0x009 = 0 ∧
    readControl s 0x00A = s.busRevBase ∧ readControl s 0x00B = s.busChoBase ∧ readControl s 0x00C = s.busDlyBase ∧
    readControl s 0x00D = s.cmdSeq ∧
    readControl s 0x00E = (match s.fatalCause with
      | .none => 0
      | .badAddr => 1
      | .alloc => 2) ∧
    readControl s 0x00F = s.fatalInfo ∧ readControl s 0x010 = s.fatalAddr ∧
    (s.params.legal = true →
      (readControl s 0x011).toNat =
        s.voices.length + 2 ^ 8 * s.delays.length + 2 ^ 16 * s.lfos.length + 2 ^ 24 * s.slots.length ∧
      (readControl s 0x012).toNat = s.filters.length + 2 ^ 8 * 16) ∧
    readControl s 0x013 = BitVec.ofNat 32 s.sramWords ∧
    (∀ ch : Fin 16, readControl s (0x0F0 + ch.val) = s.chState[ch]) ∧
    (∀ u d off, u < 64 → s.delays[u]? = some d → off < 8 →
      readControl s (0x400 + 8 * u + off) = listed (delayRegs d) off) ∧
    (∀ u l off, u < 64 → s.lfos[u]? = some l → off < 4 →
      readControl s (0x600 + 4 * u + off) = listed (lfoRegs l) off) ∧
    (∀ u f off, u < 8 → s.filters[u]? = some f → off < 32 →
      readControl s (0x700 + 32 * u + off) = listed (filterRegs f) off) ∧
    (∀ i x off, i < 16 → s.slots[i]? = some x → off < 64 →
      readControl s (0x800 + 64 * i + off) = listed (slotRegs x) off) ∧
    (∀ n v off, n < 32 → s.voices[n]? = some v → off < 128 →
      readControl s (0x1000 + 128 * n + off) = listed (voiceRegs v) off) ∧
    (∀ a, (0x014 ≤ a ∧ a < 0x0F0) ∨ (0x100 ≤ a ∧ a < 0x400) ∨ (0xC00 ≤ a ∧ a < 0x1000) ∨ 0x2000 ≤ a →
      readControl s a = 0) ∧
    (∀ a, (0x400 ≤ a ∧ a < 0x600 ∧ s.delays.length ≤ (a - 0x400) / 8) ∨
        (0x600 ≤ a ∧ a < 0x700 ∧ s.lfos.length ≤ (a - 0x600) / 4) ∨
        (0x700 ≤ a ∧ a < 0x800 ∧ s.filters.length ≤ (a - 0x700) / 32) ∨
        (0x800 ≤ a ∧ a < 0xC00 ∧ s.slots.length ≤ (a - 0x800) / 64) ∨
        (0x1000 ≤ a ∧ a < 0x2000 ∧ s.voices.length ≤ (a - 0x1000) / 128) → readControl s a = 0)

/-- WRREG performs the write effect of the register it addresses and completes; the global registers' effects:
store, WARL clamp, write-1-to-clear, the block reset for a 1 to RESET, ignored; a write to an address that no
register has, also into the block of a unit, slot or voice that does not exist, is ignored (10_state.md R60 to R70,
R140; 40_fixedpoint.md R263; 70_reset_and_hazards.md R900). That a WRREG of 1 to RESET resets, after which its
completion makes CMD_SEQ 1, is the model's choice, log 9, and so is what the reset keeps of the model's own fields,
log 5. Rests on the model's choices of logs 4, 5 and 9. -/
def Obligations.GlobalRegisterWrites : Prop :=
  ∀ (s : State) (rs1 rs2 imm : Nat) (v : Word),
    (let w := writeControl (((s.reg rs1).toNat + imm) % 2 ^ 16) (s.reg rs2) s
     exec (.wrreg rs1 rs2 imm) s = .next { w with cmdSeq := w.cmdSeq + 1 }) ∧
    writeControl 0x001 v s = { s with status := s.status &&& ~~~(v &&& 15) } ∧
    writeControl 0x002 v s = { s with ctrl := v &&& 3 } ∧
    writeControl 0x003 v s = { s with sampleRate := BitVec.ofNat 32 (max 1 (min 1048576 v.toNat)) } ∧
    writeControl 0x004 v s = { s with controlRatio := BitVec.ofNat 32 (max 1 (min 255 v.toNat)) } ∧
    writeControl 0x005 v s = { s with minSustainTime := v } ∧
    writeControl 0x006 v s = { s with mixWindow := BitVec.ofNat 32 (max 1 (min 65535 v.toNat)) } ∧
    writeControl 0x007 v s = { s with maxDieTime := BitVec.ofNat 32 (max 1 (min 65535 v.toNat)) } ∧
    writeControl 0x008 v s = { s with outBase := v } ∧
    (v ≠ 1 → writeControl 0x009 v s = s) ∧
    writeControl 0x009 1 s = { State.resetWith s.params with
      sram := s.sram, tram := s.tram, cmd := s.cmd, port := s.port, hostData := s.hostData,
      freeCount := s.freeCount } ∧
    writeControl 0x00A v s = { s with busRevBase := v } ∧ writeControl 0x00B v s = { s with busChoBase := v } ∧
    writeControl 0x00C v s = { s with busDlyBase := v } ∧
    (∀ ch : Fin 16, writeControl (0x0F0 + ch.val) v s =
      { s with chState := s.chState.set ch (v &&& 0xFFFF00FF) }) ∧
    (∀ a, a = 0 ∨ (0x00D ≤ a ∧ a < 0x0F0) ∨ (0x100 ≤ a ∧ a < 0x400) ∨ (0xC00 ≤ a ∧ a < 0x1000) ∨ 0x2000 ≤ a →
      writeControl a v s = s) ∧
    (∀ a, (0x400 ≤ a ∧ a < 0x600 ∧ s.delays.length ≤ (a - 0x400) / 8) ∨
        (0x600 ≤ a ∧ a < 0x700 ∧ s.lfos.length ≤ (a - 0x600) / 4) ∨
        (0x700 ≤ a ∧ a < 0x800 ∧ s.filters.length ≤ (a - 0x700) / 32) ∨
        (0x800 ≤ a ∧ a < 0xC00 ∧ s.slots.length ≤ (a - 0x800) / 64) ∨
        (0x1000 ≤ a ∧ a < 0x2000 ∧ s.voices.length ≤ (a - 0x1000) / 128) → writeControl a v s = s)

/-- A write of a voice register changes that register as its row says and nothing else; a V_STATUS of 5, 6 or 7, a
read-only register and an offset the tables do not list keep their value (10_state.md R80 to R90, R140; 20_memory.md
R154). Rests on the model's choices of logs 14 and 15. -/
def Obligations.VoiceRegisterWrites : Prop :=
  ∀ (s : State) (n off : Nat) (v : Word), n < s.voices.length → n < 32 → off < 0x80 →
    let a := 0x1000 + 0x80 * n + off
    let t := writeControl a v s
    t = { s with voices := t.voices } ∧
    (∀ b, b ≠ a → readControl t b = readControl s b) ∧
    (off ∈ [0x03, 0x04, 0x05, 0x06, 0x07, 0x08, 0x09, 0x0A, 0x0B, 0x0C, 0x0D, 0x0E, 0x0F, 0x10, 0x18, 0x1A, 0x1B,
        0x1C, 0x1D, 0x38, 0x3A, 0x3B, 0x58, 0x59, 0x5C, 0x60, 0x61, 0x63, 0x64, 0x65, 0x66, 0x67, 0x68, 0x69, 0x6A,
        0x70] → readControl t a = v) ∧
    (off ∈ [0x19, 0x20, 0x21, 0x22, 0x23, 0x24, 0x25, 0x28, 0x29, 0x2A, 0x2B, 0x2C, 0x2D, 0x39, 0x40, 0x41, 0x42,
        0x43, 0x44, 0x45, 0x48, 0x49, 0x4A, 0x4B, 0x4C, 0x4D] →
      readControl t a = BitVec.ofInt 32 (clamp 0 0x3FFFFFFF v.toInt)) ∧
    (off ∈ [0x30, 0x31, 0x32, 0x33, 0x34, 0x35, 0x50, 0x51, 0x52, 0x53, 0x54, 0x55] →
      readControl t a = BitVec.ofInt 32 (clamp 0 (2 ^ 24) v.toInt)) ∧
    (off ∈ [0x5A, 0x5B] → readControl t a = BitVec.ofInt 32 (clamp 0 65536 v.toInt)) ∧
    (off = 0x71 → readControl t a = BitVec.ofInt 32 (clamp 0 256 v.toInt)) ∧
    (off ∈ [0x72, 0x73] → readControl t a = BitVec.ofInt 32
      (if readControl s (0x1000 + 0x80 * n + 0x71) = 0 then 0
        else v.toInt % ((readControl s (0x1000 + 0x80 * n + 0x71)).toNat : Int))) ∧
    (off = 0x00 → readControl t a = v &&& 0x3FF) ∧ (off = 0x02 → readControl t a = v &&& 0xF) ∧
    (off = 0x01 → readControl t a = if v &&& 7 < 5 then v &&& 7 else readControl s a) ∧
    (off ∈ [0x3C, 0x5D, 0x62] ∨ (0x11 ≤ off ∧ off ≤ 0x17) ∨ off = 0x1E ∨ off = 0x1F ∨ off = 0x26 ∨ off = 0x27 ∨
        off = 0x2E ∨ off = 0x2F ∨ off = 0x36 ∨ off = 0x37 ∨ (0x3D ≤ off ∧ off ≤ 0x3F) ∨ off = 0x46 ∨ off = 0x47 ∨
        off = 0x4E ∨ off = 0x4F ∨ off = 0x56 ∨ off = 0x57 ∨ off = 0x5E ∨ off = 0x5F ∨ (0x6B ≤ off ∧ off ≤ 0x6F) ∨
        0x74 ≤ off → t = s)

/-- The writes of delay-line, LFO, filter and slot registers: store, WARL reduction, F_DIRTY set by a design
parameter and written as a bit, FX_BUS of 4 or more ignored, a different FX_TYPE discarding the slot's effect and
the same one changing nothing; a read-only register and an offset the tables do not list keep everything
(10_state.md R100 to R103, R140; 20_memory.md R154; 43_filters.md R436; 46_effects.md R706). That FX_BUS ignores the
words with bit 31 set, log 13, and that LFO_WAVE and F_DIRTY keep bit 0 of the word written and drop the others, log
14, are the model's choices. Rests on the model's choices of logs 13, 14 and 19. -/
def Obligations.UnitRegisterWrites : Prop :=
  ∀ (s : State) (u : Nat) (v : Word),
    (∀ d, u < 64 → s.delays[u]? = some d →
      let write := fun off => writeControl (0x400 + 8 * u + off) v s
      let after := fun e : DelayUnit => { s with delays := s.delays.set u e }
      write 2 = after { d with line := { d.line with
        wpt := BitVec.ofInt 32 (if d.line.len = 0 then 0 else v.toInt % (d.line.len.toNat : Int)) } } ∧
      write 3 = after { d with hist := v } ∧ write 4 = after { d with fb := v } ∧
      write 5 = after { d with damp := BitVec.ofInt 32 (clamp 0 0x01000000 v.toInt) } ∧
      write 6 = after { d with store := v } ∧ write 0 = s ∧ write 1 = s ∧ write 7 = s) ∧
    (∀ l, u < 64 → s.lfos[u]? = some l →
      let write := fun off => writeControl (0x600 + 4 * u + off) v s
      let after := fun e : LfoUnit => { s with lfos := s.lfos.set u e }
      write 1 = after { l with
        count := BitVec.ofInt 32 (if l.cycle = 0 then 0 else v.toInt % (l.cycle.toNat : Int)) } ∧
      write 2 = after { l with wave := if v.toNat % 2 = 1 then .triangle else .sine } ∧
      write 0 = s ∧ write 3 = s) ∧
    (∀ f, u < 8 → s.filters[u]? = some f →
      let write := fun off => writeControl (0x700 + 32 * u + off) v s
      let after := fun e : FilterUnit => { s with filters := s.filters.set u e }
      write 0 = after { f with b0 := v } ∧ write 1 = after { f with b1 := v } ∧ write 2 = after { f with b2 := v } ∧
      write 3 = after { f with a1 := v } ∧ write 4 = after { f with a2 := v } ∧ write 5 = after { f with x1 := v } ∧
      write 6 = after { f with x2 := v } ∧ write 7 = after { f with y1 := v } ∧ write 8 = after { f with y2 := v } ∧
      write 9 = after { f with rf := v } ∧ write 10 = after { f with rq := v } ∧ write 11 = after { f with rp := v } ∧
      write 12 = after { f with hist := { f.hist with h0 := v } } ∧
      write 13 = after { f with hist := { f.hist with h1 := v } } ∧
      write 14 = after { f with hist := { f.hist with h2 := v } } ∧
      write 15 = after { f with hist := { f.hist with h3 := v } } ∧
      write 16 = after { f with hist := { f.hist with h4 := v } } ∧
      write 17 = after { f with dirty := decide (v.toNat % 2 = 1) } ∧
      write 18 = after { f with pfreq := v, dirty := true } ∧ write 19 = after { f with pq := v, dirty := true } ∧
      write 20 = after { f with pgain := v, dirty := true } ∧ ∀ off, 21 ≤ off → off < 32 → write off = s) ∧
    (∀ x, u < 16 → s.slots[u]? = some x →
      let write := fun off => writeControl (0x800 + 64 * u + off) v s
      let after := fun y : Slot => { s with slots := s.slots.set u y }
      (v = x.fxType → write 0 = s) ∧
      (v ≠ x.fxType → write 0 = after { x with fxType := v, used := 0, record := .empty }) ∧
      (v = 0 → write 2 = after { x with bus := .reverb }) ∧ (v = 1 → write 2 = after { x with bus := .chorus }) ∧
      (v = 2 → write 2 = after { x with bus := .delay }) ∧ (v = 3 → write 2 = after { x with bus := .insert }) ∧
      (4 ≤ v.toNat → write 2 = s) ∧ write 3 = after { x with base := v } ∧ write 4 = after { x with limit := v } ∧
      (∀ i : Fin 32, write (0x10 + i.val) = after { x with params := x.params.set i v }) ∧
      ∀ off, off = 1 ∨ (5 ≤ off ∧ off < 0x10) ∨ (0x30 ≤ off ∧ off < 64) → write off = s)

/-! ## Indexed commands -/

/-- A command on a unit, voice or slot that does not exist sets RANGE and has no other effect (30_encoding.md R203;
60_exceptions.md R802). -/
def Obligations.MissingIndexSetsRange : Prop :=
  ∀ (i : Instr) (s : State), missingIndex s i = true →
    exec i s = .next { s with status := s.status ||| 4, cmdSeq := s.cmdSeq + 1 }

/-- A delay-line command on a unit that is not configured sets RANGE and has no other effect (41_delayline.md R352). -/
def Obligations.UnconfiguredDelaySetsRange : Prop :=
  ∀ (s : State) (rd rs1 rs2 u : Nat), (∀ d, s.delays[u]? = some d → d.valid = false) →
    let after : Host.Outcome State Fault Refusal :=
      .next { s with status := s.status ||| 4, cmdSeq := s.cmdSeq + 1 }
    exec (.dlwr rs1 u) s = after ∧ exec (.dlrd rd rs1 u) s = after ∧ exec (.dlmrd rd rs1 rs2 u) s = after ∧
      exec (.comb rd rs1 u) s = after ∧ exec (.apf rd rs1 u) s = after

/-- A voice command on a FREE voice completes and does nothing but write 0 to its rd, if it has one (44_envelope.md
section 8; 45_mixer.md R640, R641). -/
def Obligations.FreeVoiceIsSkipped : Prop :=
  ∀ (s : State) (v : Voice) (rd rs1 rs2 n : Nat), s.voices[n]? = some v → v.status = .free →
    let zero : Host.Outcome State Fault Refusal :=
      .next { s with regs := s.regs.setIfInBounds rd 0, cmdSeq := s.cmdSeq + 1 }
    let same : Host.Outcome State Fault Refusal := .next { s with cmdSeq := s.cmdSeq + 1 }
    exec (.envupd rd n) s = zero ∧ exec (.envamp rd n) s = zero ∧ exec (.mixv rd rs1 rs2 n) s = zero ∧
      exec (.tremupd n) s = same ∧ exec (.menvupd n) s = same ∧ exec (.envstart n) s = same ∧
      exec (.envrel n) s = same ∧ exec (.mixsmooth n) s = same

/-! ## Delay lines -/

/-- DLCFG allocates: the unit's buffer is cleared, its cursor and history are 0, its gains are kept (41_delayline.md
R353, R354, R360). Rests on the model's choice of log 20. -/
def Obligations.DelayConfigureResult : Prop :=
  ∀ (s : State) (d : DelayUnit) (rs1 rs2 u : Nat), s.delays[u]? = some d →
    let base := s.reg rs1
    let len := s.reg rs2
    1 ≤ len.toNat → len.toNat ≤ 2 ^ 24 → base.toNat + len.toNat ≤ s.sramWords →
      ∃ t, exec (.dlcfg rs1 rs2 u) s = .next t ∧
        t = { s with
          sram := t.sram, cmdSeq := s.cmdSeq + 1,
          delays := s.delays.set u { d with
            line := { base := base, len := len, wpt := 0 }, hist := 0, store := 0, valid := true } } ∧
        ∀ b, t.sramByte b =
          if 4 * base.toNat ≤ b ∧ b < 4 * (base.toNat + len.toNat) then 0 else s.sramByte b

/-- DLWR and DLRD on a configured unit: a write lands at the cursor and advances it, every other byte unchanged; a
read takes the tap, clamped to 1..L with RANGE (41_delayline.md R350, R351, R361, R362). -/
def Obligations.DelayWriteReadResults : Prop :=
  ∀ (s : State) (d : DelayUnit) (rd rs1 u : Nat), s.delays[u]? = some d → d.valid = true → s.sramWords ≤ 2 ^ 24 →
    lineOk s.sramWords d.line = true →
    let tap := (s.reg rs1).toInt
    let a := (lineCursor d.line).toNat
    (∃ t, exec (.dlwr rs1 u) s = .next t ∧
      t = { s with
        sram := t.sram, cmdSeq := s.cmdSeq + 1, delays := s.delays.set u { d with line := advanced d.line } } ∧
      a = d.line.base.toNat + d.line.wpt.toNat ∧ t.sramWord a = s.reg rs1 ∧
      ∀ b, b < 4 * a ∨ 4 * a + 4 ≤ b → t.sramByte b = s.sramByte b) ∧
    exec (.dlrd rd rs1 u) s = .next { s with
      regs := s.regs.setIfInBounds rd (s.sramWord (tapAt d.line (clamp 1 d.line.len.toNat tap))),
      status := rangeIf (decide (¬(1 ≤ tap ∧ tap ≤ d.line.len.toNat))) s.status, cmdSeq := s.cmdSeq + 1 }

/-- DLMRD on a configured unit: the allpass-interpolated read between two taps, operands clamped with RANGE, DL_HIST
and rd its result; its coefficient is 1.0 at f = 0, 5592405 at one half, and never rises with f (41_delayline.md
R355, R356, R363). -/
def Obligations.ModulatedReadResult : Prop :=
  (eta 0 = 2 ^ 24 ∧ eta (2 ^ 23) = 5592405 ∧
    ∀ f g : Int, 0 ≤ f → f ≤ g → g < 2 ^ 24 → 0 ≤ eta g ∧ eta g ≤ eta f ∧ eta f ≤ 2 ^ 24) ∧
  ∀ (s : State) (d : DelayUnit) (rd rs1 rs2 u : Nat), s.delays[u]? = some d → d.valid = true →
    s.sramWords ≤ 2 ^ 24 → lineOk s.sramWords d.line = true →
    let len : Int := d.line.len.toNat
    let m := (s.reg rs1).toInt
    let f := (s.reg rs2).toInt
    let m' := clamp 1 (max (len - 1) 1) m
    let f' := clamp 0 (2 ^ 24 - 1) f
    let older := tapSample s d.line (min (m' + 1) len)
    let newer := tapSample s d.line (min m' len)
    let diff := newer - d.hist.toInt
    let coefficient := Int.tdiv ((2 ^ 24 - f') * 2 ^ 24) (2 ^ 24 + f')
    let product := scaled 24 (narrow diff) coefficient
    let y := older + narrow product
    exec (.dlmrd rd rs1 rs2 u) s = .next { s with
      regs := s.regs.setIfInBounds rd (BitVec.ofInt 32 (narrow y)),
      delays := s.delays.set u { d with hist := BitVec.ofInt 32 (narrow y) },
      status := rangeIf (decide (¬(1 ≤ m ∧ m ≤ len - 1 ∧ 0 ≤ f ∧ f < 2 ^ 24))) (satIf [diff, product, y] s.status),
      cmdSeq := s.cmdSeq + 1 }

/-- COMB and APF on a configured unit: the oldest sample goes out, the feedback sum goes in at the cursor, every
other byte unchanged (41_delayline.md R364, R365). -/
def Obligations.CombAllpassResults : Prop :=
  ∀ (s : State) (d : DelayUnit) (rd rs1 u : Nat), s.delays[u]? = some d → d.valid = true → s.sramWords ≤ 2 ^ 24 →
    lineOk s.sramWords d.line = true →
    let x := (s.reg rs1).toInt
    let a := (lineCursor d.line).toNat
    let old := (s.sramWord a).toInt
    let damp := clamp 0 (2 ^ 24) d.damp.toInt
    let p := scaled 24 old (2 ^ 24 - damp)
    let q := scaled 24 d.store.toInt damp
    let st := narrow p + narrow q
    let fed := scaled 24 (narrow st) d.fb.toInt
    let combIn := x + narrow fed
    let back := scaled 24 old d.fb.toInt
    let apfIn := x + narrow back
    a = d.line.base.toNat + d.line.wpt.toNat ∧
    (∃ t, exec (.comb rd rs1 u) s = .next t ∧
      t = { s with
        regs := s.regs.setIfInBounds rd (s.sramWord a), sram := t.sram, cmdSeq := s.cmdSeq + 1,
        delays := s.delays.set u { d with line := advanced d.line, store := BitVec.ofInt 32 (narrow st) },
        status := satIf [p, q, st, fed, combIn] s.status } ∧
      t.sramWord a = BitVec.ofInt 32 (narrow combIn) ∧
      ∀ b, b < 4 * a ∨ 4 * a + 4 ≤ b → t.sramByte b = s.sramByte b) ∧
    (∃ t, exec (.apf rd rs1 u) s = .next t ∧
      t = { s with
        regs := s.regs.setIfInBounds rd (BitVec.ofInt 32 (narrow (old - x))), sram := t.sram,
        cmdSeq := s.cmdSeq + 1, delays := s.delays.set u { d with line := advanced d.line },
        status := satIf [old - x, back, apfIn] s.status } ∧
      t.sramWord a = BitVec.ofInt 32 (narrow apfIn) ∧
      ∀ b, b < 4 * a ∨ 4 * a + 4 ≤ b → t.sramByte b = s.sramByte b)

/-- The line length the reverbs use is the smallest prime not below the number and not below 2 (41_delayline.md
R357). -/
def Obligations.NextPrimeIsSmallest : Prop :=
  ∀ n : Nat, Nat.Prime (nextPrimeGe n) ∧ max n 2 ≤ nextPrimeGe n ∧
    ∀ p, Nat.Prime p → max n 2 ≤ p → nextPrimeGe n ≤ p

/-! ## LFO and filters -/

/-- LFOCFG sets cycle and start count and clears the output, a cycle outside 1..2^24 clamped with RANGE; LFOSTEP
answers the waveform at the count's table index and advances the count (42_lfo.md R400 to R402, R410, R411). -/
def Obligations.LfoResults : Prop :=
  ∀ (s : State) (l : LfoUnit) (rd rs1 rs2 u : Nat), s.lfos[u]? = some l →
    (let c := (s.reg rs1).toNat
     let cycle := max 1 (min (2 ^ 24) c)
     exec (.lfocfg rs1 rs2 u) s = .next { s with
        lfos := s.lfos.set u { l with
          cycle := BitVec.ofNat 32 cycle, count := BitVec.ofNat 32 ((s.reg rs2).toNat % cycle), out := 0 },
        status := rangeIf (decide (c = 0 ∨ 2 ^ 24 < c)) s.status, cmdSeq := s.cmdSeq + 1 }) ∧
    (l.cycle ≠ 0 →
      let i := l.count.toNat * 512 / l.cycle.toNat
      let v := match l.wave with
        | .sine => s.tramWord (2048 + i)
        | .triangle => BitVec.ofInt 32 (if i ≤ 256 then (i : Int) * 256 else (512 - (i : Int)) * 256)
      exec (.lfostep rd u) s = .next { s with
        regs := s.regs.setIfInBounds rd v,
        lfos := s.lfos.set u { l with count := BitVec.ofNat 32 ((l.count.toNat + 1) % l.cycle.toNat), out := v },
        cmdSeq := s.cmdSeq + 1 }) ∧
    (l.cycle = 0 → exec (.lfostep rd u) s = .next { s with
      status := s.status ||| 4, cmdSeq := s.cmdSeq + 1 })

/-- The filter commands: BQ's exact sum rounded once and saturated, with the clamped value fed back; FCLR's cleared
history; one Chamberlin step of SVF and one ladder step of MOOG (43_filters.md R430, R431, R450, R455, R460 to
R463). -/
def Obligations.FilterResults : Prop :=
  (∀ (s : State) (f : FilterUnit) (rd rs1 u : Nat), s.filters[u]? = some f →
    let x := (s.reg rs1).toInt
    let acc := f.b0.toInt * x + f.b1.toInt * f.x1.toInt + f.b2.toInt * f.x2.toInt
      - f.a1.toInt * f.y1.toInt - f.a2.toInt * f.y2.toInt
    let y := BitVec.ofInt 32 (narrow (Int.fdiv acc (2 ^ 24)))
    exec (.bq rd rs1 u) s = .next { s with
      regs := s.regs.setIfInBounds rd y,
      filters := s.filters.set u { f with x2 := f.x1, x1 := s.reg rs1, y2 := f.y1, y1 := y },
      status := satIf [Int.fdiv acc (2 ^ 24)] s.status, cmdSeq := s.cmdSeq + 1 } ∧
    exec (.fclr u) s = .next { s with
      filters := s.filters.set u { f with
        x1 := 0, x2 := 0, y1 := 0, y2 := 0, hist := { h0 := 0, h1 := 0, h2 := 0, h3 := 0, h4 := 0 } },
      cmdSeq := s.cmdSeq + 1 }) ∧
  ∀ (s : State) (f : FilterUnit) (rd rs1 u : Nat), s.filters[u]? = some f →
    (let x := (s.reg rs1).toInt
     let band := f.hist.h1.toInt
     let p := scaled 24 f.rf.toInt band
     let low := f.hist.h0.toInt + narrow p
     let d := x - narrow low
     let r := scaled 24 f.rq.toInt band
     let high := narrow d - narrow r
     let g := scaled 24 f.rf.toInt (narrow high)
     let band' := band + narrow g
     exec (.svf rd rs1 u) s = .next { s with
       regs := s.regs.setIfInBounds rd (BitVec.ofInt 32 (narrow low)),
       filters := s.filters.set u { f with
         hist := { f.hist with h0 := BitVec.ofInt 32 (narrow low), h1 := BitVec.ofInt 32 (narrow band') } },
       status := satIf [p, low, d, r, high, g, band'] s.status, cmdSeq := s.cmdSeq + 1 }) ∧
    (let c := f.rf.toInt
     let gain := f.rp.toInt
     let h := f.hist
     let r := scaled 24 f.rq.toInt h.h4.toInt
     let xx := (s.reg rs1).toInt - narrow r
     let pole := fun a old prev : Int =>
       narrow (scaled 24 (narrow (a + prev)) gain) - narrow (scaled 24 old c)
     let b1 := pole (narrow xx) h.h1.toInt h.h0.toInt
     let b2 := pole (narrow b1) h.h2.toInt h.h1.toInt
     let b3 := pole (narrow b2) h.h3.toInt h.h2.toInt
     let b4 := pole (narrow b3) h.h4.toInt h.h3.toInt
     let checks := fun a old prev : Int => [a + prev, scaled 24 (narrow (a + prev)) gain, scaled 24 old c]
     exec (.moog rd rs1 u) s = .next { s with
       regs := s.regs.setIfInBounds rd (BitVec.ofInt 32 (narrow b4)),
       filters := s.filters.set u { f with
         hist := { h0 := BitVec.ofInt 32 (narrow xx), h1 := BitVec.ofInt 32 (narrow b1),
                   h2 := BitVec.ofInt 32 (narrow b2), h3 := BitVec.ofInt 32 (narrow b3),
                   h4 := BitVec.ofInt 32 (narrow b4) } },
       status := satIf ([r, xx] ++ checks (narrow xx) h.h1.toInt h.h0.toInt ++ [b1] ++
         checks (narrow b1) h.h2.toInt h.h1.toInt ++ [b2] ++ checks (narrow b2) h.h3.toInt h.h2.toInt ++ [b3] ++
         checks (narrow b3) h.h4.toInt h.h3.toInt ++ [b4]) s.status,
       cmdSeq := s.cmdSeq + 1 })

/-! ## Envelopes -/

/-- What the envelope commands may change of a live voice: each completes, sets no flag but SAT, and changes only
the registers named here; ENVUPD answers 1 exactly when the voice was freed (44_envelope.md R505, R510 to R565). -/
def Obligations.EnvelopeCommandFrames : Prop :=
  ∀ (s : State) (v : Voice) (rd n : Nat), s.voices[n]? = some v → v.status ≠ .free →
    (∃ t w, exec (.envupd rd n) s = .next t ∧
      t = { s with
        regs := s.regs.setIfInBounds rd (if w.status = .free then 1 else 0), status := t.status,
        voices := s.voices.set n w, cmdSeq := s.cmdSeq + 1 } ∧
      (t.status = s.status ∨ t.status = s.status ||| 1) ∧ (w.status = .free ∨ w.status = v.status) ∧
      w = { v with
        ctrl := w.ctrl, status := w.status, lss := w.lss, lsr := w.lsr, menvOut := w.menvOut,
        env := { v.env with stage := w.env.stage, value := w.env.value, target := w.env.target, inc := w.env.inc },
        menv := { v.menv with
          stage := w.menv.stage, value := w.menv.value, target := w.menv.target, inc := w.menv.inc },
        trem := { v.trem with
          phase := w.trem.phase, sweepPos := w.trem.sweepPos, sweepInc := w.trem.sweepInc, mul := w.trem.mul },
        mix := { v.mix with amp := w.mix.amp, leftMix := w.mix.leftMix, rightMix := w.mix.rightMix } }) ∧
    (∀ i, i = .envstart n ∨ i = .envrel n →
      ∃ t w, exec i s = .next t ∧
        t = { s with status := t.status, voices := s.voices.set n w, cmdSeq := s.cmdSeq + 1 } ∧
        (t.status = s.status ∨ t.status = s.status ||| 1) ∧ (w.status = .free ∨ w.status = v.status) ∧
        w = { v with
          ctrl := w.ctrl, status := w.status, lss := w.lss, lsr := w.lsr, menvOut := w.menvOut,
          env := { v.env with stage := w.env.stage, target := w.env.target, inc := w.env.inc },
          menv := { v.menv with stage := w.menv.stage, target := w.menv.target, inc := w.menv.inc },
          mix := { v.mix with amp := w.mix.amp, leftMix := w.mix.leftMix, rightMix := w.mix.rightMix } }) ∧
    (∃ t w, exec (.menvupd n) s = .next t ∧
      t = { s with status := t.status, voices := s.voices.set n w, cmdSeq := s.cmdSeq + 1 } ∧
      (t.status = s.status ∨ t.status = s.status ||| 1) ∧
      w = { v with
        ctrl := w.ctrl, menvOut := w.menvOut,
        menv := { v.menv with
          stage := w.menv.stage, value := w.menv.value, target := w.menv.target, inc := w.menv.inc } } ∧
      (w.ctrl = v.ctrl ∨ w.ctrl = v.ctrl ||| 0x100))

/-- ENVAMP on a live voice: the level by table, early, late or rescaled, times tremolo, panned; an OFF or SUSTAINED
voice at level 0 or below is freed and rd is 1. TREMUPD on a live voice: the sweep, which ends at 1.0, the phase
modulo 2^32, the multiplier, which stays in 0..65536 over a unipolar sine table, and SAT for every number narrowed,
the sweep sum among them (10_state.md R84; 40_fixedpoint.md R252; 42_lfo.md R403; 44_envelope.md R530, R531, R550,
R551, R561, R562). Rests on the model's choice of log 11. -/
def Obligations.LevelAndTremoloResults : Prop :=
  (∀ (s : State) (v : Voice) (rd n : Nat), s.voices[n]? = some v → v.status ≠ .free →
    v.env.value.toNat ≤ 0x3FFFFFFF →
    let e := v.env.value.toNat
    let late := fun x : Nat => (s.tramWord (1024 + x / 2 ^ 20)).toInt
    let r := scaled 16 e v.lsr.toInt
    let back := scaled 16 (late (clamp 0 0x3FFFFFFF (narrow r)).toNat) v.lss.toInt
    let releasing := decide ((if v.ctrl.getLsbD 0 then 4 else 3) < v.env.stage.toNat)
    let level : Int :=
      if v.env.stage.toNat ≤ 1 then (s.tramWord (e / 2 ^ 20)).toInt
      else if releasing then narrow back else late e
    let shaken := scaled 16 level v.trem.mul.toInt
    let a := if v.ctrl.getLsbD 7 then narrow shaken else level
    let l := scaled 16 a v.mix.panL.toInt
    let rr := scaled 16 a v.mix.panR.toInt
    let dies := decide ((v.status = .off ∨ v.status = .sustained) ∧ a ≤ 0)
    exec (.envamp rd n) s = .next { s with
      regs := s.regs.setIfInBounds rd (if dies then 1 else 0),
      voices := s.voices.set n { v with
        status := if dies then .free else v.status, ctrl := if dies then v.ctrl ||| 0x200 else v.ctrl,
        mix := { v.mix with
          amp := BitVec.ofInt 32 a, leftMix := BitVec.ofInt 32 (narrow l), rightMix := BitVec.ofInt 32 (narrow rr) } },
      status := satIf ((if releasing && decide (1 < v.env.stage.toNat) then [r, back] else []) ++
        (if v.ctrl.getLsbD 7 then [shaken] else []) ++ [l, rr]) s.status,
      cmdSeq := s.cmdSeq + 1 }) ∧
  ∀ (s : State) (v : Voice) (n : Nat), s.voices[n]? = some v → v.status ≠ .free →
    let swept := v.trem.sweepPos.toInt + (if v.trem.sweepInc = 0 then 0 else (v.trem.sweepInc.toNat : Int))
    let full := decide (v.trem.sweepInc ≠ 0 ∧ 65536 ≤ swept)
    let pos : Int := if full then 65536 else swept
    let phase := v.trem.phase + v.trem.inc
    let wave := (s.tramWord (2048 + phase.toNat / 2 ^ 23)).toInt
    let p := scaled 16 v.trem.depth.toInt (BitVec.ofInt 32 pos).toInt
    let q := scaled 16 (narrow p) wave
    let m := 65536 - narrow q
    exec (.tremupd n) s = .next { s with
      voices := s.voices.set n { v with
        trem := { v.trem with
          phase := phase, sweepPos := BitVec.ofInt 32 pos, sweepInc := if full then 0 else v.trem.sweepInc,
          mul := BitVec.ofInt 32 (narrow m) } },
      status := satIf [swept, p, q, m] s.status, cmdSeq := s.cmdSeq + 1 } ∧
    (v.trem.depth.toNat ≤ 65536 → v.trem.sweepPos.toNat ≤ 65536 → 0 ≤ wave → wave ≤ 65536 →
      0 ≤ m ∧ m ≤ 65536 ∧ narrow m = m)

/-- ENVUPD on a live voice: ENV_STAGE never goes down; the amplitude envelope stops, moves or snaps at its target
into the next stage, a hold or the freeing of the voice; then, held or not, tremolo where TREM_EN and TREM_INC let
it run, the modulation envelope where MODENV_EN does, and the level with the freeing of a silent voice; rd is 1 if
the voice was freed, SAT is set only by a product, and nothing else changes (44_envelope.md R500 to R502, R505, R510
to R516, R520, R530, R540 to R542, R550, R551, R555, R560). Rests on the model's choices of logs 11, 22 and 27. -/
def Obligations.EnvelopeUpdateResult : Prop :=
  (∀ (s t : State) (v w : Voice) (rd n : Nat), s.voices[n]? = some v → v.status ≠ .free →
    exec (.envupd rd n) s = .next t → t.voices[n]? = some w → v.env.stage.toNat ≤ w.env.stage.toNat) ∧
  ∀ (s : State) (v : Voice) (rd n : Nat), s.voices[n]? = some v → v.status ≠ .free →
    let r := updated true s v
    exec (.envupd rd n) s = .next { s with
      regs := s.regs.setIfInBounds rd (if r.1.status = .free then 1 else 0), voices := s.voices.set n r.1,
      status := satIf r.2 s.status, cmdSeq := s.cmdSeq + 1 }

/-- ENVSTART on a live voice: the first stage whose target is not the value already starts, or the voice is
sustained or freed where there is none; a voice not freed then has its modulation envelope started from stage 0
where MODENV_EN lets it, and its level computed, which may free it; nothing else changes. A first target that
differs from the value starts stage 0 at the followed rate, limited only when it falls (44_envelope.md R505, R511 to
R516, R520, R540 to R542, R550, R551, R564). -/
def Obligations.EnvelopeStartsAttack : Prop :=
  ∀ (s : State) (v : Voice) (n : Nat), s.voices[n]? = some v → v.status ≠ .free →
    let target := (entry v.env.offset 0).toInt
    let delta := target - v.env.value.toInt
    let followed := narrow (scaled 16 (entry v.env.rate 0).toInt (entry v.env.follow 0).toInt)
    let rate := if delta < 0 then clamp 1 (-delta) followed else followed
    (let v0 := { v with env := { v.env with stage := 0, inc := 0 } }
     let r := restarted s 0 (stageReached s v0 v.env.value.toInt 0, stageChecks s v0 v.env.value.toInt 0)
     exec (.envstart n) s = .next { s with
       voices := s.voices.set n r.1, status := satIf r.2 s.status, cmdSeq := s.cmdSeq + 1 }) ∧
    (delta ≠ 0 → ∃ t w, exec (.envstart n) s = .next t ∧ t.voices = s.voices.set n w ∧ t.cmdSeq = s.cmdSeq + 1 ∧
      w.env = { v.env with
        stage := 1, target := entry v.env.offset 0, inc := BitVec.ofInt 32 (if delta < 0 then -rate else rate) })

/-- ENVREL on a live voice: the stages from FIRST_RELEASE, then, for a voice not freed there, the modulation
envelope started from that stage where MODENV_EN lets it, and the level, which may free it; nothing else changes. At
value 0 the voice is freed; above 0, where the sustain-decay rule does not hold it, OFF or with MIN_SUSTAIN_TIME 1,
release starts at the rate scaled by the start level, at least the minimum ramp long, and the scale and its
reciprocal are kept (44_envelope.md R500, R505, R511 to R516, R520, R540 to R542, R550, R551, R565). -/
def Obligations.ReleaseStarts : Prop :=
  ∀ (s : State) (v : Voice) (n : Nat), s.voices[n]? = some v → v.status ≠ .free → v.env.value.toNat ≤ 0x3FFFFFFF →
    let k := if v.ctrl.getLsbD 0 then 4 else 3
    let value : Int := v.env.value.toNat
    let released := { v with env := { v.env with stage := BitVec.ofNat 32 k } }
    (value = 0 → exec (.envrel n) s = .next { s with
      voices := s.voices.set n { released with status := .free, ctrl := v.ctrl ||| 0x200 },
      cmdSeq := s.cmdSeq + 1 }) ∧
    (let r := restarted s k (stageReached s released value k, stageChecks s released value k)
     exec (.envrel n) s = .next { s with
       voices := s.voices.set n r.1, status := satIf r.2 s.status, cmdSeq := s.cmdSeq + 1 }) ∧
    (v.status = .off ∨ v.status = .die ∨ s.minSustainTime.toInt = 1 →
      let target := (entry v.env.offset k).toInt
      let delta := target - value
      let lss := value * 2 ^ 16 / 0x3FFFFFFF
      let lsr := if lss = 0 then 0 else min (2 ^ 32 / lss) 2147483647
      let followed := narrow (scaled 16 (entry v.env.rate k).toInt (entry v.env.follow k).toInt)
      let rescaled := max 1 (narrow (scaled 16 followed lss))
      let ramp := max 1 (20 * (s.sampleRate.toNat : Int) / (1000 * (s.controlRatio.toNat : Int)))
      let limited := min rescaled (max 1 ((delta.natAbs : Int) / ramp))
      let rate := if delta < 0 then clamp 1 (-delta) limited else limited
      0 < value → delta ≠ 0 → ∃ t w, exec (.envrel n) s = .next t ∧ t.voices = s.voices.set n w ∧
        t.cmdSeq = s.cmdSeq + 1 ∧ w.lss = BitVec.ofInt 32 lss ∧ w.lsr = BitVec.ofInt 32 lsr ∧
        w.env = { v.env with
          stage := BitVec.ofNat 32 (k + 1), target := entry v.env.offset k,
          inc := BitVec.ofInt 32 (if delta < 0 then -rate else rate) })

/-- ENVREL on an ON or SUSTAINED voice above 0: the sustain-decay rule holds the value when there is no time limit,
and otherwise ramps it to 0 over the limit, the pedal shortening it; the modulation envelope from FIRST_RELEASE and
the level follow, and nothing else changes; with MIN_SUSTAIN_TIME 1 the rule is skipped, and the envelope does what
it does on an OFF voice (10_state.md R67; 44_envelope.md R500, R520, R540 to R542, R550, R551, R565). -/
def Obligations.SustainHoldsOrDecays : Prop :=
  ∀ (s : State) (v : Voice) (n : Nat), s.voices[n]? = some v → (v.status = .on ∨ v.status = .sustained) →
    v.env.value.toNat ≤ 0x3FFFFFFF → 0 < v.env.value.toNat →
    let first := if v.ctrl.getLsbD 0 then 4 else 3
    let ch := s.chState[v.channel]
    let mst := s.minSustainTime.toInt
    let loop : Int := (ch.toNat / 2 ^ 16 : Nat) * 1000
    let limit := if mst ≤ 1 then loop else if loop = 0 then mst else min mst loop
    let time := if v.status = .sustained ∧ ch.getLsbD 7 = false then limit * (ch.toNat % 128 : Nat) / 127 else limit
    let width := max 1 (time * (s.sampleRate.toNat : Int) / (1000 * (s.controlRatio.toNat : Int)))
    let whole : Int := if v.ctrl.getLsbD 0 then v.env.value.toNat else 0x3FFFFFFF
    let table := (entry v.env.rate first).toInt
    let rate := if 0 < table then min (max 1 (whole / width)) table else max 1 (whole / width)
    (mst ≠ 1 →
      let sustained := { v with env := { v.env with
        stage := BitVec.ofNat 32 first, target := if limit = 0 then v.env.target else 0,
        inc := if limit = 0 then 0 else BitVec.ofInt 32 (-rate) } }
      let r := restarted s first (sustained, [])
      exec (.envrel n) s = .next { s with
        voices := s.voices.set n r.1, status := satIf r.2 s.status, cmdSeq := s.cmdSeq + 1 }) ∧
    (mst = 1 → ∃ t w t' w', exec (.envrel n) s = .next t ∧ t.voices = s.voices.set n w ∧
      exec (.envrel n) { s with voices := s.voices.set n { v with status := .off } } = .next t' ∧
      t'.voices = s.voices.set n w' ∧ w.env = w'.env ∧ w.lss = w'.lss ∧ w.lsr = w'.lsr ∧
      w.mix = w'.mix)

/-- MENVUPD on a live voice: nothing while CTRL.MODENV_EN is 0; else a running value moves, snaps at its target and
starts the next stage it does not pass through, or is finished or held, and MENV_OUT follows the value, raising
FILT_DIRTY when it changes (44_envelope.md R500, R540 to R543, R563). Rests on the model's choice of log 22. -/
def Obligations.ModulationEnvelopeResult : Prop :=
  ∀ (s : State) (v : Voice) (n : Nat), s.voices[n]? = some v → v.status ≠ .free →
    let inc := v.menv.inc.toInt
    let target := v.menv.target.toInt
    let moved := clamp 0 0x3FFFFFFF (v.menv.value.toInt + inc)
    let reached := decide ((0 < inc ∧ target ≤ moved) ∨ (inc < 0 ∧ moved ≤ target))
    let value := if inc = 0 then v.menv.value.toInt else if reached then clamp 0 0x3FFFFFFF target else moved
    let out := BitVec.ofInt 32 (value / 2 ^ 14)
    (s.ctrl.getLsbD 0 = false → exec (.menvupd n) s = .next { s with cmdSeq := s.cmdSeq + 1 }) ∧
    (s.ctrl.getLsbD 0 = true → exec (.menvupd n) s = .next { s with
      voices := s.voices.set n { v with
        menv := if reached then modulationReached v value v.menv.stage.toNat
          else { v.menv with value := BitVec.ofInt 32 value },
        menvOut := out, ctrl := if out = v.menvOut then v.ctrl else v.ctrl ||| 0x100 },
      status := if reached then satIf (modulationChecks v value v.menv.stage.toNat) s.status else s.status,
      cmdSeq := s.cmdSeq + 1 })

/-! ## Mixer -/

/-- MIXSMOOTH on a live voice: increments and offsets of both sides by the window rule; and the smoothing property:
the offset of a ramp reaches 0 at exactly frame W - 1 for a jump above the window, at exactly frame |d| - 1 for a
smaller one, and moves toward 0 without passing it (45_mixer.md R615, R616, R640). Rests on the model's choice of
log 11. -/
def Obligations.MixSmoothResult : Prop :=
  (∀ (s : State) (v : Voice) (n : Nat), s.voices[n]? = some v → v.status ≠ .free →
    let w : Int := s.mixWindow.toNat
    let ramp := fun d : Int =>
      if w < d.natAbs then (Int.tdiv d w, Int.tdiv d w * (1 - w))
      else if d ≠ 0 then (Int.sign d, Int.sign d - d) else (0, 0)
    let left := ramp (v.mix.leftMix.toInt - v.mix.oldLeft.toInt)
    let right := ramp (v.mix.rightMix.toInt - v.mix.oldRight.toInt)
    exec (.mixsmooth n) s = .next { s with
      voices := s.voices.set n { v with
        mix := { v.mix with
          leftInc := BitVec.ofInt 32 (narrow left.1), leftOfs := BitVec.ofInt 32 (narrow left.2),
          rightInc := BitVec.ofInt 32 (narrow right.1), rightOfs := BitVec.ofInt 32 (narrow right.2) } },
      status := satIf [left.1, left.2, right.1, right.2] s.status, cmdSeq := s.cmdSeq + 1 }) ∧
  ∀ d w : Int, 1 ≤ w → d ≠ 0 →
    let inc := (smoothRamp d w).1
    let ofs := (smoothRamp d w).2
    let frames : Int := if w < d.natAbs then w else d.natAbs
    ∀ j : Int, 0 ≤ j → j < frames →
      (ofs + j * inc = 0 ↔ j = frames - 1) ∧
      (ofs + j * inc).natAbs ≤ ofs.natAbs ∧ 0 ≤ -(ofs + j * inc) * Int.sign d

/-- MIXV that mixes nothing: of 0 frames on any live voice, a DIE voice too, it writes 0 to rd and does nothing
else; while the pre-attack delay covers the whole command the counter drops by the frame count, nothing is mixed and
no sample is consumed (45_mixer.md R605, R641). Rests on the model's choice of log 28. -/
def Obligations.PreAttackDelayWaits : Prop :=
  (∀ (s : State) (v : Voice) (rd rs1 rs2 n : Nat), s.voices[n]? = some v → v.status ≠ .free → s.reg rs2 = 0 →
    exec (.mixv rd rs1 rs2 n) s = .next { s with
      regs := s.regs.setIfInBounds rd 0, cmdSeq := s.cmdSeq + 1 }) ∧
  ∀ (s : State) (v : Voice) (rd rs1 rs2 n : Nat), s.voices[n]? = some v → v.status ≠ .free → v.status ≠ .die →
    s.reg rs2 ≠ 0 → (s.reg rs2).toNat < v.delay.toNat →
      exec (.mixv rd rs1 rs2 n) s = .next { s with
        regs := s.regs.setIfInBounds rd 0, voices := s.voices.set n { v with delay := v.delay - s.reg rs2 },
        cmdSeq := s.cmdSeq + 1 }

/-- MIXV by the static routine (SIGNAL, V_CTRL bit 6, is 0) on a live voice, after its pre-attack delay, for any
number of frames, voice filter, pan law, sends and pan delay: the voice, every word of sample RAM, rd and SAT; where
an access leaves sample RAM, all that was mixed and narrowed before it stays and the halt is recorded. And spelled
out for one frame with no filter (V_CTRL bits 5:4), no delay, no sends and no pan delay, by the pan law (bits 2:1):
the contribution is added to the slots the law names and no other byte of sample RAM changes (10_state.md R82;
45_mixer.md R600 to R607, R612, R617, R620, R641; 60_exceptions.md R804, R806). Rests on the model's choices of logs
1, 10, 11, 12 and 29. -/
def Obligations.MixStaticResult : Prop :=
  (∀ (s : State) (v : Voice) (rd rs1 rs2 n : Nat), s.voices[n]? = some v → v.status ≠ .free → v.status ≠ .die →
    v.ctrl.getLsbD 6 = false → s.reg rs2 ≠ 0 → s.sramWords ≤ 2 ^ 24 → v.delay.toNat ≤ (s.reg rs2).toNat →
    let first := (s.reg rs1).toNat + v.delay.toNat
    let cnt := (s.reg rs2).toNat - v.delay.toNat
    MixDone s rd n (staticFrames s cnt first (mixingOf s { v with delay := 0 })) (exec (.mixv rd rs1 rs2 n) s)) ∧
  ∀ (s : State) (v : Voice) (rd rs1 rs2 n : Nat),
    let pan := v.ctrl.toNat / 2 % 4
    let filt := v.ctrl.toNat / 2 ^ 4 % 4
    s.voices[n]? = some v → v.status ≠ .free → v.status ≠ .die → s.reg rs2 = 1 → v.delay = 0 →
    v.ctrl.getLsbD 6 = false → filt = 0 ∨ filt = 3 → v.sendRev = 0 → v.sendCho = 0 → v.sendDly = 0 →
    ¬(pan = 0 ∧ s.ctrl.getLsbD 1 = true ∧ 0 < v.pdly.len.toInt) → s.sramWords ≤ 2 ^ 24 →
    v.srcBase.toNat < s.sramWords → framesOk s.sramWords s.outBase (s.reg rs1).toNat 1 = true →
    let x := (s.sramWord v.srcBase.toNat).toInt
    let left := s.outBase.toNat + 2 * (s.reg rs1).toNat
    let lL := v.mix.leftMix.toInt + v.mix.leftOfs.toInt
    let lR := v.mix.rightMix.toInt + v.mix.rightOfs.toInt
    let nextL := v.mix.leftOfs.toInt + v.mix.leftInc.toInt
    let nextR := v.mix.rightOfs.toInt + v.mix.rightInc.toInt
    let rightLevel := if pan = 1 then narrow lL else narrow lR
    let cL := x * narrow lL
    let cR := x * rightLevel
    let sumL := (s.sramWord left).toInt + narrow cL
    let sumR := (s.sramWord (left + 1)).toInt + narrow cR
    ∃ t, exec (.mixv rd rs1 rs2 n) s = .next t ∧
      t = { s with
        regs := s.regs.setIfInBounds rd 0, sram := t.sram, cmdSeq := s.cmdSeq + 1,
        voices := s.voices.set n { v with
          srcBase := v.srcBase + 1,
          mix := { v.mix with
            oldLeft := BitVec.ofInt 32 (narrow lL), oldRight := BitVec.ofInt 32 (narrow lR),
            leftOfs := if v.mix.leftOfs = 0 then 0 else BitVec.ofInt 32 (narrow nextL),
            rightOfs := if v.mix.rightOfs = 0 then 0 else BitVec.ofInt 32 (narrow nextR) } },
        status := satIf ([lL, lR] ++ (if v.mix.leftOfs = 0 then [] else [nextL]) ++
          (if v.mix.rightOfs = 0 then [] else [nextR]) ++ (if pan = 3 then [] else [cL, sumL]) ++
          (if pan = 2 then [] else [cR, sumR])) s.status } ∧
      t.sramWord left = (if pan = 3 then s.sramWord left else BitVec.ofInt 32 (narrow sumL)) ∧
      t.sramWord (left + 1) = (if pan = 2 then s.sramWord (left + 1) else BitVec.ofInt 32 (narrow sumR)) ∧
      ∀ b, b < 4 * left ∨ 4 * left + 8 ≤ b → t.sramByte b = s.sramByte b

/-- MIXV by the signal routine (SIGNAL, V_CTRL bit 6, is 1) on a live voice, after its pre-attack delay: a control
update at each frame that V_CC has run out for, so once every CONTROL_RATIO mixed frames, counted across commands,
and the frames between; a voice freed by a control update leaves the rest unmixed and answers 1; where an access
leaves sample RAM, all that was done before it stays and the halt is recorded (10_state.md R82; 45_mixer.md R605,
R610, R611, R615, R617, R641; 60_exceptions.md R804, R806). Rests on the model's choices of logs 1, 10, 11, 12, 22,
28 and 29. -/
def Obligations.MixSignalResult : Prop :=
  ∀ (s : State) (v : Voice) (rd rs1 rs2 n : Nat), s.voices[n]? = some v → v.status ≠ .free → v.status ≠ .die →
    v.ctrl.getLsbD 6 = true → s.reg rs2 ≠ 0 → s.sramWords ≤ 2 ^ 24 → s.controlRatio ≠ 0 →
    v.delay.toNat ≤ (s.reg rs2).toNat →
    let first := (s.reg rs1).toNat + v.delay.toNat
    let cnt := (s.reg rs2).toNat - v.delay.toNat
    MixDone s rd n (signalFrames s cnt first 0 (mixingOf s { v with delay := 0 })) (exec (.mixv rd rs1 rs2 n) s)

/-- MIXV on a DIE voice: at most MAX_DIE_TIME frames from the level in effect, each level lower by its nth part or
1, held at 0 in full stereo and stopping the ramp below it in the other pan modes, each frame filtered, panned,
delayed and sent as ever; then the voice is freed and rd is 1; where an access leaves sample RAM, all that was done
before it stays, the voice is not freed and the halt is recorded (10_state.md R84; 45_mixer.md R601 to R607, R620,
R630, R641; 60_exceptions.md R804, R806). Rests on the model's choices of logs 1, 10, 11, 12 and 29. -/
def Obligations.DieRampResult : Prop :=
  ∀ (s : State) (v : Voice) (rd rs1 rs2 n : Nat), s.voices[n]? = some v → v.status = .die → s.reg rs2 ≠ 0 →
    s.sramWords ≤ 2 ^ 24 →
    MixDone s rd n (died s (s.reg rs2).toNat (s.reg rs1).toNat (mixingOf s v)) (exec (.mixv rd rs1 rs2 n) s)

/-- MIXV on any live voice, every routine, filter, pan law, send and pan delay: when every address it can form lies
in sample RAM it completes, changes only the voice, rd, flags and the named words, and answers 1 exactly when it
freed the voice, as it always does to a DIE voice (45_mixer.md R600, R603, R620, R630, R641). -/
def Obligations.MixCompletes : Prop :=
  ∀ (s : State) (v : Voice) (rd rs1 rs2 n : Nat), s.voices[n]? = some v → v.status ≠ .free → s.reg rs2 ≠ 0 →
    s.sramWords ≤ 2 ^ 24 → mixInRange s v (s.reg rs1).toNat (s.reg rs2).toNat = true →
    ∃ t w, exec (.mixv rd rs1 rs2 n) s = .next t ∧
      t = { s with
        regs := s.regs.setIfInBounds rd (if w.status = .free then 1 else 0), status := t.status, sram := t.sram,
        voices := s.voices.set n w, cmdSeq := s.cmdSeq + 1 } ∧
      (t.status = s.status ∨ t.status = s.status ||| 1) ∧
      (v.status = .die → w.status = .free ∧ w.died = true) ∧
      (∀ b, mixWord s v (s.reg rs1).toNat (s.reg rs2).toNat (b / 4) = false → t.sramByte b = s.sramByte b)

/-! ## Effects -/

/-- FXFREE on any slot, FXINIT on a slot without an engine, and FXINIT on one whose parameters are rejected: the
slot ends empty, empty, or bypassed, with no flag, no allocation and sample RAM as it was (46_effects.md R706, R707,
R770, R772). Rests on the model's choice of log 19. -/
def Obligations.EffectFreedOrNotBuilt : Prop :=
  ∀ (s : State) (x : Slot) (i : Nat), s.slots[i]? = some x →
    exec (.fxfree i) s = .next { s with
      slots := s.slots.set i { x with used := 0, record := .empty }, cmdSeq := s.cmdSeq + 1 } ∧
    (hasEngine x = false → exec (.fxinit i) s = .next { s with
      slots := s.slots.set i { x with used := 0, record := .empty }, cmdSeq := s.cmdSeq + 1 }) ∧
    (hasEngine x = true → engineValid x = false → exec (.fxinit i) s = .next { s with
      slots := s.slots.set i { x with used := 0, record := .bypassed }, cmdSeq := s.cmdSeq + 1 })

/-- FXINIT on a slot whose engine fits its region: the lines are laid out one after another from FX_BASE, their
words are cleared, the record is of the slot's engine with the parameters copied and every cursor, store, history
and count 0, FX_USED is the total, FX_STATE is 1, and every other byte of sample RAM is unchanged (46_effects.md
R704, R705, R712, R730, R750, R755, R770). Rests on the model's choices of logs 19 and 20. -/
def Obligations.EffectBuilt : Prop :=
  ∀ (s : State) (x : Slot) (i : Nat), s.slots[i]? = some x → hasEngine x = true → engineValid x = true →
    s.sramWords ≤ 2 ^ 24 → slotAllocates s x (engineLengths s.sampleRate.toNat x) = true →
    let lengths := engineLengths s.sampleRate.toNat x
    let total := lengths.sum
    ∃ t r, exec (.fxinit i) s = .next t ∧
      t = { s with
        sram := t.sram, cmdSeq := s.cmdSeq + 1,
        slots := s.slots.set i { x with used := BitVec.ofNat 32 total, record := r } } ∧
      r.state = 1 ∧ (recordLines r).map (fun l => l.len.toNat) = lengths ∧
      (∀ k l, (recordLines r)[k]? = some l → l.wpt = 0 ∧ l.base.toNat = x.base.toNat + (lengths.take k).sum) ∧
      (∀ l ∈ recordLines r, lineOk s.sramWords l = true ∧ l.wpt = 0 ∧ x.base.toNat ≤ l.base.toNat ∧
        l.base.toNat + l.len.toNat ≤ x.base.toNat + total) ∧
      (x.fxType = 1 → ∃ q, r = .freeverb q ∧ q.params = x.params ∧ q.cl.length = 8 ∧ q.cr.length = 8 ∧
        q.al.length = 4 ∧ q.ar.length = 4 ∧ ∀ c ∈ q.cl ++ q.cr, c.st = 0) ∧
      (x.fxType = 2 → ∃ q, r = .plate q ∧ q.params = x.params ∧ (q.pd = none ↔ x.params[9] = 0) ∧ q.lp1 = 0 ∧
        q.lp2 = 0 ∧ q.tl = 0 ∧ q.tr = 0 ∧ q.hl = 0 ∧ q.hr = 0 ∧ q.c = 0) ∧
      (x.fxType = 3 → ∃ q, r = .chorus q ∧ q.params = x.params ∧ q.hl = 0 ∧ q.hr = 0 ∧ q.c = 0) ∧
      (x.fxType = 4 → ∃ q, r = .hexa q ∧ q.params = x.params ∧ q.h = Vector.replicate 6 0 ∧ q.c = 0) ∧
      ∀ b, t.sramByte b = if 4 * x.base.toNat ≤ b ∧ b < 4 * (x.base.toNat + total) then 0 else s.sramByte b

/-- An allocation that fails its test halts with cause ALLOC: DLCFG with nothing else changed and the length in
FATAL_ADDR; FXINIT, and the lazy build of FXPROC on an empty slot, before any frame, with the slot discarded and the
total in FATAL_ADDR where 32 bits hold it (41_delayline.md R353, R360; 46_effects.md R705, R708, R770, R771;
60_exceptions.md R806 to R808). Rests on the model's choices of logs 1, 18 and 19. -/
def Obligations.AllocationFailureHalts : Prop :=
  (∀ (s : State) (d : DelayUnit) (rs1 rs2 u : Nat), s.delays[u]? = some d →
    let base := s.reg rs1
    let len := s.reg rs2
    ¬(1 ≤ len.toNat ∧ len.toNat ≤ 2 ^ 24 ∧ base.toNat + len.toNat ≤ s.sramWords) →
      exec (.dlcfg rs1 rs2 u) s = .next { s with
        status := s.status ||| 16, fatalCause := .alloc, fatalInfo := s.cmd, fatalAddr := len }) ∧
  ∀ (s : State) (x : Slot) (i : Nat), s.slots[i]? = some x → hasEngine x = true → engineValid x = true →
    slotAllocates s x (engineLengths s.sampleRate.toNat x) = false →
    let total := (engineLengths s.sampleRate.toNat x).sum
    ∃ t, exec (.fxinit i) s = .next t ∧
      t = { s with
        slots := s.slots.set i { x with used := 0, record := .empty }, status := s.status ||| 16,
        fatalCause := .alloc, fatalInfo := s.cmd, fatalAddr := t.fatalAddr } ∧
      (total < 2 ^ 32 → t.fatalAddr = BitVec.ofNat 32 total) ∧
      (x.record = .empty → ∀ rs1 rs2 : Nat, exec (.fxproc rs1 rs2 i) s = .next t)

/-- What FXINIT builds from: which tags name an engine, the validity test and the line lengths of each engine, the
allocation test, and the lengths and totals of Freeverb and of the plate at 44100 Hz with the reference parameters
(46_effects.md R701, R705, R707, R710, R711, R730, R734, R750, R755). -/
def Obligations.EngineBuildRules : Prop :=
  (∀ x : Slot, hasEngine x = true ↔ x.fxType = 1 ∨ x.fxType = 2 ∨ x.fxType = 3 ∨ x.fxType = 4) ∧
  (∀ (s : State) (x : Slot) (lengths : List Nat), slotAllocates s x lengths = true ↔
    (∀ l ∈ lengths, 1 ≤ l ∧ l ≤ 2 ^ 24) ∧ (lengths.sum : Int) ≤ x.limit.toInt ∧
      x.base.toNat + lengths.sum ≤ s.sramWords) ∧
  (∀ (x : Slot) (rate : Nat),
    let p := fun i : Fin 32 => x.params[i].toNat
    let q := fun i : Fin 32 => x.params[i].toInt
    (x.fxType = 1 →
      let line := fun t => nextPrimeGe (max 1 (t * rate * p 7 / (44100 * 65536)))
      let combs := [1116, 1188, 1277, 1356, 1422, 1491, 1557, 1617]
      let allpasses := [556, 441, 341, 225]
      (engineValid x = true ↔ p 7 ≠ 0) ∧
      engineLengths rate x = combs.map line ++ combs.map (fun t => line (t + p 8)) ++ allpasses.map line ++
        allpasses.map (fun t => line (t + p 8))) ∧
    (x.fxType = 2 →
      let sc := fun n => max 1 (n * rate / 29761)
      let swing := p 11 * rate / 29761 / 2 ^ 16 + 2
      (engineValid x = true ↔ 1 ≤ p 10 ∧ p 10 ≤ 2 ^ 24 ∧ p 9 ≤ 2 ^ 24) ∧
      engineLengths rate x = (if p 9 = 0 then [] else [p 9]) ++ [sc 142, sc 107, sc 379, sc 277, sc 672 + swing, sc 4453,
        sc 1800, sc 3720, sc 908 + swing, sc 4217, sc 2656, sc 3163]) ∧
    (x.fxType = 3 →
      let line := (p 2 + p 3) / 2 ^ 16 + 2
      (engineValid x = true ↔ 65536 ≤ p 2 ∧ 1 ≤ p 4 ∧ p 4 ≤ 2 ^ 24 ∧ p 2 + p 3 < 2 ^ 32 ∧ line ≤ 2 ^ 24) ∧
      engineLengths rate x = [line, line]) ∧
    (x.fxType = 4 →
      let delay := fun i : Nat => q 2 + (2 * (i : Int) - 5) * q 6
      let depth := fun i : Nat => q 3 + (2 * (i : Int) - 5) * q 7
      let line := fun i : Nat => (delay i + depth i) / 2 ^ 16 + 2
      (engineValid x = true ↔ 1 ≤ p 4 ∧ p 4 ≤ 2 ^ 24 ∧
        ∀ i < 6, 65536 ≤ delay i ∧ 0 ≤ depth i ∧ line i ≤ 2 ^ 24) ∧
      ∃ i < 6, (∀ j < 6, line j ≤ line i) ∧ engineLengths rate x = [(line i).toNat])) ∧
  ∀ p : FxParams,
    (paramU p 7 = 65536 → paramU p 8 = 23 → freeverbLengths 44100 p =
      [1117, 1193, 1277, 1361, 1423, 1493, 1559, 1619, 1151, 1213, 1301, 1381, 1447, 1523, 1583, 1657,
        557, 443, 347, 227, 587, 467, 367, 251] ∧ (freeverbLengths 44100 p).sum = 25544) ∧
    (paramU p 9 = 0 → paramU p 11 = 1048576 → plateLengths 44100 p =
      [210, 158, 561, 410, 1020, 6598, 2667, 5512, 1370, 6248, 3935, 4686] ∧ (plateLengths 44100 p).sum = 33375)

/-- The buffer that each FX_BUS reads: reverb, chorus and delay bus, or the output block. FXPROC on a pass-through
slot: insert mode makes no access at all; send mode adds each bus pair to the output pair and clears the bus, over
any number of frames, up to the access that halts it where one leaves sample RAM, and spelled out for one frame over
four distinct words (46_effects.md R703, R709, R771; 60_exceptions.md R804, R806). Rests on the model's choices of
logs 1, 10 and 26. -/
def Obligations.PassThroughResults : Prop :=
  (∀ s : State, inputBase s .reverb = s.busRevBase ∧ inputBase s .chorus = s.busChoBase ∧
    inputBase s .delay = s.busDlyBase ∧ inputBase s .insert = s.outBase) ∧
  ∀ (s : State) (x : Slot) (rs1 rs2 i : Nat), s.slots[i]? = some x →
    (hasEngine x = false ∨ x.record = .bypassed) →
    (x.bus = .insert → exec (.fxproc rs1 rs2 i) s = .next { s with cmdSeq := s.cmdSeq + 1 }) ∧
    (x.bus ≠ .insert → s.sramWords ≤ 2 ^ 24 →
      SceneDone s (passedSteps s x.bus (s.reg rs2).toNat (s.reg rs1).toNat (sceneOf s)) (exec (.fxproc rs1 rs2 i) s)) ∧
    (x.bus ≠ .insert → s.reg rs2 = 1 → s.sramWords ≤ 2 ^ 24 →
      let off := (s.reg rs1).toNat
      let bus := (inputBase s x.bus).toNat + 2 * off
      let out := s.outBase.toNat + 2 * off
      let sumL := (s.sramWord out).toInt + (s.sramWord bus).toInt
      let sumR := (s.sramWord (out + 1)).toInt + (s.sramWord (bus + 1)).toInt
      bus + 2 ≤ s.sramWords → out + 2 ≤ s.sramWords → (bus + 2 ≤ out ∨ out + 2 ≤ bus) →
      ∃ t, exec (.fxproc rs1 rs2 i) s = .next t ∧
        t = { s with sram := t.sram, status := satIf [sumL, sumR] s.status, cmdSeq := s.cmdSeq + 1 } ∧
        t.sramWord out = BitVec.ofInt 32 (narrow sumL) ∧ t.sramWord (out + 1) = BitVec.ofInt 32 (narrow sumR) ∧
        t.sramWord bus = 0 ∧ t.sramWord (bus + 1) = 0 ∧
        ∀ b, (b < 4 * bus ∨ 4 * bus + 8 ≤ b) → (b < 4 * out ∨ 4 * out + 8 ≤ b) → t.sramByte b = s.sramByte b)

/-- FXPROC on any slot that can run, every engine, built or built lazily: when its frames lie in sample RAM it
completes, changes only the slot's record and use, flags SAT and RANGE and the named words; on an empty slot with an
engine it is FXINIT followed by the frames (46_effects.md R703, R705, R708, R715, R770, R771). -/
def Obligations.EffectProcessingCompletes : Prop :=
  (∀ (s t : State) (x : Slot) (rs1 rs2 i : Nat), s.slots[i]? = some x → needsInit x = true →
    exec (.fxinit i) s = .next t → t.fatal = false →
      exec (.fxproc rs1 rs2 i) s = exec (.fxproc rs1 rs2 i) { t with cmdSeq := s.cmdSeq }) ∧
  ∀ (s : State) (x : Slot) (rs1 rs2 i : Nat), s.slots[i]? = some x → s.sramWords ≤ 2 ^ 24 →
    slotRunnable s x = true →
    framesOk s.sramWords (inputBase s x.bus) (s.reg rs1).toNat (s.reg rs2).toNat = true →
    framesOk s.sramWords s.outBase (s.reg rs1).toNat (s.reg rs2).toNat = true →
    ∃ t y, exec (.fxproc rs1 rs2 i) s = .next t ∧
      t = { s with
        status := t.status, sram := t.sram, slots := s.slots.set i y, cmdSeq := s.cmdSeq + 1 } ∧
      y = { x with used := y.used, record := y.record } ∧
      (∃ m : Word, t.status = s.status ||| m ∧ m &&& ~~~(5 : Word) = 0) ∧
      (∀ b, frameWord (inputBase s x.bus) (s.reg rs1).toNat (s.reg rs2).toNat (b / 4) = false →
        frameWord s.outBase (s.reg rs1).toNat (s.reg rs2).toNat (b / 4) = false → slotWord s x (b / 4) = false →
        t.sramByte b = s.sramByte b)

/-- FXPROC on a slot that holds a Freeverb: every frame's wet pair, the combs' and allpasses' cursors and stores,
all of sample RAM, the pair mixed with DRY and WET and delivered, for any number of frames, and SAT for every number
narrowed, no other flag; where an access leaves sample RAM, all that was done before it stays and the halt is
recorded (46_effects.md R702, R703, R713, R715, R771; 60_exceptions.md R801, R804, R806). Rests on the model's
choices of logs 1, 10 and 26. -/
def Obligations.FreeverbFrames : Prop :=
  ∀ (s : State) (x : Slot) (r : FreeverbRec) (rs1 rs2 i : Nat), s.slots[i]? = some x → s.sramWords ≤ 2 ^ 24 →
    hasEngine x = true → x.record = .freeverb r → slotRunnable s x = true →
      FramesDone freeverbStep r.params .freeverb s x i (s.reg rs1).toNat (s.reg rs2).toNat r
        (exec (.fxproc rs1 rs2 i) s)

/-- FXPROC on a slot that holds a plate: every frame's network and output taps, the record, all of sample RAM, the
pair mixed with DRY and WET and delivered, for any number of frames, and SAT for every number narrowed, RANGE for
every tap outside its line; where an access leaves sample RAM, all that was done before it stays and the halt is
recorded (46_effects.md R702, R703, R715, R716, R730 to R733, R771; 60_exceptions.md R801, R802, R804, R806). Rests
on the model's choices of logs 1, 10, 16, 17 and 26. -/
def Obligations.PlateFrames : Prop :=
  ∀ (s : State) (x : Slot) (r : PlateRec) (rs1 rs2 i : Nat), s.slots[i]? = some x → s.sramWords ≤ 2 ^ 24 →
    hasEngine x = true → x.record = .plate r → slotRunnable s x = true →
      FramesDone (plateStep s) r.params .plate s x i (s.reg rs1).toNat (s.reg rs2).toNat r
        (exec (.fxproc rs1 rs2 i) s)

/-- FXPROC on a slot that holds a stereo or a hexa chorus: every frame's taps and feedback, the record, all of
sample RAM, the pair mixed with DRY and WET and delivered, for any number of frames, and SAT for every number
narrowed, RANGE for every tap outside its line, which a stereo chorus as FXINIT builds it has none of over a
unipolar sine table; where an access leaves sample RAM, all that was done before it stays and the halt is recorded
(46_effects.md R702, R703, R715, R716, R750 to R752, R755, R756, R771; 60_exceptions.md R801, R802, R804, R806).
Rests on the model's choices of logs 1, 10, 17 and 26. -/
def Obligations.ChorusFrames : Prop :=
  ∀ (s : State) (x : Slot) (rs1 rs2 i : Nat), s.slots[i]? = some x → s.sramWords ≤ 2 ^ 24 →
    hasEngine x = true → slotRunnable s x = true →
      (∀ r, x.record = .chorus r →
        let p := fun k : Fin 32 => r.params[k].toNat
        let length := (p 2 + p 3) / 2 ^ 16 + 2
        let built := decide (65536 ≤ p 2 ∧ p 2 + p 3 < 2 ^ 32 ∧ r.c < p 4 ∧ r.xl.len.toNat = length ∧
          r.xr.len.toNat = length)
        FramesDone (chorusStep s) r.params .chorus s x i (s.reg rs1).toNat (s.reg rs2).toNat r
          (exec (.fxproc rs1 rs2 i) s) ∧
        (SineUnipolar s → built = true →
          ∃ t, exec (.fxproc rs1 rs2 i) s = .next t ∧ t.status &&& 15 = s.status &&& 15 ||| t.status &&& 1)) ∧
      (∀ r, x.record = .hexa r →
        FramesDone (hexaStep s) r.params .hexa s x i (s.reg rs1).toNat (s.reg rs2).toNat r
          (exec (.fxproc rs1 rs2 i) s))

/-- BUSCLR zeroes the selected buffers over the frames named, none where the signed count is 0 or below, and changes
no other byte (00_scope.md R7; 46_effects.md R773). -/
def Obligations.BusClearResult : Prop :=
  ∀ (s : State) (rs1 rs2 mask : Nat), s.sramWords ≤ 2 ^ 24 →
    let off := (s.reg rs1).toNat
    let cnt := (s.reg rs2).toInt.toNat
    let selected := [(0, s.busRevBase), (1, s.busChoBase), (2, s.busDlyBase), (3, s.outBase)].filter
      fun c => mask.testBit c.1
    (∀ c ∈ selected, framesOk s.sramWords c.2 off cnt = true) →
      ∃ t, exec (.busclr rs1 rs2 mask) s = .next t ∧ t = { s with sram := t.sram, cmdSeq := s.cmdSeq + 1 } ∧
        ∀ b, t.sramByte b = if selected.any fun c => frameWord c.2 off cnt (b / 4) then 0 else s.sramByte b
end

