-- ==== Sys2Proof/Laws/Memory.lean ====
section
/-! SUPPORT. The laws of the byte lists that hold sample RAM and table RAM: reading after writing, and the
canonical form (20_memory.md R162, R170, log 3). -/

namespace Sys2Proof.Machine

/-! ### Words and their bytes -/

theorem extract_byte (v : Word) (k i : Nat) (h : i < 8) : (v.extractLsb' k 8).getLsbD i = v.getLsbD (k + i) := by
  simp [h]

theorem wordOfBytes_getLsbD (b0 b1 b2 b3 : Byte) (i : Nat) :
    (wordOfBytes b0 b1 b2 b3).getLsbD i =
      if i < 8 then b0.getLsbD i else if i < 16 then b1.getLsbD (i - 8)
      else if i < 24 then b2.getLsbD (i - 16) else b3.getLsbD (i - 24) := by
  unfold wordOfBytes
  simp only [BitVec.getLsbD_append]
  by_cases h0 : i < 8
  · simp [h0]
  · by_cases h1 : i < 16
    · have : i - 8 < 8 := by omega
      simp [h0, h1, this]
    · by_cases h2 : i < 24
      · have e1 : ¬ i - 8 < 8 := by omega
        have e2 : i - 8 - 8 < 8 := by omega
        have e3 : i - 8 - 8 = i - 16 := by omega
        simp [h0, h1, h2, e1, e3]; omega
      · have e1 : ¬ i - 8 < 8 := by omega
        have e2 : ¬ i - 8 - 8 < 8 := by omega
        have e3 : i - 8 - 8 - 8 = i - 24 := by omega
        simp [h0, h1, h2, e1, e2, e3]

/-- A word is the word of its bytes (20_memory.md R162). -/
theorem wordOfBytes_extract (v : Word) :
    wordOfBytes (v.extractLsb' 0 8) (v.extractLsb' 8 8) (v.extractLsb' 16 8) (v.extractLsb' 24 8) = v := by
  apply BitVec.eq_of_getLsbD_eq
  intro i hi
  rw [wordOfBytes_getLsbD]
  split
  · rw [extract_byte _ _ _ (by omega)]; congr 1; omega
  · split
    · rw [extract_byte _ _ _ (by omega)]; congr 1; omega
    · split
      · rw [extract_byte _ _ _ (by omega)]; congr 1; omega
      · rw [extract_byte _ _ _ (by omega)]; congr 1; omega

/-! ### Reading after writing one byte -/

theorem memGet?_memPut (m : Memory) (a b : Nat) (v : Byte) :
    memGet? (memPut m a v) b = if b = a then some v else memGet? m b := by
  induction m with
  | nil => simp [memPut, memGet?, eq_comm]
  | cons c m ih =>
    obtain ⟨k, x⟩ := c
    unfold memPut
    split
    · simp only [memGet?, eq_comm (a := a) (b := b)]
    · split
      · rename_i h1 h2
        subst h2
        simp only [memGet?, eq_comm (a := a) (b := b)]
        split <;> rfl
      · simp only [memGet?, ih]
        split
        · rename_i h1 h2 h3
          have : b ≠ a := by omega
          simp [this]
        · rfl

theorem memByte_memPut (init : Nat → Byte) (m : Memory) (a b : Nat) (v : Byte) :
    memByte init (memPut m a v) b = if b = a then v else memByte init m b := by
  unfold memByte
  rw [memGet?_memPut]
  split <;> rfl

/-! ### Reading after writing one word -/

/-- The bytes after storing a word: its own four, little-endian, and every other byte as before
(20_memory.md R162, R170). -/
theorem memByte_memPutWord (init : Nat → Byte) (m : Memory) (a b : Nat) (v : Word) :
    memByte init (memPutWord m a v) b =
      if b / 4 = a then v.extractLsb' (8 * (b % 4)) 8 else memByte init m b := by
  unfold memPutWord
  simp only [memByte_memPut]
  by_cases h : b / 4 = a
  · have hb : b = 4 * a + b % 4 := by omega
    have hm : b % 4 = 0 ∨ b % 4 = 1 ∨ b % 4 = 2 ∨ b % 4 = 3 := by omega
    rw [if_pos h]
    rcases hm with e | e | e | e <;> rw [e] at hb ⊢ <;> subst hb
    · rw [if_neg (by omega), if_neg (by omega), if_neg (by omega), if_pos (by omega)]
    · rw [if_neg (by omega), if_neg (by omega), if_pos (by omega)]
    · rw [if_neg (by omega), if_pos (by omega)]
    · rw [if_pos (by omega)]
  · rw [if_neg h, if_neg (by omega), if_neg (by omega), if_neg (by omega), if_neg (by omega)]

theorem memByte_memPutWord_of_ne (init : Nat → Byte) (m : Memory) (a b : Nat) (v : Word)
    (h : b < 4 * a ∨ 4 * a + 4 ≤ b) : memByte init (memPutWord m a v) b = memByte init m b := by
  rw [memByte_memPutWord, if_neg (by omega)]

/-- A word reads as what was last stored to it (20_memory.md R170). -/
theorem memWord_memPutWord (init : Nat → Byte) (m : Memory) (a b : Nat) (v : Word) :
    memWord init (memPutWord m a v) b = if b = a then v else memWord init m b := by
  unfold memWord
  simp only [memByte_memPutWord]
  have e0 : 4 * b / 4 = b := by omega
  have e1 : (4 * b + 1) / 4 = b := by omega
  have e2 : (4 * b + 2) / 4 = b := by omega
  have e3 : (4 * b + 3) / 4 = b := by omega
  have f0 : 8 * (4 * b % 4) = 0 := by omega
  have f1 : 8 * ((4 * b + 1) % 4) = 8 := by omega
  have f2 : 8 * ((4 * b + 2) % 4) = 16 := by omega
  have f3 : 8 * ((4 * b + 3) % 4) = 24 := by omega
  rw [e0, e1, e2, e3, f0, f1, f2, f3]
  by_cases h : b = a
  · simp only [h, if_pos]; exact wordOfBytes_extract v
  · simp only [h, if_false]

/-- A word depends on its four bytes only. -/
theorem memWord_congr (init : Nat → Byte) (m m' : Memory) (a : Nat)
    (h : ∀ b, 4 * a ≤ b → b < 4 * a + 4 → memByte init m b = memByte init m' b) :
    memWord init m a = memWord init m' a := by
  unfold memWord
  rw [h _ (by omega) (by omega), h _ (by omega) (by omega), h _ (by omega) (by omega),
    h _ (by omega) (by omega)]

/-! ### Clearing words -/

theorem memGet?_append (m m' : Memory) (b : Nat) : memGet? (m ++ m') b = (memGet? m b).or (memGet? m' b) := by
  induction m with
  | nil => simp [memGet?]
  | cons c m ih =>
    obtain ⟨k, x⟩ := c
    simp only [List.cons_append, memGet?, ih]
    split <;> simp

theorem memGet?_filter (p : Nat → Bool) (m : Memory) (b : Nat) :
    memGet? (m.filter fun c => p c.1) b = if p b then memGet? m b else none := by
  induction m with
  | nil => simp [memGet?]
  | cons c m ih =>
    obtain ⟨k, x⟩ := c
    simp only [List.filter_cons, memGet?]
    by_cases hp : p k = true
    · simp only [hp, if_true, memGet?, ih]
      by_cases hk : k = b
      · subst hk; simp [hp]
      · simp [hk]
    · rw [if_neg hp, ih]
      by_cases hk : k = b
      · subst hk; simp [hp]
      · simp [hk]

theorem memGet?_zeroCells (lo count b : Nat) :
    memGet? (zeroCells lo count) b = if lo ≤ b ∧ b < lo + count then some 0 else none := by
  induction count generalizing lo with
  | zero => simp [zeroCells, memGet?]
  | succ n ih =>
    simp only [zeroCells, memGet?, ih]
    by_cases h : lo = b
    · simp [h]
    · simp only [h, if_false]
      congr 1
      simp only [eq_iff_iff]
      omega

/-- The bytes after clearing words: 0 in the cleared range, as before outside it (41_delayline.md R354). -/
theorem memByte_memZeroWords (init : Nat → Byte) (m : Memory) (start count b : Nat) :
    memByte init (memZeroWords m start count) b =
      if 4 * start ≤ b ∧ b < 4 * (start + count) then 0 else memByte init m b := by
  unfold memByte memZeroWords
  rw [memGet?_append, memGet?_append, memGet?_filter (fun k => decide (k < 4 * start)),
    memGet?_filter (fun k => decide (4 * (start + count) ≤ k)), memGet?_zeroCells]
  by_cases h1 : b < 4 * start
  · have h2 : ¬ (4 * (start + count) ≤ b) := by omega
    have h3 : ¬ (4 * start ≤ b) := by omega
    simp [h1, h2, h3]
  · by_cases h2 : 4 * (start + count) ≤ b
    · have h4 : ¬ (b < 4 * start + 4 * count) := by omega
      have h5 : ¬ (b < 4 * (start + count)) := by omega
      simp [h1, h2, h4, h5]
    · have h4 : b < 4 * start + 4 * count := by omega
      have h5 : b < 4 * (start + count) := by omega
      have h6 : 4 * start ≤ b := by omega
      simp [h1, h2, h4, h5, h6]

theorem memWord_memZeroWords (init : Nat → Byte) (m : Memory) (start count a : Nat) :
    memWord init (memZeroWords m start count) a =
      if start ≤ a ∧ a < start + count then 0 else memWord init m a := by
  unfold memWord
  simp only [memByte_memZeroWords]
  by_cases h : start ≤ a ∧ a < start + count
  · rw [if_pos (by omega), if_pos (by omega), if_pos (by omega), if_pos (by omega), if_pos h]
    decide
  · rw [if_neg (by omega), if_neg (by omega), if_neg (by omega), if_neg (by omega), if_neg h]

/-- Clearing in one go is clearing word by word (41_delayline.md R354, log 20). -/
theorem memByte_memZeroWords_succ (init : Nat → Byte) (m : Memory) (start count b : Nat) :
    memByte init (memZeroWords m start (count + 1)) b =
      memByte init (memPutWord (memZeroWords m start count) (start + count) 0) b := by
  rw [memByte_memPutWord, memByte_memZeroWords, memByte_memZeroWords]
  by_cases h : b / 4 = start + count
  · rw [if_pos (by omega), if_pos h]
    have hm : b % 4 = 0 ∨ b % 4 = 1 ∨ b % 4 = 2 ∨ b % 4 = 3 := by omega
    rcases hm with e | e | e | e <;> rw [e] <;> decide
  · rw [if_neg h]
    congr 1
    simp only [eq_iff_iff]
    omega

/-! ### The canonical form -/

/-- The canonical form as a statement about the addresses. -/
theorem wf_iff (m : Memory) : Memory.wf m = true ↔ (m.map Prod.fst).Pairwise (· < ·) := by
  induction m with
  | nil => simp [Memory.wf]
  | cons c m ih =>
    cases m with
    | nil => simp [Memory.wf]
    | cons d m =>
      obtain ⟨a, x⟩ := c
      obtain ⟨b, y⟩ := d
      simp only [Memory.wf, Bool.and_eq_true, decide_eq_true_eq, ih, List.map_cons]
      constructor
      · rintro ⟨h1, h2⟩
        refine List.pairwise_cons.2 ⟨?_, h2⟩
        intro k hk
        rcases List.mem_cons.1 hk with e | e
        · omega
        · have := (List.pairwise_cons.1 h2).1 k e
          omega
      · intro h
        have h' := List.pairwise_cons.1 h
        exact ⟨h'.1 b (by simp), h'.2⟩

theorem mem_memPut (m : Memory) (a k : Nat) (v : Byte) (h : k ∈ (memPut m a v).map Prod.fst) :
    k = a ∨ k ∈ m.map Prod.fst := by
  induction m with
  | nil => simp [memPut] at h; exact Or.inl h
  | cons c m ih =>
    obtain ⟨j, x⟩ := c
    unfold memPut at h
    split at h
    · simpa using h
    · split at h
      · rename_i h2
        simp only [List.map_cons, List.mem_cons] at h ⊢
        rcases h with e | e
        · exact Or.inl e
        · exact Or.inr (Or.inr e)
      · simp only [List.map_cons, List.mem_cons] at h ⊢
        rcases h with e | e
        · exact Or.inr (Or.inl e)
        · rcases ih e with e | e
          · exact Or.inl e
          · exact Or.inr (Or.inr e)

theorem memPut_wf (m : Memory) (a : Nat) (v : Byte) (h : Memory.wf m = true) : Memory.wf (memPut m a v) = true := by
  rw [wf_iff] at h ⊢
  induction m with
  | nil => simp [memPut]
  | cons c m ih =>
    obtain ⟨j, x⟩ := c
    have h' := List.pairwise_cons.1 h
    unfold memPut
    split
    · rename_i hlt
      refine List.pairwise_cons.2 ⟨?_, h⟩
      intro k hk
      rcases List.mem_cons.1 hk with e | e
      · simp only at e; omega
      · have := h'.1 k e
        simp only at this; omega
    · split
      · rename_i h2
        subst h2
        exact List.pairwise_cons.2 ⟨h'.1, h'.2⟩
      · refine List.pairwise_cons.2 ⟨?_, ih h'.2⟩
        intro k hk
        rcases mem_memPut m a k v hk with e | e
        · simp only; omega
        · exact h'.1 k e

theorem memPutWord_wf (m : Memory) (a : Nat) (v : Word) (h : Memory.wf m = true) :
    Memory.wf (memPutWord m a v) = true :=
  memPut_wf _ _ _ (memPut_wf _ _ _ (memPut_wf _ _ _ (memPut_wf _ _ _ h)))

theorem zeroCells_fst (lo count : Nat) : (zeroCells lo count).map Prod.fst = List.range' lo count := by
  induction count generalizing lo with
  | zero => rfl
  | succ n ih => simp [zeroCells, ih, List.range'_succ]

theorem memZeroWords_wf (m : Memory) (start count : Nat) (h : Memory.wf m = true) :
    Memory.wf (memZeroWords m start count) = true := by
  rw [wf_iff] at h ⊢
  have hf : ∀ p : Host.Cell → Bool, ((m.filter p).map Prod.fst).Pairwise (· < ·) := fun p =>
    List.Pairwise.sublist (List.Sublist.map _ List.filter_sublist) h
  unfold memZeroWords
  rw [List.map_append, List.map_append, List.pairwise_append, List.pairwise_append, zeroCells_fst]
  refine ⟨hf _, ⟨List.pairwise_lt_range', hf _, ?_⟩, ?_⟩
  · intro a ha b hb
    rw [List.mem_range'_1] at ha
    simp only [List.mem_map, List.mem_filter, decide_eq_true_eq] at hb
    obtain ⟨c, ⟨_, hc⟩, rfl⟩ := hb
    omega
  · intro a ha b hb
    simp only [List.mem_map, List.mem_filter, decide_eq_true_eq] at ha
    obtain ⟨c, ⟨_, hc⟩, rfl⟩ := ha
    rcases List.mem_append.1 hb with e | e
    · rw [List.mem_range'_1] at e
      omega
    · simp only [List.mem_map, List.mem_filter, decide_eq_true_eq] at e
      obtain ⟨d, ⟨_, hd⟩, rfl⟩ := e
      omega

/-- Power-on memory is in canonical form. -/
theorem reset_memory_wf : Memory.wf State.reset.sram = true ∧ Memory.wf State.reset.tram = true := ⟨rfl, rfl⟩

/-! ### The two RAMs of a state -/

theorem sramByte_withSramWord (a b : Nat) (v : Word) (s : State) :
    (State.withSramWord a v s).sramByte b = if b / 4 = a then v.extractLsb' (8 * (b % 4)) 8 else s.sramByte b :=
  memByte_memPutWord _ _ _ _ _

theorem sramWord_withSramWord (a b : Nat) (v : Word) (s : State) :
    (State.withSramWord a v s).sramWord b = if b = a then v else s.sramWord b :=
  memWord_memPutWord _ _ _ _ _

end Sys2Proof.Machine
end

