-- ==== Sys2Proof/Laws/Cmd.lean ====
section
/-! SUPPORT. What each shared operation does when it runs: one equation each, and how sequences and completion
compose. Provers cite these and unfold no operation. -/

namespace Sys2Proof.Machine

/-! ### Sequencing -/

theorem bind_run {α β : Type} (c : Cmd α) (k : α → Cmd β) (s : State) :
    (c >>= k) s = match c s with
      | .ok a t => k a t
      | .error e t => .error e t := by
  show EStateM.bind c k s = _
  unfold EStateM.bind
  cases c s <;> rfl

theorem bind_of_ok {α β : Type} {c : Cmd α} {k : α → Cmd β} {s t : State} {a : α} (h : c s = .ok a t) :
    (c >>= k) s = k a t := by rw [bind_run, h]

theorem bind_of_error {α β : Type} {c : Cmd α} {k : α → Cmd β} {s t : State} {e : Fault} (h : c s = .error e t) :
    (c >>= k) s = .error e t := by rw [bind_run, h]

theorem pure_run {α : Type} (a : α) (s : State) : (pure a : Cmd α) s = .ok a s := rfl

theorem getState_run (s : State) : getState s = .ok s s := rfl

theorem update_run (f : State → State) (s : State) : update f s = .ok () (f s) := rfl

theorem readReg_run (i : Nat) (s : State) : readReg i s = .ok (s.reg i) s := rfl

theorem readRegS_run (i : Nat) (s : State) : readRegS i s = .ok (s.reg i).toInt s := rfl

theorem writeReg_run (i : Nat) (v : Word) (s : State) : writeReg i v s = .ok () (State.withReg i v s) := rfl

theorem readVoice_run (n : Nat) (s : State) : readVoice n s = .ok (s.voiceAt n) s := rfl

theorem writeVoice_run (n : Nat) (f : Voice → Voice) (s : State) :
    writeVoice n f s = .ok () (State.modifyVoice n f s) := rfl

theorem tabRead_run (a : Nat) (s : State) : tabRead a s = .ok (s.tramWord a) s := rfl

theorem ite_run {α : Type} (p : Prop) [Decidable p] (c d : Cmd α) (s : State) :
    (if p then c else d) s = if p then c s else d s := by split <;> rfl

/-! ### Flags and narrowing -/

theorem raiseFlag_run (f : Flag) (s : State) : raiseFlag f s = .ok () (s.withFlag f) := rfl

theorem raiseFlagIf_run (b : Bool) (f : Flag) (s : State) :
    raiseFlagIf b f s = .ok () (if b then s.withFlag f else s) := by
  cases b <;> rfl

/-- `sat32` answers the clamped number and sets SAT if that changed it (00_scope.md R9). -/
theorem sat32_run (v : Int) (s : State) :
    sat32 v s = .ok (sat32Value v) (if fits32 v then s else s.withFlag .sat) := by
  unfold sat32
  rw [bind_run, raiseFlagIf_run]
  cases fits32 v <;> rfl

theorem fmul_run (q : Nat) (a b : Int) (s : State) :
    fmul q a b s = .ok (sat32Value (fmulExact q a b)) (if fits32 (fmulExact q a b) then s else s.withFlag .sat) :=
  sat32_run _ _

/-- A division by zero answers its fixed quotient and sets DZ, any other narrows the exact quotient
(40_fixedpoint.md R253). -/
theorem fdiv_run (q : Nat) (a b : Int) (s : State) :
    fdiv q a b s = if b = 0 then .ok (divZeroValue a) (s.withFlag .dz)
      else .ok (sat32Value (Int.tdiv (a * 2 ^ q) b))
        (if fits32 (Int.tdiv (a * 2 ^ q) b) then s else s.withFlag .sat) := by
  unfold fdiv
  split
  · rfl
  · exact sat32_run _ _

theorem adds_run (a b : Int) (s : State) :
    adds a b s = .ok (sat32Value (a + b)) (if fits32 (a + b) then s else s.withFlag .sat) := sat32_run _ _

theorem subs_run (a b : Int) (s : State) :
    subs a b s = .ok (sat32Value (a - b)) (if fits32 (a - b) then s else s.withFlag .sat) := sat32_run _ _

theorem fits32_iff (v : Int) : fits32 v = true ↔ -2147483648 ≤ v ∧ v ≤ 2147483647 := by
  unfold fits32 minWord maxWord
  exact decide_eq_true_iff

theorem sat32Value_of_fits {v : Int} (h : fits32 v = true) : sat32Value v = v := by
  rw [fits32_iff] at h
  unfold sat32Value clampInt minWord maxWord
  rw [if_neg (by omega), if_neg (by omega)]

theorem sat32Value_bounds (v : Int) : -2147483648 ≤ sat32Value v ∧ sat32Value v ≤ 2147483647 := by
  unfold sat32Value clampInt minWord maxWord
  split
  · omega
  · split <;> omega

theorem clampInt_bounds (v lo hi : Int) (h : lo ≤ hi) : lo ≤ clampInt v lo hi ∧ clampInt v lo hi ≤ hi := by
  unfold clampInt
  split
  · omega
  · split <;> omega

theorem clampInt_of_mem {v lo hi : Int} (h : lo ≤ v ∧ v ≤ hi) : clampInt v lo hi = v := by
  unfold clampInt
  rw [if_neg (by omega), if_neg (by omega)]

theorem wordOf_toInt {v : Int} (h : -2147483648 ≤ v ∧ v ≤ 2147483647) : (wordOf v).toInt = v := by
  unfold wordOf
  rw [BitVec.toInt_ofInt]
  exact Int.bmod_eq_of_le (by omega) (by omega)

theorem wordOf_sat32Value_toInt (v : Int) : (wordOf (sat32Value v)).toInt = sat32Value v :=
  wordOf_toInt (sat32Value_bounds v)

theorem wordOf_toInt_self (w : Word) : wordOf w.toInt = w := BitVec.ofInt_toInt

theorem word_toInt_bounds (w : Word) : -2147483648 ≤ w.toInt ∧ w.toInt ≤ 2147483647 := by
  have h1 := BitVec.le_toInt w
  have h2 := BitVec.toInt_lt (x := w)
  norm_num at h1 h2
  omega

/-! ### Sample RAM -/

theorem memRead_run_of_lt {a : Word} {s : State} (h : a.toNat < s.sramWords) :
    memRead a s = .ok (s.sramWord a.toNat) s := by
  unfold memRead
  rw [if_pos h]

theorem memRead_run_of_ge {a : Word} {s : State} (h : s.sramWords ≤ a.toNat) :
    memRead a s = .error (.badAddr a) (takeFatal (.badAddr a) s) := by
  unfold memRead raiseFatal
  rw [if_neg (by omega)]

theorem memWrite_run_of_lt {a v : Word} {s : State} (h : a.toNat < s.sramWords) :
    memWrite a v s = .ok () (State.withSramWord a.toNat v s) := by
  unfold memWrite
  rw [if_pos h]

theorem memWrite_run_of_ge {a v : Word} {s : State} (h : s.sramWords ≤ a.toNat) :
    memWrite a v s = .error (.badAddr a) (takeFatal (.badAddr a) s) := by
  unfold memWrite raiseFatal
  rw [if_neg (by omega)]

/-- The saturating accumulation of 45_mixer.md R602 in range. -/
theorem memAccumulate_run_of_lt {a : Word} {c : Int} {s : State} (h : a.toNat < s.sramWords) :
    memAccumulate a c s = .ok () (State.withSramWord a.toNat
      (wordOf (sat32Value ((s.sramWord a.toNat).toInt + c)))
      (if fits32 ((s.sramWord a.toNat).toInt + c) then s else s.withFlag .sat)) := by
  unfold memAccumulate
  rw [bind_of_ok (memRead_run_of_lt h), bind_of_ok (sat32_run _ _)]
  apply memWrite_run_of_lt
  split <;> exact h

theorem memAccumulate_run_of_ge {a : Word} {c : Int} {s : State} (h : s.sramWords ≤ a.toNat) :
    memAccumulate a c s = .error (.badAddr a) (takeFatal (.badAddr a) s) := by
  unfold memAccumulate
  rw [bind_of_error (memRead_run_of_ge h)]

/-! ### Completion -/

theorem runCmd_of_ok {c : Cmd Unit} {s t : State} (h : c s = .ok () t) :
    runCmd c s = .next (completeCommand t) := by
  unfold runCmd
  rw [h]

theorem runCmd_of_error {c : Cmd Unit} {s t : State} {e : Fault} (h : c s = .error e t) : runCmd c s = .next t := by
  unfold runCmd
  rw [h]

/-- A command answers a next state, always: either it completed and the count advanced, or it raised Fatal
(60_exceptions.md R806, log 1). -/
theorem runCmd_cases (c : Cmd Unit) (s : State) :
    (∃ t, c s = .ok () t ∧ runCmd c s = .next (completeCommand t)) ∨
      (∃ e t, c s = .error e t ∧ runCmd c s = .next t) := by
  cases h : c s with
  | ok a t => exact .inl ⟨t, rfl, runCmd_of_ok h⟩
  | error e t => exact .inr ⟨e, t, rfl, runCmd_of_error h⟩

/-! ### The terms of the statements -/

theorem narrow_eq (v : Int) : Claims.narrow v = sat32Value v := by
  unfold Claims.narrow Claims.clamp sat32Value clampInt minWord maxWord
  split
  · omega
  · split <;> omega

theorem clamp_eq (lo hi v : Int) (h : lo ≤ hi) : Claims.clamp lo hi v = clampInt v lo hi := by
  unfold Claims.clamp clampInt
  split
  · omega
  · split <;> omega

theorem scaled_eq (q : Nat) (a b : Int) : Claims.scaled q a b = fmulExact q a b := by
  unfold Claims.scaled fmulExact
  exact Int.fdiv_eq_ediv_of_nonneg _ (by positivity)

/-- The state after `sat32`, as one record update of STATUS. -/
theorem afterSat_eq (v : Int) (s : State) :
    (if fits32 v then s else s.withFlag .sat) = { s with status := Claims.satIf [v] s.status } := by
  unfold Claims.satIf
  have : Claims.fitAll [v] = fits32 v := by
    unfold Claims.fitAll fits32 minWord maxWord
    simp only [List.all_cons, List.all_nil, Bool.and_true]
  rw [this]
  split <;> rfl

/-- The state after a range check, as one record update of STATUS. -/
theorem afterRange_eq (b : Bool) (s : State) :
    (if b then s.withFlag .range else s) = { s with status := Claims.rangeIf b s.status } := by
  cases b <;> rfl

/-! ### The runs in the terms of the statements -/

/-- The state after narrowing the numbers of a list (60_exceptions.md R801). -/
def State.narrowed (vs : List Int) (s : State) : State := { s with status := Claims.satIf vs s.status }

/-- The state after a range check (60_exceptions.md R802). -/
def State.ranged (outside : Bool) (s : State) : State := { s with status := Claims.rangeIf outside s.status }

theorem sat32_ok (v : Int) (s : State) : sat32 v s = .ok (Claims.narrow v) (s.narrowed [v]) := by
  rw [sat32_run, narrow_eq, afterSat_eq]
  rfl

theorem fmul_ok (q : Nat) (a b : Int) (s : State) :
    fmul q a b s = .ok (Claims.narrow (Claims.scaled q a b)) (s.narrowed [Claims.scaled q a b]) := by
  rw [scaled_eq]
  exact sat32_ok _ _

theorem adds_ok (a b : Int) (s : State) : adds a b s = .ok (Claims.narrow (a + b)) (s.narrowed [a + b]) :=
  sat32_ok _ _

theorem subs_ok (a b : Int) (s : State) : subs a b s = .ok (Claims.narrow (a - b)) (s.narrowed [a - b]) :=
  sat32_ok _ _

theorem raiseFlagIf_range_ok (b : Bool) (s : State) : raiseFlagIf b .range s = .ok () (s.ranged b) := by
  rw [raiseFlagIf_run, afterRange_eq]
  rfl

/-- The saturating accumulation of 45_mixer.md R602 in range. -/
theorem memAccumulate_ok {a : Word} {c : Int} {s : State} (h : a.toNat < s.sramWords) :
    memAccumulate a c s = .ok () (State.withSramWord a.toNat
      (wordOf (Claims.narrow ((s.sramWord a.toNat).toInt + c))) (s.narrowed [(s.sramWord a.toNat).toInt + c])) := by
  rw [memAccumulate_run_of_lt h, narrow_eq, afterSat_eq]
  rfl

theorem sramByte_withSramWord_of_outside {a b : Nat} (v : Word) (s : State) (h : b < 4 * a ∨ 4 * a + 4 ≤ b) :
    (State.withSramWord a v s).sramByte b = s.sramByte b := by
  rw [sramByte_withSramWord, if_neg (by omega)]

theorem sramWord_withSramWord_self (a : Nat) (v : Word) (s : State) : (State.withSramWord a v s).sramWord a = v := by
  rw [sramWord_withSramWord, if_pos rfl]

theorem satIf_satIf (vs ws : List Int) (st : Word) :
    Claims.satIf vs (Claims.satIf ws st) = Claims.satIf (ws ++ vs) st := by
  unfold Claims.satIf
  have : Claims.fitAll (ws ++ vs) = (Claims.fitAll ws && Claims.fitAll vs) := by
    simp [Claims.fitAll, List.all_append]
  rw [this]
  cases Claims.fitAll ws <;> cases Claims.fitAll vs <;> simp [BitVec.or_assoc]

theorem satIf_rangeIf (vs : List Int) (b : Bool) (st : Word) :
    Claims.satIf vs (Claims.rangeIf b st) = Claims.rangeIf b (Claims.satIf vs st) := by
  unfold Claims.satIf Claims.rangeIf
  cases b <;> cases Claims.fitAll vs <;> simp only [if_true, Bool.false_eq_true, if_false]
  rw [BitVec.or_assoc, BitVec.or_assoc, BitVec.or_comm (4 : Word) 1]

/-! ### Narrowed and ranged states -/

theorem State.narrowed_nil (s : State) : s.narrowed [] = s := rfl

theorem State.narrowed_narrowed (vs ws : List Int) (s : State) :
    (s.narrowed ws).narrowed vs = s.narrowed (ws ++ vs) := by
  unfold State.narrowed
  rw [satIf_satIf]

theorem State.narrowed_ranged (vs : List Int) (b : Bool) (s : State) :
    (s.ranged b).narrowed vs = (s.narrowed vs).ranged b := by
  unfold State.narrowed State.ranged
  rw [satIf_rangeIf]

theorem State.withSramWord_narrowed (a : Nat) (v : Word) (vs : List Int) (s : State) :
    (State.withSramWord a v s).narrowed vs = State.withSramWord a v (s.narrowed vs) := rfl

theorem State.ranged_ranged (b c : Bool) (s : State) : (s.ranged b).ranged c = s.ranged (b || c) := by
  cases b <;> cases c <;> simp [State.ranged, Claims.rangeIf, BitVec.or_assoc]

@[simp] theorem State.narrowed_sramWord (vs : List Int) (s : State) (a : Nat) :
    (s.narrowed vs).sramWord a = s.sramWord a := rfl
@[simp] theorem State.narrowed_tramWord (vs : List Int) (s : State) (a : Nat) :
    (s.narrowed vs).tramWord a = s.tramWord a := rfl
@[simp] theorem State.narrowed_sramByte (vs : List Int) (s : State) (a : Nat) :
    (s.narrowed vs).sramByte a = s.sramByte a := rfl
@[simp] theorem State.narrowed_reg (vs : List Int) (s : State) (a : Nat) : (s.narrowed vs).reg a = s.reg a := rfl
@[simp] theorem State.narrowed_voiceAt (vs : List Int) (s : State) (a : Nat) :
    (s.narrowed vs).voiceAt a = s.voiceAt a := rfl
@[simp] theorem State.narrowed_slotAt (vs : List Int) (s : State) (a : Nat) :
    (s.narrowed vs).slotAt a = s.slotAt a := rfl
@[simp] theorem State.ranged_sramWord (b : Bool) (s : State) (a : Nat) :
    (s.ranged b).sramWord a = s.sramWord a := rfl
@[simp] theorem State.ranged_tramWord (b : Bool) (s : State) (a : Nat) :
    (s.ranged b).tramWord a = s.tramWord a := rfl
@[simp] theorem State.ranged_sramByte (b : Bool) (s : State) (a : Nat) :
    (s.ranged b).sramByte a = s.sramByte a := rfl
@[simp] theorem State.ranged_reg (b : Bool) (s : State) (a : Nat) : (s.ranged b).reg a = s.reg a := rfl
@[simp] theorem State.ranged_slotAt (b : Bool) (s : State) (a : Nat) : (s.ranged b).slotAt a = s.slotAt a := rfl
@[simp] theorem State.narrowed_regs (vs : List Int) (s : State) : (s.narrowed vs).regs = s.regs := rfl
@[simp] theorem State.narrowed_cmdSeq (vs : List Int) (s : State) : (s.narrowed vs).cmdSeq = s.cmdSeq := rfl
@[simp] theorem State.narrowed_ctrl (vs : List Int) (s : State) : (s.narrowed vs).ctrl = s.ctrl := rfl
@[simp] theorem State.narrowed_sampleRate (vs : List Int) (s : State) : (s.narrowed vs).sampleRate = s.sampleRate := rfl
@[simp] theorem State.narrowed_controlRatio (vs : List Int) (s : State) : (s.narrowed vs).controlRatio = s.controlRatio := rfl
@[simp] theorem State.narrowed_minSustainTime (vs : List Int) (s : State) : (s.narrowed vs).minSustainTime = s.minSustainTime := rfl
@[simp] theorem State.narrowed_mixWindow (vs : List Int) (s : State) : (s.narrowed vs).mixWindow = s.mixWindow := rfl
@[simp] theorem State.narrowed_maxDieTime (vs : List Int) (s : State) : (s.narrowed vs).maxDieTime = s.maxDieTime := rfl
@[simp] theorem State.narrowed_outBase (vs : List Int) (s : State) : (s.narrowed vs).outBase = s.outBase := rfl
@[simp] theorem State.narrowed_busRevBase (vs : List Int) (s : State) : (s.narrowed vs).busRevBase = s.busRevBase := rfl
@[simp] theorem State.narrowed_busChoBase (vs : List Int) (s : State) : (s.narrowed vs).busChoBase = s.busChoBase := rfl
@[simp] theorem State.narrowed_busDlyBase (vs : List Int) (s : State) : (s.narrowed vs).busDlyBase = s.busDlyBase := rfl
@[simp] theorem State.narrowed_fatalCause (vs : List Int) (s : State) : (s.narrowed vs).fatalCause = s.fatalCause := rfl
@[simp] theorem State.narrowed_fatalInfo (vs : List Int) (s : State) : (s.narrowed vs).fatalInfo = s.fatalInfo := rfl
@[simp] theorem State.narrowed_fatalAddr (vs : List Int) (s : State) : (s.narrowed vs).fatalAddr = s.fatalAddr := rfl
@[simp] theorem State.narrowed_chState (vs : List Int) (s : State) : (s.narrowed vs).chState = s.chState := rfl
@[simp] theorem State.narrowed_voices (vs : List Int) (s : State) : (s.narrowed vs).voices = s.voices := rfl
@[simp] theorem State.narrowed_delays (vs : List Int) (s : State) : (s.narrowed vs).delays = s.delays := rfl
@[simp] theorem State.narrowed_lfos (vs : List Int) (s : State) : (s.narrowed vs).lfos = s.lfos := rfl
@[simp] theorem State.narrowed_filters (vs : List Int) (s : State) : (s.narrowed vs).filters = s.filters := rfl
@[simp] theorem State.narrowed_slots (vs : List Int) (s : State) : (s.narrowed vs).slots = s.slots := rfl
@[simp] theorem State.narrowed_sramWords (vs : List Int) (s : State) : (s.narrowed vs).sramWords = s.sramWords := rfl
@[simp] theorem State.narrowed_sram (vs : List Int) (s : State) : (s.narrowed vs).sram = s.sram := rfl
@[simp] theorem State.narrowed_tram (vs : List Int) (s : State) : (s.narrowed vs).tram = s.tram := rfl
@[simp] theorem State.narrowed_cmd (vs : List Int) (s : State) : (s.narrowed vs).cmd = s.cmd := rfl
@[simp] theorem State.narrowed_port (vs : List Int) (s : State) : (s.narrowed vs).port = s.port := rfl
@[simp] theorem State.narrowed_hostData (vs : List Int) (s : State) : (s.narrowed vs).hostData = s.hostData := rfl
@[simp] theorem State.narrowed_freeCount (vs : List Int) (s : State) : (s.narrowed vs).freeCount = s.freeCount := rfl
@[simp] theorem State.ranged_regs (b : Bool) (s : State) : (s.ranged b).regs = s.regs := rfl
@[simp] theorem State.ranged_cmdSeq (b : Bool) (s : State) : (s.ranged b).cmdSeq = s.cmdSeq := rfl
@[simp] theorem State.ranged_ctrl (b : Bool) (s : State) : (s.ranged b).ctrl = s.ctrl := rfl
@[simp] theorem State.ranged_sampleRate (b : Bool) (s : State) : (s.ranged b).sampleRate = s.sampleRate := rfl
@[simp] theorem State.ranged_controlRatio (b : Bool) (s : State) : (s.ranged b).controlRatio = s.controlRatio := rfl
@[simp] theorem State.ranged_minSustainTime (b : Bool) (s : State) : (s.ranged b).minSustainTime = s.minSustainTime := rfl
@[simp] theorem State.ranged_mixWindow (b : Bool) (s : State) : (s.ranged b).mixWindow = s.mixWindow := rfl
@[simp] theorem State.ranged_maxDieTime (b : Bool) (s : State) : (s.ranged b).maxDieTime = s.maxDieTime := rfl
@[simp] theorem State.ranged_outBase (b : Bool) (s : State) : (s.ranged b).outBase = s.outBase := rfl
@[simp] theorem State.ranged_busRevBase (b : Bool) (s : State) : (s.ranged b).busRevBase = s.busRevBase := rfl
@[simp] theorem State.ranged_busChoBase (b : Bool) (s : State) : (s.ranged b).busChoBase = s.busChoBase := rfl
@[simp] theorem State.ranged_busDlyBase (b : Bool) (s : State) : (s.ranged b).busDlyBase = s.busDlyBase := rfl
@[simp] theorem State.ranged_fatalCause (b : Bool) (s : State) : (s.ranged b).fatalCause = s.fatalCause := rfl
@[simp] theorem State.ranged_fatalInfo (b : Bool) (s : State) : (s.ranged b).fatalInfo = s.fatalInfo := rfl
@[simp] theorem State.ranged_fatalAddr (b : Bool) (s : State) : (s.ranged b).fatalAddr = s.fatalAddr := rfl
@[simp] theorem State.ranged_chState (b : Bool) (s : State) : (s.ranged b).chState = s.chState := rfl
@[simp] theorem State.ranged_voices (b : Bool) (s : State) : (s.ranged b).voices = s.voices := rfl
@[simp] theorem State.ranged_delays (b : Bool) (s : State) : (s.ranged b).delays = s.delays := rfl
@[simp] theorem State.ranged_lfos (b : Bool) (s : State) : (s.ranged b).lfos = s.lfos := rfl
@[simp] theorem State.ranged_filters (b : Bool) (s : State) : (s.ranged b).filters = s.filters := rfl
@[simp] theorem State.ranged_slots (b : Bool) (s : State) : (s.ranged b).slots = s.slots := rfl
@[simp] theorem State.ranged_sramWords (b : Bool) (s : State) : (s.ranged b).sramWords = s.sramWords := rfl
@[simp] theorem State.ranged_sram (b : Bool) (s : State) : (s.ranged b).sram = s.sram := rfl
@[simp] theorem State.ranged_tram (b : Bool) (s : State) : (s.ranged b).tram = s.tram := rfl
@[simp] theorem State.ranged_cmd (b : Bool) (s : State) : (s.ranged b).cmd = s.cmd := rfl
@[simp] theorem State.ranged_port (b : Bool) (s : State) : (s.ranged b).port = s.port := rfl
@[simp] theorem State.ranged_hostData (b : Bool) (s : State) : (s.ranged b).hostData = s.hostData := rfl
@[simp] theorem State.ranged_freeCount (b : Bool) (s : State) : (s.ranged b).freeCount = s.freeCount := rfl
@[simp] theorem State.narrowed_status (vs : List Int) (s : State) :
    (s.narrowed vs).status = Claims.satIf vs s.status := rfl
@[simp] theorem State.ranged_status (b : Bool) (s : State) :
    (s.ranged b).status = Claims.rangeIf b s.status := rfl

end Sys2Proof.Machine
end

