-- ==== Sys2Proof/Laws/VoiceCmd.lean ====
section
/-! SUPPORT. Commands on one voice: the state is kept in the form "voice `n` is `w`, the rest is `s`", and each shared
operation says what becomes of `w` and of the rest. -/

namespace Sys2Proof.Machine

open Sys2Proof.Claims

/-- The state with voice `n` replaced. -/
def State.setVoice (n : Nat) (w : Voice) (s : State) : State := { s with voices := s.voices.set n w }

theorem State.setVoice_self {s : State} {n : Nat} {v : Voice} (h : s.voices[n]? = some v) : s.setVoice n v = s := by
  unfold State.setVoice
  obtain ⟨hn, hv⟩ := List.getElem?_eq_some_iff.1 h
  rw [← hv, List.set_getElem_self]

theorem State.voiceAt_setVoice {s : State} {n : Nat} (w : Voice) (h : n < s.voices.length) :
    (s.setVoice n w).voiceAt n = w := by
  unfold State.voiceAt State.setVoice
  rw [List.getElem?_set_self h]
  rfl

theorem State.setVoice_setVoice (n : Nat) (w w' : Voice) (s : State) :
    (s.setVoice n w).setVoice n w' = s.setVoice n w' := by
  unfold State.setVoice
  rw [List.set_set]

theorem State.modifyVoice_setVoice {s : State} {n : Nat} (w : Voice) (f : Voice → Voice) (h : n < s.voices.length) :
    State.modifyVoice n f (s.setVoice n w) = s.setVoice n (f w) := by
  unfold State.modifyVoice State.setVoice
  rw [List.modify_eq_set_getElem?, List.getElem?_set_self h]
  simp

theorem readVoice_ok {s : State} {n : Nat} (w : Voice) (h : n < s.voices.length) :
    readVoice n (s.setVoice n w) = .ok w (s.setVoice n w) := by
  rw [readVoice_run, State.voiceAt_setVoice w h]

theorem writeVoice_ok {s : State} {n : Nat} (w : Voice) (f : Voice → Voice) (h : n < s.voices.length) :
    writeVoice n f (s.setVoice n w) = .ok () (s.setVoice n (f w)) := by
  rw [writeVoice_run, State.modifyVoice_setVoice w f h]

theorem State.narrowed_setVoice (n : Nat) (w : Voice) (vs : List Int) (s : State) :
    (s.setVoice n w).narrowed vs = (s.narrowed vs).setVoice n w := rfl

theorem State.withSramWord_setVoice (n : Nat) (w : Voice) (a : Nat) (x : Word) (s : State) :
    State.withSramWord a x (s.setVoice n w) = (State.withSramWord a x s).setVoice n w := rfl

theorem State.voices_length_setVoice (n : Nat) (w : Voice) (s : State) :
    (s.setVoice n w).voices.length = s.voices.length := List.length_set

/-- A live voice runs the body of its command. -/
theorem withVoice_ok {s : State} {n : Nat} {v : Voice} {onFree body : Cmd Unit} (h : s.voices[n]? = some v)
    (hf : v.status ≠ .free) : withVoice n onFree body s = body s := by
  unfold withVoice
  rw [bind_of_ok (getState_run _), h]
  show (if _ then _ else _ : Cmd Unit) s = _
  rw [if_neg hf]

/-- A FREE voice has only the command's effect on FREE voices. -/
theorem withVoice_free {s : State} {n : Nat} {v : Voice} {onFree body : Cmd Unit} (h : s.voices[n]? = some v)
    (hf : v.status = .free) : withVoice n onFree body s = onFree s := by
  unfold withVoice
  rw [bind_of_ok (getState_run _), h]
  show (if _ then _ else _ : Cmd Unit) s = _
  rw [if_pos hf]

theorem withVoice_missing {s : State} {n : Nat} {onFree body : Cmd Unit} (h : s.voices.length ≤ n) :
    withVoice n onFree body s = .ok () (s.withFlag .range) := by
  unfold withVoice
  rw [bind_of_ok (getState_run _), List.getElem?_eq_none h]
  rfl

theorem freeVoice_ok {s : State} {n : Nat} (w : Voice) (h : n < s.voices.length) :
    freeVoice n (s.setVoice n w) = .ok true (s.setVoice n w.freed) := by
  unfold freeVoice
  rw [bind_of_ok (writeVoice_ok w _ h)]
  rfl

end Sys2Proof.Machine
end

