-- ==== Sys2Proof/Laws/Does.lean ====
section
/-! SUPPORT. Triples for commands on one voice: from a voice that meets a precondition the command completes, answers
with a postcondition, changes nothing but the voice, sample RAM and SAT, and moves sample RAM as allowed. -/

namespace Sys2Proof.Machine

open Sys2Proof.Claims

/-- The state `s` with another sample RAM, the numbers of a list narrowed and voice `n` replaced. -/
def voiceState (s : State) (n : Nat) (m : Memory) (vs : List Int) (w : Voice) : State :=
  (State.narrowed vs { s with sram := m }).setVoice n w

/-- The triple. `M` says which sample RAMs a command may leave behind. -/
def Does (s : State) (n : Nat) (M : Memory → Memory → Prop) {α : Type} (P : Voice → Prop) (c : Cmd α)
    (Q : Voice → α → Voice → Prop) : Prop :=
  ∀ m vs w, P w → ∃ a m' vs' w', c (voiceState s n m vs w) = .ok a (voiceState s n m' vs' w') ∧ Q w a w' ∧ M m m'

/-- What a relation between sample RAMs must satisfy to be used in a triple. -/
structure MemStep (M : Memory → Memory → Prop) : Prop where
  refl : ∀ m, M m m
  trans : ∀ {a b c}, M a b → M b c → M a c

theorem memStep_eq : MemStep (fun m m' : Memory => m' = m) :=
  ⟨fun _ => rfl, fun h h' => h'.trans h⟩

/-- Sample RAM may change inside a set of words only. -/
def Outside (A : Nat → Bool) (m m' : Memory) : Prop :=
  ∀ b, A (b / 4) = false → memByte Config.sramInit m' b = memByte Config.sramInit m b

theorem memStep_outside (A : Nat → Bool) : MemStep (Outside A) :=
  ⟨fun _ _ _ => rfl, fun h h' b hb => (h' b hb).trans (h b hb)⟩

theorem outside_memPutWord {A : Nat → Bool} {m : Memory} {a : Nat} (v : Word) (h : A a = true) :
    Outside A m (memPutWord m a v) := by
  intro b hb
  rw [memByte_memPutWord, if_neg]
  rintro rfl
  rw [h] at hb
  cases hb

variable {s : State} {n : Nat} {M : Memory → Memory → Prop} {α β : Type}

theorem does_mono {P P' : Voice → Prop} {c : Cmd α} {Q Q' : Voice → α → Voice → Prop} (h : Does s n M P c Q)
    (hp : ∀ w, P' w → P w) (hq : ∀ w a w', P' w → Q w a w' → Q' w a w') : Does s n M P' c Q' := by
  intro m vs w hw
  obtain ⟨a, m', vs', w', e, q, r⟩ := h m vs w (hp w hw)
  exact ⟨a, m', vs', w', e, hq w a w' hw q, r⟩

theorem does_pure (hM : MemStep M) {P : Voice → Prop} (a : α) {Q : Voice → α → Voice → Prop} (h : ∀ w, P w → Q w a w) :
    Does s n M P (pure a) Q :=
  fun m vs w hw => ⟨a, m, vs, w, rfl, h w hw, hM.refl m⟩

theorem does_bind (hM : MemStep M) {P : Voice → Prop} {c : Cmd α} {k : α → Cmd β} {Q : Voice → α → Voice → Prop}
    {R : Voice → β → Voice → Prop} (hc : Does s n M P c Q)
    (hk : ∀ w a, P w → Does s n M (Q w a) (k a) fun _ b w' => R w b w') : Does s n M P (c >>= k) R := by
  intro m vs w hw
  obtain ⟨a, m1, vs1, w1, e1, q1, r1⟩ := hc m vs w hw
  obtain ⟨b, m2, vs2, w2, e2, q2, r2⟩ := hk w a hw m1 vs1 w1 q1
  exact ⟨b, m2, vs2, w2, by rw [bind_of_ok e1, e2], q2, hM.trans r1 r2⟩

theorem does_ite {p : Prop} [Decidable p] {P : Voice → Prop} {c d : Cmd α} {Q : Voice → α → Voice → Prop}
    (hc : p → Does s n M P c Q) (hd : ¬p → Does s n M P d Q) : Does s n M P (if p then c else d) Q := by
  split
  · exact hc ‹_›
  · exact hd ‹_›

/-- A command that reads or narrows: it answers a value and changes no more than SAT. -/
def Answers (c : Cmd α) (a : State → α) (vs : List Int) : Prop := ∀ t, c t = .ok (a t) (t.narrowed vs)

theorem voiceState_narrowed (s : State) (n : Nat) (m : Memory) (vs ws : List Int) (w : Voice) :
    (voiceState s n m vs w).narrowed ws = voiceState s n m (vs ++ ws) w := by
  unfold voiceState
  rw [State.narrowed_setVoice, State.narrowed_narrowed]

theorem does_answers (hM : MemStep M) {P : Voice → Prop} {c : Cmd α} {a : State → α} {vs : List Int}
    (h : Answers c a vs) {Q : Voice → α → Voice → Prop}
    (hq : ∀ w m ws, P w → Q w (a (voiceState s n m ws w)) w) : Does s n M P c Q := by
  intro m ws w hw
  exact ⟨_, m, ws ++ vs, w, by rw [h, voiceState_narrowed], hq w m ws hw, hM.refl m⟩

theorem answers_sat32 (v : Int) : Answers (sat32 v) (fun _ => narrow v) [v] := sat32_ok v

theorem answers_fmul (q : Nat) (a b : Int) : Answers (fmul q a b) (fun _ => narrow (scaled q a b)) [scaled q a b] :=
  fmul_ok q a b

theorem answers_tabRead (a : Nat) : Answers (tabRead a) (fun t => t.tramWord a) [] := fun _ => rfl

theorem answers_getState : Answers getState (fun t => t) [] := fun _ => rfl

theorem does_sat32 (hM : MemStep M) {P : Voice → Prop} (v : Int) {Q : Voice → Int → Voice → Prop}
    (hq : ∀ w, P w → Q w (narrow v) w) : Does s n M P (sat32 v) Q :=
  does_answers hM (answers_sat32 v) fun w _ _ => hq w

theorem does_fmul (hM : MemStep M) {P : Voice → Prop} (q : Nat) (a b : Int) {Q : Voice → Int → Voice → Prop}
    (hq : ∀ w, P w → Q w (narrow (scaled q a b)) w) : Does s n M P (fmul q a b) Q :=
  does_answers hM (answers_fmul q a b) fun w _ _ => hq w

theorem does_tabRead (hM : MemStep M) {P : Voice → Prop} (a : Nat) {Q : Voice → Word → Voice → Prop}
    (hq : ∀ w, P w → Q w (s.tramWord a) w) : Does s n M P (tabRead a) Q :=
  does_answers hM (answers_tabRead a) fun w _ _ => hq w

theorem does_getState (hM : MemStep M) {P : Voice → Prop} {Q : Voice → State → Voice → Prop}
    (hq : ∀ w m ws, P w → Q w (voiceState s n m ws w) w) : Does s n M P getState Q :=
  does_answers hM answers_getState hq

theorem voiceState_length (s : State) (n : Nat) (m : Memory) (vs : List Int) (w : Voice) :
    (voiceState s n m vs w).voices.length = s.voices.length := List.length_set

theorem does_readVoice (hM : MemStep M) (hn : n < s.voices.length) {P : Voice → Prop} {Q : Voice → Voice → Voice → Prop}
    (hq : ∀ w, P w → Q w w w) : Does s n M P (readVoice n) Q :=
  fun m vs w hw => ⟨w, m, vs, w, readVoice_ok (s := State.narrowed vs { s with sram := m }) w hn, hq w hw, hM.refl m⟩

theorem does_writeVoice (hM : MemStep M) (hn : n < s.voices.length) {P : Voice → Prop} (f : Voice → Voice)
    {Q : Voice → Unit → Voice → Prop} (hq : ∀ w, P w → Q w () (f w)) : Does s n M P (writeVoice n f) Q :=
  fun m vs w hw =>
    ⟨(), m, vs, f w, writeVoice_ok (s := State.narrowed vs { s with sram := m }) w f hn, hq w hw, hM.refl m⟩

theorem does_memRead (hM : MemStep M) {P : Voice → Prop} (a : Word) {Q : Voice → Word → Voice → Prop}
    (ha : a.toNat < s.sramWords) (hq : ∀ w x, P w → Q w x w) : Does s n M P (memRead a) Q :=
  fun m vs w hw => ⟨_, m, vs, w, memRead_run_of_lt (s := voiceState s n m vs w) ha, hq w _ hw, hM.refl m⟩

theorem does_memWrite {A : Nat → Bool} {P : Voice → Prop} (a v : Word) {Q : Voice → Unit → Voice → Prop}
    (ha : a.toNat < s.sramWords) (hA : A a.toNat = true) (hq : ∀ w, P w → Q w () w) :
    Does s n (Outside A) P (memWrite a v) Q :=
  fun m vs w hw => ⟨(), memPutWord m a.toNat v, vs, w, memWrite_run_of_lt (s := voiceState s n m vs w) ha, hq w hw,
    outside_memPutWord v hA⟩

theorem does_memAccumulate {A : Nat → Bool} {P : Voice → Prop} (a : Word) (c : Int) {Q : Voice → Unit → Voice → Prop}
    (ha : a.toNat < s.sramWords) (hA : A a.toNat = true) (hq : ∀ w, P w → Q w () w) :
    Does s n (Outside A) P (memAccumulate a c) Q := by
  unfold memAccumulate
  refine does_bind (memStep_outside A) (Q := fun w _ w' => w' = w) (does_memRead (memStep_outside A) a ha fun _ _ _ => rfl) ?_
  intro w x hw
  refine does_bind (memStep_outside A) (Q := fun _ _ w' => w' = w)
    (does_sat32 (memStep_outside A) _ fun _ h => h) ?_
  intro w1 y h1
  refine does_memWrite a _ ha hA ?_
  rintro w2 rfl
  exact hq _ hw

/-- A triple read back at the state itself. -/
theorem Does.at_state {P : Voice → Prop} {c : Cmd α} {Q : Voice → α → Voice → Prop} (h : Does s n M P c Q)
    {v : Voice} (hv : s.voices[n]? = some v) (hp : P v) :
    ∃ a m vs w, c s = .ok a (voiceState s n m vs w) ∧ Q v a w ∧ M s.sram m := by
  obtain ⟨a, m', vs', w', e, q, r⟩ := h s.sram [] v hp
  have e0 : voiceState s n s.sram [] v = s := State.setVoice_self hv
  rw [e0] at e
  exact ⟨a, m', vs', w', e, q, r⟩

end Sys2Proof.Machine
end

