-- ==== Sys2Proof/Laws/Encoding.lean ====
section
/-! SUPPORT. The fields of an encoded word are the fields it was encoded from. -/

namespace Sys2Proof

variable {op rd rs1 rs2 imm : Nat}

theorem encodeR_toNat (h0 : op < 64) (h1 : rd < 16) (h2 : rs1 < 16) (h3 : rs2 < 16) (h4 : imm < 2 ^ 14) :
    (encodeR op rd rs1 rs2 imm).toNat = op * 2 ^ 26 + rd * 2 ^ 22 + rs1 * 2 ^ 18 + rs2 * 2 ^ 14 + imm := by
  unfold encodeR
  rw [BitVec.toNat_ofNat]
  omega

theorem fieldOp_encodeR (h0 : op < 64) (h1 : rd < 16) (h2 : rs1 < 16) (h3 : rs2 < 16) (h4 : imm < 2 ^ 14) :
    fieldOp (encodeR op rd rs1 rs2 imm) = op := by
  unfold fieldOp
  rw [encodeR_toNat h0 h1 h2 h3 h4]
  omega

theorem fieldRd_encodeR (h0 : op < 64) (h1 : rd < 16) (h2 : rs1 < 16) (h3 : rs2 < 16) (h4 : imm < 2 ^ 14) :
    fieldRd (encodeR op rd rs1 rs2 imm) = rd := by
  unfold fieldRd
  rw [encodeR_toNat h0 h1 h2 h3 h4]
  omega

theorem fieldRs1_encodeR (h0 : op < 64) (h1 : rd < 16) (h2 : rs1 < 16) (h3 : rs2 < 16) (h4 : imm < 2 ^ 14) :
    fieldRs1 (encodeR op rd rs1 rs2 imm) = rs1 := by
  unfold fieldRs1
  rw [encodeR_toNat h0 h1 h2 h3 h4]
  omega

theorem fieldRs2_encodeR (h0 : op < 64) (h1 : rd < 16) (h2 : rs1 < 16) (h3 : rs2 < 16) (h4 : imm < 2 ^ 14) :
    fieldRs2 (encodeR op rd rs1 rs2 imm) = rs2 := by
  unfold fieldRs2
  rw [encodeR_toNat h0 h1 h2 h3 h4]
  omega

theorem fieldImm_encodeR (h0 : op < 64) (h1 : rd < 16) (h2 : rs1 < 16) (h3 : rs2 < 16) (h4 : imm < 2 ^ 14) :
    fieldImm (encodeR op rd rs1 rs2 imm) = imm := by
  unfold fieldImm
  rw [encodeR_toNat h0 h1 h2 h3 h4]
  omega

/-- The fields of a word are in range, and the word is made of them (30_encoding.md R201). -/
theorem word_fields (w : Word) : fieldOp w < 64 ∧ fieldRd w < 16 ∧ fieldRs1 w < 16 ∧ fieldRs2 w < 16 ∧
    fieldImm w < 2 ^ 14 ∧ fieldImm22 w < 2 ^ 22 ∧
    w.toNat = fieldOp w * 2 ^ 26 + fieldRd w * 2 ^ 22 + fieldRs1 w * 2 ^ 18 + fieldRs2 w * 2 ^ 14 + fieldImm w ∧
    w.toNat = fieldOp w * 2 ^ 26 + fieldRd w * 2 ^ 22 + fieldImm22 w := by
  have := w.isLt
  unfold fieldOp fieldRd fieldRs1 fieldRs2 fieldImm fieldImm22
  omega

end Sys2Proof
end

