-- ==== Sys2Proof/Laws/Line.lean ====
section
/-! SUPPORT. What the steps on an allocated circular buffer do when they run: addresses, taps, pushes and the filter
steps built on them, in the terms of the statements. -/

namespace Sys2Proof.Machine

open Sys2Proof.Claims

/-! ### Addresses -/

/-- What `lineOk` says, in arithmetic. -/
theorem lineOk_iff {words : Nat} {l : Line} : lineOk words l = true ↔
    1 ≤ l.len.toNat ∧ l.len.toNat ≤ 2 ^ 24 ∧ l.base.toNat + l.len.toNat ≤ words ∧ l.wpt.toNat < l.len.toNat := by
  unfold lineOk
  exact decide_eq_true_iff

theorem lineCursor_toNat {words : Nat} {l : Line} (h : lineOk words l = true) (hw : words ≤ 2 ^ 24) :
    (lineCursor l).toNat = l.base.toNat + l.wpt.toNat := by
  rw [lineOk_iff] at h
  unfold lineCursor
  rw [BitVec.toNat_add]
  omega

theorem lineCursor_lt {words : Nat} {l : Line} (h : lineOk words l = true) (hw : words ≤ 2 ^ 24) :
    (lineCursor l).toNat < words := by
  rw [lineCursor_toNat h hw]
  rw [lineOk_iff] at h
  omega

theorem lineAdvance_eq (l : Line) : lineAdvance l = advanced l := rfl

theorem advanced_wpt {words : Nat} {l : Line} (h : lineOk words l = true) :
    (advanced l).wpt.toNat = (l.wpt.toNat + 1) % l.len.toNat := by
  rw [lineOk_iff] at h
  unfold advanced
  rw [BitVec.toNat_ofNat]
  have := Nat.mod_lt (l.wpt.toNat + 1) (show l.len.toNat > 0 by omega)
  omega

/-- A cursor step keeps a line allocated. -/
theorem advanced_ok {words : Nat} {l : Line} (h : lineOk words l = true) : lineOk words (advanced l) = true := by
  have hw := advanced_wpt h
  rw [lineOk_iff] at h ⊢
  refine ⟨h.1, h.2.1, h.2.2.1, ?_⟩
  rw [hw]
  exact Nat.mod_lt _ h.1

/-- The tap address of 41_delayline.md R351 is the word the statements name. -/
theorem tapAddress_toNat {words : Nat} {l : Line} {d : Nat} (h : lineOk words l = true) (hw : words ≤ 2 ^ 24)
    (hd : 1 ≤ d ∧ d ≤ l.len.toNat) : (tapAddress l d).toNat = tapAt l d := by
  rw [lineOk_iff] at h
  have hlt := Nat.mod_lt (l.wpt.toNat + l.len.toNat - d) (show l.len.toNat > 0 by omega)
  unfold tapAddress tapAt
  have e : (((l.wpt.toNat : Int) - (d : Int)) % (l.len.toNat : Int)).toNat
      = (l.wpt.toNat + l.len.toNat - d) % l.len.toNat := by
    have e1 : ((l.wpt.toNat : Int) - d) % (l.len.toNat : Int)
        = ((l.wpt.toNat + l.len.toNat - d : Nat) : Int) % (l.len.toNat : Int) := by
      rw [show ((l.wpt.toNat + l.len.toNat - d : Nat) : Int) = (l.wpt.toNat : Int) - d + l.len.toNat by omega,
        Int.add_emod_right]
    rw [e1]
    omega
  rw [e, BitVec.toNat_add, BitVec.toNat_ofNat]
  omega

theorem tapAt_lt {words : Nat} {l : Line} (k : Int) (h : lineOk words l = true) :
    l.base.toNat ≤ tapAt l k ∧ tapAt l k < l.base.toNat + l.len.toNat ∧ tapAt l k < words := by
  rw [lineOk_iff] at h
  unfold tapAt
  have h1 := Int.emod_nonneg ((l.wpt.toNat : Int) - k) (show (l.len.toNat : Int) ≠ 0 by omega)
  have h2 := Int.emod_lt_of_pos ((l.wpt.toNat : Int) - k) (show (0 : Int) < l.len.toNat by omega)
  omega

/-! ### Runs -/

/-- Reading at the cursor. -/
theorem memRead_cursor {s : State} {l : Line} (h : lineOk s.sramWords l = true) (hw : s.sramWords ≤ 2 ^ 24) :
    memRead (lineCursor l) s = .ok (s.sramWord (lineCursor l).toNat) s :=
  memRead_run_of_lt (lineCursor_lt h hw)

/-- A push stores at the cursor and advances it (41_delayline.md R350). -/
theorem linePush_ok {s : State} {l : Line} (x : Int) (h : lineOk s.sramWords l = true) (hw : s.sramWords ≤ 2 ^ 24) :
    linePush l x s = .ok (advanced l) (State.withSramWord (lineCursor l).toNat (wordOf x) s) := by
  unfold linePush
  rw [bind_of_ok (memWrite_run_of_lt (lineCursor_lt h hw))]
  rfl

/-- A tap read, clamped with RANGE (41_delayline.md R351). -/
theorem lineTap_ok {s : State} {l : Line} (d : Int) (h : lineOk s.sramWords l = true) (hw : s.sramWords ≤ 2 ^ 24) :
    lineTap l d s = .ok (tapSample s l (clamp 1 l.len.toNat d))
      (s.ranged (decide (¬(1 ≤ d ∧ d ≤ l.len.toNat)))) := by
  have hl := lineOk_iff.1 h
  have hc := clampInt_bounds d 1 l.len.toNat (by omega)
  have hb : decide (clampInt d 1 l.len.toNat ≠ d) = decide (¬(1 ≤ d ∧ d ≤ l.len.toNat)) := by
    apply decide_eq_decide.2
    constructor
    · exact fun hne hin => hne (clampInt_of_mem hin)
    · intro hout he
      rw [he] at hc
      exact hout hc
  unfold lineTap
  show (raiseFlagIf (decide (clampInt d 1 l.len.toNat ≠ d)) .range >>= fun _ => _) s = _
  rw [bind_of_ok (raiseFlagIf_range_ok _ _), hb]
  have ha : (tapAddress l (clampInt d 1 l.len.toNat).toNat).toNat = tapAt l (clamp 1 l.len.toNat d) := by
    rw [tapAddress_toNat h hw (by omega), clamp_eq _ _ _ (by omega),
      show ((clampInt d 1 l.len.toNat).toNat : Int) = clampInt d 1 l.len.toNat by omega]
  rw [bind_of_ok (memRead_run_of_lt (by rw [ha]; exact (tapAt_lt _ h).2.2)), ha]
  rfl

/-- The effect line step: the oldest sample out, `x` in (46_effects.md R715). -/
theorem lineDelay_ok {s : State} {l : Line} (x : Int) (h : lineOk s.sramWords l = true) (hw : s.sramWords ≤ 2 ^ 24) :
    lineDelay l x s = .ok ((s.sramWord (lineCursor l).toNat).toInt, advanced l)
      (State.withSramWord (lineCursor l).toNat (wordOf x) s) := by
  unfold lineDelay
  rw [bind_of_ok (memRead_cursor h hw), bind_of_ok (linePush_ok x h hw)]
  rfl

/-- The one-pole low-pass (46_effects.md R715). -/
theorem lowPass_ok (st x damp : Int) (s : State) :
    let d := clamp 0 (2 ^ 24) damp
    let p := scaled 24 x (2 ^ 24 - d)
    let q := scaled 24 st d
    lowPass st x damp s = .ok (narrow (narrow p + narrow q))
      (s.narrowed [p, q, narrow p + narrow q]) := by
  intro d p q
  have hd : clampDamp damp = d := (clamp_eq _ _ _ (by decide)).symm
  unfold lowPass
  rw [hd, bind_of_ok (fmul_ok _ _ _ _), bind_of_ok (fmul_ok _ _ _ _)]
  refine (sat32_ok _ _).trans ?_
  simp only [State.narrowed_narrowed, List.cons_append, List.nil_append]
  rfl

/-- One comb step (41_delayline.md R364). -/
theorem combStep_ok {s : State} {l : Line} (st x fb damp : Int) (h : lineOk s.sramWords l = true)
    (hw : s.sramWords ≤ 2 ^ 24) :
    let old := (s.sramWord (lineCursor l).toNat).toInt
    let d := clamp 0 (2 ^ 24) damp
    let p := scaled 24 old (2 ^ 24 - d)
    let q := scaled 24 st d
    let st' := narrow p + narrow q
    let fed := scaled 24 (narrow st') fb
    combStep l st x fb damp s = .ok (old, advanced l, narrow st')
      (State.withSramWord (lineCursor l).toNat (wordOf (narrow (x + narrow fed)))
        (s.narrowed [p, q, st', fed, x + narrow fed])) := by
  intro old d p q st' fed
  unfold combStep
  rw [bind_of_ok (memRead_cursor h hw), bind_of_ok (lowPass_ok _ _ _ _), bind_of_ok (fmul_ok _ _ _ _),
    bind_of_ok (sat32_ok _ _), bind_of_ok (linePush_ok _ (by exact h) (by exact hw))]
  simp only [State.narrowed_narrowed, List.cons_append, List.nil_append]
  rfl

/-- One Schroeder allpass step (41_delayline.md R365). -/
theorem apfStep_ok {s : State} {l : Line} (x g : Int) (h : lineOk s.sramWords l = true) (hw : s.sramWords ≤ 2 ^ 24) :
    let old := (s.sramWord (lineCursor l).toNat).toInt
    let back := scaled 24 old g
    apfStep l x g s = .ok (narrow (old - x), advanced l)
      (State.withSramWord (lineCursor l).toNat (wordOf (narrow (x + narrow back)))
        (s.narrowed [old - x, back, x + narrow back])) := by
  intro old back
  unfold apfStep
  rw [bind_of_ok (memRead_cursor h hw), bind_of_ok (sat32_ok _ _), bind_of_ok (fmul_ok _ _ _ _),
    bind_of_ok (sat32_ok _ _), bind_of_ok (linePush_ok _ (by exact h) (by exact hw))]
  simp only [State.narrowed_narrowed, List.cons_append, List.nil_append]
  rfl

/-- The allpass-interpolated read between two taps (41_delayline.md R355, R356). -/
theorem lineInterp_ok {s : State} {l : Line} (m f h : Int) (hl : lineOk s.sramWords l = true)
    (hw : s.sramWords ≤ 2 ^ 24) :
    let len : Int := l.len.toNat
    let m' := clamp 1 (max (len - 1) 1) m
    let f' := clamp 0 (2 ^ 24 - 1) f
    let older := tapSample s l (min (m' + 1) len)
    let newer := tapSample s l (min m' len)
    let diff := newer - h
    let product := scaled 24 (narrow diff) (eta f')
    lineInterp l m f h s = .ok (narrow (older + narrow product))
      ((s.narrowed [diff, product, older + narrow product]).ranged
        (decide (¬(1 ≤ m ∧ m ≤ len - 1 ∧ 0 ≤ f ∧ f < 2 ^ 24)))) := by
  intro len m' f' older newer diff product
  have hk := lineOk_iff.1 hl
  have hlen : 1 ≤ len ∧ len ≤ 2 ^ 24 := ⟨by omega, by omega⟩
  have hm : 1 ≤ m' ∧ m' ≤ max (len - 1) 1 := by
    rw [show m' = clampInt m 1 (max (len - 1) 1) from clamp_eq _ _ _ (by omega)]
    exact clampInt_bounds _ _ _ (by omega)
  have ef : clampInt f 0 (2 ^ 24 - 1) = f' := (clamp_eq _ _ _ (by decide)).symm
  have em : clampInt m 1 (max (len - 1) 1) = m' := (clamp_eq _ _ _ (by omega)).symm
  have hf : decide (f' ≠ f) = decide (¬(0 ≤ f ∧ f < 2 ^ 24)) := by
    apply decide_eq_decide.2
    simp only [f', clamp]
    omega
  have hold : clamp 1 len (m' + 1) = min (m' + 1) len := by simp only [clamp]; omega
  have hnew : clamp 1 len m' = min m' len := by simp only [clamp]; omega
  have hout : ∀ a : Int, decide (¬(1 ≤ a ∧ a ≤ (l.len.toNat : Int))) = decide (len < a ∨ a < 1) := fun a => by
    apply decide_eq_decide.2
    omega
  unfold lineInterp
  show (raiseFlagIf (decide (clampInt f 0 (2 ^ 24 - 1) ≠ f)) .range >>= fun _ => _) s = _
  rw [bind_of_ok (raiseFlagIf_range_ok _ _)]
  show (raiseFlagIf (decide (¬(1 ≤ m ∧ m ≤ len - 1))) .range >>= fun _ => _) _ = _
  rw [bind_of_ok (raiseFlagIf_range_ok _ _)]
  show (lineTap l (clampInt m 1 (max (len - 1) 1) + 1) >>= fun _ => _) _ = _
  rw [em, ef, bind_of_ok (lineTap_ok _ (by exact hl) (by exact hw)), bind_of_ok (lineTap_ok _ (by exact hl) (by exact hw)),
    bind_of_ok (sat32_ok _ _), bind_of_ok (fmul_ok _ _ _ _), sat32_ok, hold, hnew, hf]
  simp only [State.narrowed_ranged, State.ranged_ranged, State.narrowed_narrowed, List.cons_append, List.nil_append]
  refine congrArg₂ _ rfl (congrArg₂ _ ?_ rfl)
  simp only [← Bool.decide_or, hout]
  apply decide_eq_decide.2
  omega

end Sys2Proof.Machine
end

