-- ==== Sys2Proof/Laws/Engine.lean ====
section
/-! SUPPORT. Every engine function of the effect slots completes on allocated lines, flags no more than SAT and RANGE,
and stores only to its lines: one rule per function. -/

namespace Sys2Proof.Machine

open Sys2Proof.Claims

/-- From every state with `words` words of sample RAM the body completes, answers a value that meets `Q`, sets no flag
but SAT and RANGE, stores only to the words `A`, and changes nothing else. -/
def Runs (words : Nat) (A : Nat → Bool) {α : Type} (c : Cmd α) (Q : α → Prop) : Prop :=
  ∀ t : State, t.sramWords = words → ∃ a m k, c t = .ok a { t with sram := m, status := t.status ||| k } ∧ Q a ∧
    Outside A t.sram m ∧ k &&& ~~~(5 : Word) = 0

variable {words : Nat} {A : Nat → Bool} {α β : Type}

theorem runs_of_same {c : Cmd α} {Q : α → Prop} (h : ∀ t : State, t.sramWords = words → ∃ a, c t = .ok a t ∧ Q a) :
    Runs words A c Q := by
  intro t ht
  obtain ⟨a, e, q⟩ := h t ht
  refine ⟨a, t.sram, 0, ?_, q, fun _ _ => rfl, rfl⟩
  rw [e]
  simp

theorem runs_pure {Q : α → Prop} (a : α) (h : Q a) : Runs words A (pure a) Q :=
  runs_of_same fun _ _ => ⟨a, rfl, h⟩

theorem runs_bind {c : Cmd α} {k : α → Cmd β} {Q : α → Prop} {R : β → Prop} (hc : Runs words A c Q)
    (hk : ∀ a, Q a → Runs words A (k a) R) : Runs words A (c >>= k) R := by
  intro t ht
  obtain ⟨a, m, k1, e, q, o, z⟩ := hc t ht
  obtain ⟨b, m', k2, e', r, o', z'⟩ := hk a q { t with sram := m, status := t.status ||| k1 } ht
  refine ⟨b, m', k1 ||| k2, ?_, r, (memStep_outside A).trans o o', ?_⟩
  · rw [bind_of_ok e, e']
    simp only [BitVec.or_assoc]
  · rw [BitVec.and_or_distrib_right, z, z', BitVec.or_self]

theorem runs_mono {c : Cmd α} {Q Q' : α → Prop} (h : Runs words A c Q) (hq : ∀ a, Q a → Q' a) : Runs words A c Q' := by
  intro t ht
  obtain ⟨a, m, k, e, q, o, z⟩ := h t ht
  exact ⟨a, m, k, e, hq a q, o, z⟩

theorem runs_ite {p : Prop} [Decidable p] {c d : Cmd α} {Q : α → Prop} (hc : p → Runs words A c Q)
    (hd : ¬p → Runs words A d Q) : Runs words A (if p then c else d) Q := by
  split
  · exact hc ‹_›
  · exact hd ‹_›

theorem satIf_mask (vs : List Int) (st : Word) : ∃ k : Word, satIf vs st = st ||| k ∧ k &&& ~~~(5 : Word) = 0 := by
  unfold satIf
  split
  · exact ⟨0, BitVec.or_zero.symm, rfl⟩
  · exact ⟨1, rfl, rfl⟩

theorem runs_of_narrowed {c : Cmd α} {Q : α → Prop}
    (h : ∀ t : State, t.sramWords = words → ∃ a vs, c t = .ok a (t.narrowed vs) ∧ Q a) : Runs words A c Q := by
  intro t ht
  obtain ⟨a, vs, e, q⟩ := h t ht
  obtain ⟨k, hk, hz⟩ := satIf_mask vs t.status
  refine ⟨a, t.sram, k, ?_, q, fun _ _ => rfl, hz⟩
  rw [e, ← hk]
  rfl

theorem runs_sat32 (v : Int) : Runs words A (sat32 v) fun _ => True :=
  runs_of_narrowed fun t _ => ⟨_, _, sat32_ok v t, trivial⟩

theorem runs_fmul (q : Nat) (a b : Int) : Runs words A (fmul q a b) fun _ => True :=
  runs_of_narrowed fun t _ => ⟨_, _, fmul_ok q a b t, trivial⟩

theorem runs_tabRead (a : Nat) : Runs words A (tabRead a) fun _ => True := runs_of_same fun _ _ => ⟨_, rfl, trivial⟩

theorem runs_getState : Runs words A getState fun _ => True := runs_of_same fun _ _ => ⟨_, rfl, trivial⟩

theorem runs_fxLfo (c cycle : Nat) : Runs words A (fxLfo c cycle) fun _ => True :=
  runs_bind (runs_tabRead _) fun _ _ => runs_pure _ trivial

theorem runs_memRead {a : Word} (h : a.toNat < words) : Runs words A (memRead a) fun _ => True :=
  runs_of_same fun t ht => ⟨_, memRead_run_of_lt (by rw [ht]; exact h), trivial⟩

theorem runs_memWrite {a : Word} (v : Word) (h : a.toNat < words) (hA : A a.toNat = true) :
    Runs words A (memWrite a v) fun _ => True := by
  intro t ht
  refine ⟨(), memPutWord t.sram a.toNat v, 0, ?_, trivial, outside_memPutWord v hA, rfl⟩
  rw [memWrite_run_of_lt (by rw [ht]; exact h)]
  simp [State.withSramWord]

theorem runs_memAccumulate {a : Word} (c : Int) (h : a.toNat < words) (hA : A a.toNat = true) :
    Runs words A (memAccumulate a c) fun _ => True :=
  runs_bind (runs_memRead h) fun _ _ => runs_bind (runs_sat32 _) fun _ _ => runs_memWrite _ h hA

/-! ### Lines -/

/-- A line is allocated and its words may be stored to. -/
structure LineIn (words : Nat) (A : Nat → Bool) (l : Line) : Prop where
  ok : lineOk words l = true
  mem : ∀ a, lineWord l a = true → A a = true

/-- The line is in the same place, allocated. -/
def SameLine (words : Nat) (l l' : Line) : Prop := l'.base = l.base ∧ l'.len = l.len ∧ lineOk words l' = true

theorem SameLine.lineWord {l l' : Line} (h : SameLine words l l') (a : Nat) :
    Claims.lineWord l' a = Claims.lineWord l a := by
  unfold Claims.lineWord
  rw [h.1, h.2.1]

theorem sameLine_advanced {l : Line} (h : lineOk words l = true) : SameLine words l (advanced l) :=
  ⟨rfl, rfl, advanced_ok h⟩

variable (hw : words ≤ 2 ^ 24)
include hw

theorem cursor_mem {l : Line} (h : LineIn words A l) : A (lineCursor l).toNat = true := by
  apply h.mem
  have := lineOk_iff.1 h.ok
  unfold lineWord
  rw [lineCursor_toNat h.ok hw]
  exact decide_eq_true (by omega)

theorem runs_readCursor {l : Line} (h : LineIn words A l) : Runs words A (memRead (lineCursor l)) fun _ => True :=
  runs_memRead (lineCursor_lt h.ok hw)

theorem runs_linePush {l : Line} (x : Int) (h : LineIn words A l) : Runs words A (linePush l x) (SameLine words l) :=
  runs_bind (runs_memWrite _ (lineCursor_lt h.ok hw) (cursor_mem hw h)) fun _ _ =>
    runs_pure _ (sameLine_advanced h.ok)

theorem runs_lineDelay {l : Line} (x : Int) (h : LineIn words A l) :
    Runs words A (lineDelay l x) fun r => SameLine words l r.2 :=
  runs_bind (runs_readCursor hw h) fun _ _ => runs_bind (runs_linePush hw x h) fun _ hl => runs_pure _ hl

omit hw in
/-- A body that flags no more than SAT and RANGE and changes nothing else. -/
theorem runs_of_flags {c : Cmd α} {Q : α → Prop}
    (h : ∀ t : State, t.sramWords = words → ∃ a vs b, c t = .ok a ((t.narrowed vs).ranged b) ∧ Q a) :
    Runs words A c Q := by
  intro t ht
  obtain ⟨a, vs, b, e, q⟩ := h t ht
  obtain ⟨k, hk, hz⟩ := satIf_mask vs t.status
  refine ⟨a, t.sram, k ||| (if b then 4 else 0), ?_, q, fun _ _ => rfl, ?_⟩
  · rw [e]
    congr 1
    unfold State.ranged State.narrowed rangeIf
    rw [hk]
    cases b
    · simp
    · simp [BitVec.or_assoc]
  · rw [BitVec.and_or_distrib_right, hz]
    cases b <;> rfl

theorem runs_lineTap {l : Line} (d : Int) (h : LineIn words A l) : Runs words A (lineTap l d) fun _ => True :=
  runs_of_flags fun _ ht => ⟨_, [], _, lineTap_ok d (ht ▸ h.ok) (ht ▸ hw), trivial⟩

theorem runs_lineInterp {l : Line} (m f x : Int) (h : LineIn words A l) :
    Runs words A (lineInterp l m f x) fun _ => True :=
  runs_of_flags fun _ ht => ⟨_, _, _, lineInterp_ok m f x (ht ▸ h.ok) (ht ▸ hw), trivial⟩

theorem runs_lineInterpQ16 {l : Line} (dq x : Int) (h : LineIn words A l) :
    Runs words A (lineInterpQ16 l dq x) fun _ => True := runs_lineInterp hw _ _ _ h

omit hw in
theorem runs_lowPass (st x d : Int) : Runs words A (lowPass st x d) fun _ => True :=
  runs_bind (runs_fmul _ _ _) fun _ _ => runs_bind (runs_fmul _ _ _) fun _ _ => runs_sat32 _

theorem runs_combStep {l : Line} (st x fb d : Int) (h : LineIn words A l) :
    Runs words A (combStep l st x fb d) fun r => SameLine words l r.2.1 :=
  runs_bind (runs_readCursor hw h) fun _ _ => runs_bind (runs_lowPass _ _ _) fun _ _ =>
    runs_bind (runs_fmul _ _ _) fun _ _ => runs_bind (runs_sat32 _) fun _ _ =>
      runs_bind (runs_linePush hw _ h) fun _ hl => runs_pure _ hl

theorem runs_apfStep {l : Line} (x g : Int) (h : LineIn words A l) :
    Runs words A (apfStep l x g) fun r => SameLine words l r.2 :=
  runs_bind (runs_readCursor hw h) fun _ _ => runs_bind (runs_sat32 _) fun _ _ =>
    runs_bind (runs_fmul _ _ _) fun _ _ => runs_bind (runs_sat32 _) fun _ _ =>
      runs_bind (runs_linePush hw _ h) fun _ hl => runs_pure _ hl

theorem runs_latticeWith {l : Line} (d x g : Int) (h : LineIn words A l) :
    Runs words A (latticeWith l d x g) fun r => SameLine words l r.2 :=
  runs_bind (runs_fmul _ _ _) fun _ _ => runs_bind (runs_sat32 _) fun _ _ =>
    runs_bind (runs_linePush hw _ h) fun _ hl => runs_bind (runs_fmul _ _ _) fun _ _ =>
      runs_bind (runs_sat32 _) fun _ _ => runs_pure _ hl

theorem runs_latStep {l : Line} (x g : Int) (h : LineIn words A l) :
    Runs words A (latStep l x g) fun r => SameLine words l r.2 :=
  runs_bind (runs_readCursor hw h) fun _ _ => runs_latticeWith hw _ _ _ h

/-! ### Engines -/

/-- The lines of a record after a frame: in the same places, allocated. -/
def SameLines (words : Nat) (ls ls' : List Line) : Prop := List.Forall₂ (SameLine words) ls ls'

theorem runs_combBank (x fb damp : Int) (cs : List CombLine) : (∀ c ∈ cs, LineIn words A c.line) → ∀ acc,
    Runs words A (combBank x fb damp cs acc) fun r => SameLines words (cs.map (·.line)) (r.2.map (·.line)) := by
  induction cs with
  | nil => exact fun _ _ => runs_pure _ .nil
  | cons c rest ih =>
    intro h acc
    refine runs_bind (runs_combStep hw _ _ _ _ (h c List.mem_cons_self)) ?_
    rintro ⟨y, l, st⟩ hl
    refine runs_bind (runs_sat32 _) fun acc' _ => ?_
    refine runs_bind (ih (fun c' hc' => h c' (List.mem_cons_of_mem _ hc')) acc') ?_
    rintro ⟨total, rest'⟩ hr
    exact runs_pure _ (.cons hl hr)

theorem runs_apfChain (g : Int) (ls : List Line) : (∀ l ∈ ls, LineIn words A l) → ∀ x,
    Runs words A (apfChain g ls x) fun r => SameLines words ls r.2 := by
  induction ls with
  | nil => exact fun _ _ => runs_pure _ .nil
  | cons l rest ih =>
    intro h x
    refine runs_bind (runs_apfStep hw _ _ (h l List.mem_cons_self)) ?_
    rintro ⟨y, l'⟩ hl
    refine runs_bind (ih (fun c' hc' => h c' (List.mem_cons_of_mem _ hc')) y) ?_
    rintro ⟨out, rest'⟩ hr
    exact runs_pure _ (.cons hl hr)

theorem runs_freeverbFrame (r : FreeverbRec) (xL xR : Int) (h : ∀ l ∈ recordLines (.freeverb r), LineIn words A l) :
    Runs words A (freeverbFrame r xL xR) fun o =>
      SameLines words (recordLines (.freeverb r)) (recordLines (.freeverb o.2.2)) := by
  have hcl : ∀ c ∈ r.cl, LineIn words A c.line := fun c hc => h _ (by simp only [recordLines, List.mem_append, List.mem_map]; exact .inl (.inl (.inl ⟨c, hc, rfl⟩)))
  have hcr : ∀ c ∈ r.cr, LineIn words A c.line := fun c hc => h _ (by simp only [recordLines, List.mem_append, List.mem_map]; exact .inl (.inl (.inr ⟨c, hc, rfl⟩)))
  have hal : ∀ l ∈ r.al, LineIn words A l := fun l hl => h _ (by simp only [recordLines, List.mem_append]; exact .inl (.inr hl))
  have har : ∀ l ∈ r.ar, LineIn words A l := fun l hl => h _ (by simp only [recordLines, List.mem_append]; exact .inr hl)
  unfold freeverbFrame
  refine runs_bind (runs_sat32 _) fun mono _ => runs_bind (runs_fmul _ _ _) fun xin _ => ?_
  refine runs_bind (runs_combBank hw _ _ _ _ hcl _) ?_
  rintro ⟨aL, cl⟩ h1
  refine runs_bind (runs_combBank hw _ _ _ _ hcr _) ?_
  rintro ⟨aR, cr⟩ h2
  refine runs_bind (runs_apfChain hw _ _ hal _) ?_
  rintro ⟨aL, al⟩ h3
  refine runs_bind (runs_apfChain hw _ _ har _) ?_
  rintro ⟨aR, ar⟩ h4
  refine runs_bind (runs_fmul _ _ _) fun _ _ => runs_bind (runs_fmul _ _ _) fun _ _ => runs_bind (runs_sat32 _) fun _ _ =>
    runs_bind (runs_fmul _ _ _) fun _ _ => runs_bind (runs_fmul _ _ _) fun _ _ => runs_bind (runs_sat32 _) fun _ _ =>
      runs_pure _ ?_
  exact List.rel_append (List.rel_append (List.rel_append h1 h2) h3) h4

theorem runs_modLat (sr : Nat) (p : FxParams) {l : Line} (x g v y : Int) (n : Nat) (h : LineIn words A l) :
    Runs words A (modLat sr p l x g v y n) fun r => SameLine words l r.2.1 :=
  runs_bind (runs_lineInterpQ16 hw _ _ h) fun _ _ => runs_bind (runs_latticeWith hw _ _ _ h) fun _ hl => runs_pure _ hl

theorem runs_preDelay {pd : Option Line} (x : Int) (h : ∀ l ∈ pd.toList, LineIn words A l) :
    Runs words A (preDelay pd x) fun r => SameLines words pd.toList r.2.toList := by
  cases pd with
  | none => exact runs_pure _ .nil
  | some l =>
    refine runs_bind (runs_lineDelay hw _ (h l (by simp))) ?_
    rintro ⟨y, l'⟩ hl
    exact runs_pure _ (.cons hl .nil)

theorem runs_plateHalf (sr : Nat) (p : FxParams) {m d1 a2 d2 : Line} (st y u v : Int) (n : Nat) (hm : LineIn words A m)
    (h1 : LineIn words A d1) (h2 : LineIn words A a2) (h3 : LineIn words A d2) :
    Runs words A (plateHalf sr p m d1 a2 d2 st y u v n) fun r => SameLine words m r.2.1 ∧ SameLine words d1 r.2.2.1 ∧
      SameLine words a2 r.2.2.2.1 ∧ SameLine words d2 r.2.2.2.2.1 := by
  unfold plateHalf
  refine runs_bind (runs_sat32 _) fun g _ => ?_
  refine runs_bind (runs_modLat hw sr p _ _ _ _ _ hm) ?_
  rintro ⟨y, m', h'⟩ hm'
  refine runs_bind (runs_lineDelay hw _ h1) ?_
  rintro ⟨z, d1'⟩ h1'
  refine runs_bind (runs_lowPass _ _ _) fun st' _ => runs_bind (runs_fmul _ _ _) fun q _ => ?_
  refine runs_bind (runs_latStep hw _ _ h2) ?_
  rintro ⟨w, a2'⟩ h2'
  refine runs_bind (runs_lineDelay hw _ h3) ?_
  rintro ⟨t, d2'⟩ h3'
  exact runs_pure _ ⟨hm', h1', h2', h3'⟩

theorem runs_plateNetwork (sr : Nat) (r : PlateRec) (xL xR : Int) (h : ∀ l ∈ recordLines (.plate r), LineIn words A l) :
    Runs words A (plateNetwork sr r xL xR) fun o =>
      SameLines words (recordLines (.plate r)) (recordLines (.plate o)) := by
  have hpd : ∀ l ∈ r.pd.toList, LineIn words A l := fun l hl => h l (List.mem_append_left _ hl)
  have ht : ∀ l ∈ [r.id1, r.id2, r.id3, r.id4, r.mal, r.dl1, r.al2, r.dl2, r.mar, r.dr1, r.ar2, r.dr2],
      LineIn words A l := fun l hl => h l (List.mem_append_right _ hl)
  simp only [List.mem_cons, List.not_mem_nil, or_false, forall_eq_or_imp, forall_eq] at ht
  obtain ⟨t1, t2, t3, t4, t5, t6, t7, t8, t9, t10, t11, t12⟩ := ht
  unfold plateNetwork
  refine runs_bind (runs_sat32 _) fun mono _ => runs_bind (runs_fmul _ _ _) fun x _ => ?_
  refine runs_bind (runs_preDelay hw x hpd) ?_
  rintro ⟨x, pd⟩ q0
  refine runs_bind (runs_latStep hw _ _ t1) ?_
  rintro ⟨a, id1⟩ q1
  refine runs_bind (runs_latStep hw _ _ t2) ?_
  rintro ⟨a, id2⟩ q2
  refine runs_bind (runs_latStep hw _ _ t3) ?_
  rintro ⟨a, id3⟩ q3
  refine runs_bind (runs_latStep hw _ _ t4) ?_
  rintro ⟨a, id4⟩ q4
  refine runs_bind (runs_fxLfo _ _) fun vL _ => runs_bind (runs_fxLfo _ _) fun vR _ => ?_
  refine runs_bind (runs_fmul _ _ _) fun _ _ => runs_bind (runs_sat32 _) fun uL _ => ?_
  refine runs_bind (runs_fmul _ _ _) fun _ _ => runs_bind (runs_sat32 _) fun uR _ => ?_
  refine runs_bind (runs_plateHalf hw sr _ _ _ _ _ _ t5 t6 t7 t8) ?_
  rintro ⟨tl, mal, dl1, al2, dl2, lp1, hl⟩ ⟨q5, q6, q7, q8⟩
  refine runs_bind (runs_plateHalf hw sr _ _ _ _ _ _ t9 t10 t11 t12) ?_
  rintro ⟨tr, mar, dr1, ar2, dr2, lp2, hr⟩ ⟨q9, q10, q11, q12⟩
  refine runs_pure _ ?_
  exact List.rel_append q0 (.cons q1 (.cons q2 (.cons q3 (.cons q4 (.cons q5 (.cons q6 (.cons q7 (.cons q8 (.cons q9
    (.cons q10 (.cons q11 (.cons q12 .nil))))))))))))

theorem runs_plateTaps (sr : Nat) (r : PlateRec) (h : ∀ l ∈ recordLines (.plate r), LineIn words A l) :
    Runs words A (plateTaps sr r) fun _ => True := by
  have ht : ∀ l ∈ [r.id1, r.id2, r.id3, r.id4, r.mal, r.dl1, r.al2, r.dl2, r.mar, r.dr1, r.ar2, r.dr2],
      LineIn words A l := fun l hl => h l (List.mem_append_right _ hl)
  simp only [List.mem_cons, List.not_mem_nil, or_false, forall_eq_or_imp, forall_eq] at ht
  obtain ⟨-, -, -, -, -, t6, t7, t8, -, t10, t11, t12⟩ := ht
  unfold plateTaps
  have tap : ∀ {l : Line} {n : Nat}, LineIn words A l → Runs words A (plateTap sr l n) fun _ => True :=
    fun hl => runs_lineTap hw _ hl
  refine runs_bind (tap t10) fun _ _ => runs_bind (tap t10) fun _ _ => runs_bind (tap t11) fun _ _ =>
    runs_bind (tap t12) fun _ _ => runs_bind (tap t6) fun _ _ => runs_bind (tap t7) fun _ _ =>
    runs_bind (tap t8) fun _ _ => runs_bind (tap t6) fun _ _ => runs_bind (tap t6) fun _ _ =>
    runs_bind (tap t7) fun _ _ => runs_bind (tap t8) fun _ _ => runs_bind (tap t10) fun _ _ =>
    runs_bind (tap t11) fun _ _ => runs_bind (tap t12) fun _ _ => ?_
  exact runs_bind (runs_sat32 _) fun _ _ => runs_bind (runs_sat32 _) fun _ _ => runs_bind (runs_fmul _ _ _) fun _ _ =>
    runs_bind (runs_fmul _ _ _) fun _ _ => runs_pure _ trivial

omit hw in
theorem sameLines_in {ls ls' : List Line} (h : SameLines words ls ls') (hin : ∀ l ∈ ls, LineIn words A l) :
    ∀ l ∈ ls', LineIn words A l := by
  induction h with
  | nil => exact fun _ hl => absurd hl List.not_mem_nil
  | cons hl _ ih =>
    intro l hmem
    rcases List.mem_cons.1 hmem with rfl | hmem
    · exact ⟨hl.2.2, fun a ha => (hin _ List.mem_cons_self).mem a (by rw [← hl.lineWord]; exact ha)⟩
    · exact ih (fun l' hl' => hin l' (List.mem_cons_of_mem _ hl')) l hmem

theorem runs_plateFrame (r : PlateRec) (xL xR : Int) (h : ∀ l ∈ recordLines (.plate r), LineIn words A l) :
    Runs words A (plateFrame r xL xR) fun o =>
      SameLines words (recordLines (.plate r)) (recordLines (.plate o.2.2)) := by
  unfold plateFrame
  refine runs_bind runs_getState fun t _ => runs_bind (runs_plateNetwork hw _ r xL xR h) fun r' hr => ?_
  refine runs_bind (runs_plateTaps hw _ r' (sameLines_in hr h)) ?_
  rintro ⟨wL, wR⟩ -
  exact runs_pure _ hr

theorem runs_chorusChannel (p : FxParams) {l : Line} (y : Word) (x : Int) (c : Nat) (h : LineIn words A l) :
    Runs words A (chorusChannel p l y x c) fun r => SameLine words l r.2 :=
  runs_bind (runs_fxLfo _ _) fun _ _ => runs_bind (runs_fmul _ _ _) fun _ _ =>
    runs_bind (runs_lineInterpQ16 hw _ _ h) fun _ _ => runs_bind (runs_fmul _ _ _) fun _ _ =>
      runs_bind (runs_sat32 _) fun _ _ => runs_bind (runs_linePush hw _ h) fun _ hl => runs_pure _ hl

theorem runs_chorusFrame (r : ChorusRec) (xL xR : Int) (h : ∀ l ∈ recordLines (.chorus r), LineIn words A l) :
    Runs words A (chorusFrame r xL xR) fun o =>
      SameLines words (recordLines (.chorus r)) (recordLines (.chorus o.2.2)) := by
  unfold chorusFrame
  refine runs_bind (runs_chorusChannel hw _ _ _ _ (h r.xl (by simp [recordLines]))) ?_
  rintro ⟨wL, xl⟩ h1
  refine runs_bind (runs_chorusChannel hw _ _ _ _ (h r.xr (by simp [recordLines]))) ?_
  rintro ⟨wR, xr⟩ h2
  exact runs_pure _ (.cons h1 (.cons h2 .nil))

theorem runs_hexaTaps (p : FxParams) {l : Line} (c count : Nat) (hl : LineIn words A l) :
    ∀ i acc wL wR h, Runs words A (hexaTaps p l c count i acc wL wR h) fun _ => True := by
  induction count with
  | zero => exact fun _ _ _ _ _ => runs_pure _ trivial
  | succ k ih =>
    exact fun i acc wL wR h => runs_bind (runs_fxLfo _ _) fun _ _ => runs_bind (runs_fmul _ _ _) fun _ _ =>
      runs_bind (runs_lineInterpQ16 hw _ _ hl) fun _ _ => runs_bind (runs_sat32 _) fun _ _ =>
      runs_bind (runs_fmul _ _ _) fun _ _ => runs_bind (runs_sat32 _) fun _ _ => runs_bind (runs_fmul _ _ _) fun _ _ =>
      runs_bind (runs_sat32 _) fun _ _ => ih _ _ _ _ _

theorem runs_hexaFrame (r : HexaRec) (xL xR : Int) (h : ∀ l ∈ recordLines (.hexa r), LineIn words A l) :
    Runs words A (hexaFrame r xL xR) fun o =>
      SameLines words (recordLines (.hexa r)) (recordLines (.hexa o.2.2)) := by
  have hx : LineIn words A r.x := h r.x (by simp [recordLines])
  unfold hexaFrame
  refine runs_bind (runs_sat32 _) fun xm _ => runs_bind (runs_hexaTaps hw _ _ _ hx _ _ _ _ _) ?_
  rintro ⟨acc, wL, wR, hh⟩ -
  exact runs_bind (runs_fmul _ _ _) fun _ _ => runs_bind (runs_sat32 _) fun _ _ =>
    runs_bind (runs_linePush hw _ hx) fun _ hl => runs_pure _ (.cons hl .nil)

omit hw in
theorem runs_dryWet (p : FxParams) (x w : Int) : Runs words A (dryWet p x w) fun _ => True :=
  runs_bind (runs_fmul _ _ _) fun _ _ => runs_bind (runs_fmul _ _ _) fun _ _ => runs_sat32 _

end Sys2Proof.Machine
end

