-- ==== Sys2Proof/Laws/Voice.lean ====
section
/-! SUPPORT. What each update of a voice does to each field: one lemma per field per update. -/

namespace Sys2Proof.Machine

/-! ### `Voice.freed` -/

@[simp] theorem Voice.freed_ctrl (v : Voice) : (Voice.freed v).ctrl = v.ctrl ||| diedMask := rfl
@[simp] theorem Voice.freed_status (v : Voice) : (Voice.freed v).status = VoiceStatus.free := rfl
@[simp] theorem Voice.freed_channel (v : Voice) : (Voice.freed v).channel = v.channel := rfl
@[simp] theorem Voice.freed_delay (v : Voice) : (Voice.freed v).delay = v.delay := rfl
@[simp] theorem Voice.freed_srcBase (v : Voice) : (Voice.freed v).srcBase = v.srcBase := rfl
@[simp] theorem Voice.freed_cc (v : Voice) : (Voice.freed v).cc = v.cc := rfl
@[simp] theorem Voice.freed_sendRev (v : Voice) : (Voice.freed v).sendRev = v.sendRev := rfl
@[simp] theorem Voice.freed_sendCho (v : Voice) : (Voice.freed v).sendCho = v.sendCho := rfl
@[simp] theorem Voice.freed_sendDly (v : Voice) : (Voice.freed v).sendDly = v.sendDly := rfl
@[simp] theorem Voice.freed_filtF (v : Voice) : (Voice.freed v).filtF = v.filtF := rfl
@[simp] theorem Voice.freed_filtQ (v : Voice) : (Voice.freed v).filtQ = v.filtQ := rfl
@[simp] theorem Voice.freed_filtP (v : Voice) : (Voice.freed v).filtP = v.filtP := rfl
@[simp] theorem Voice.freed_filtHist (v : Voice) : (Voice.freed v).filtHist = v.filtHist := rfl
@[simp] theorem Voice.freed_env (v : Voice) : (Voice.freed v).env = v.env := rfl
@[simp] theorem Voice.freed_lss (v : Voice) : (Voice.freed v).lss = v.lss := rfl
@[simp] theorem Voice.freed_lsr (v : Voice) : (Voice.freed v).lsr = v.lsr := rfl
@[simp] theorem Voice.freed_menv (v : Voice) : (Voice.freed v).menv = v.menv := rfl
@[simp] theorem Voice.freed_menvOut (v : Voice) : (Voice.freed v).menvOut = v.menvOut := rfl
@[simp] theorem Voice.freed_trem (v : Voice) : (Voice.freed v).trem = v.trem := rfl
@[simp] theorem Voice.freed_mix (v : Voice) : (Voice.freed v).mix = v.mix := rfl
@[simp] theorem Voice.freed_pdly (v : Voice) : (Voice.freed v).pdly = v.pdly := rfl

/-! ### `Voice.withEnvStage` -/

@[simp] theorem Voice.withEnvStage_ctrl (k : Nat) (v : Voice) : (Voice.withEnvStage k v).ctrl = v.ctrl := rfl
@[simp] theorem Voice.withEnvStage_status (k : Nat) (v : Voice) : (Voice.withEnvStage k v).status = v.status := rfl
@[simp] theorem Voice.withEnvStage_channel (k : Nat) (v : Voice) : (Voice.withEnvStage k v).channel = v.channel := rfl
@[simp] theorem Voice.withEnvStage_delay (k : Nat) (v : Voice) : (Voice.withEnvStage k v).delay = v.delay := rfl
@[simp] theorem Voice.withEnvStage_srcBase (k : Nat) (v : Voice) : (Voice.withEnvStage k v).srcBase = v.srcBase := rfl
@[simp] theorem Voice.withEnvStage_cc (k : Nat) (v : Voice) : (Voice.withEnvStage k v).cc = v.cc := rfl
@[simp] theorem Voice.withEnvStage_sendRev (k : Nat) (v : Voice) : (Voice.withEnvStage k v).sendRev = v.sendRev := rfl
@[simp] theorem Voice.withEnvStage_sendCho (k : Nat) (v : Voice) : (Voice.withEnvStage k v).sendCho = v.sendCho := rfl
@[simp] theorem Voice.withEnvStage_sendDly (k : Nat) (v : Voice) : (Voice.withEnvStage k v).sendDly = v.sendDly := rfl
@[simp] theorem Voice.withEnvStage_filtF (k : Nat) (v : Voice) : (Voice.withEnvStage k v).filtF = v.filtF := rfl
@[simp] theorem Voice.withEnvStage_filtQ (k : Nat) (v : Voice) : (Voice.withEnvStage k v).filtQ = v.filtQ := rfl
@[simp] theorem Voice.withEnvStage_filtP (k : Nat) (v : Voice) : (Voice.withEnvStage k v).filtP = v.filtP := rfl
@[simp] theorem Voice.withEnvStage_filtHist (k : Nat) (v : Voice) : (Voice.withEnvStage k v).filtHist = v.filtHist := rfl
@[simp] theorem Voice.withEnvStage_env (k : Nat) (v : Voice) : (Voice.withEnvStage k v).env = { v.env with stage := BitVec.ofNat 32 k } := rfl
@[simp] theorem Voice.withEnvStage_lss (k : Nat) (v : Voice) : (Voice.withEnvStage k v).lss = v.lss := rfl
@[simp] theorem Voice.withEnvStage_lsr (k : Nat) (v : Voice) : (Voice.withEnvStage k v).lsr = v.lsr := rfl
@[simp] theorem Voice.withEnvStage_menv (k : Nat) (v : Voice) : (Voice.withEnvStage k v).menv = v.menv := rfl
@[simp] theorem Voice.withEnvStage_menvOut (k : Nat) (v : Voice) : (Voice.withEnvStage k v).menvOut = v.menvOut := rfl
@[simp] theorem Voice.withEnvStage_trem (k : Nat) (v : Voice) : (Voice.withEnvStage k v).trem = v.trem := rfl
@[simp] theorem Voice.withEnvStage_mix (k : Nat) (v : Voice) : (Voice.withEnvStage k v).mix = v.mix := rfl
@[simp] theorem Voice.withEnvStage_pdly (k : Nat) (v : Voice) : (Voice.withEnvStage k v).pdly = v.pdly := rfl

/-! ### `Voice.withEnvValue` -/

@[simp] theorem Voice.withEnvValue_ctrl (x : Int) (v : Voice) : (Voice.withEnvValue x v).ctrl = v.ctrl := rfl
@[simp] theorem Voice.withEnvValue_status (x : Int) (v : Voice) : (Voice.withEnvValue x v).status = v.status := rfl
@[simp] theorem Voice.withEnvValue_channel (x : Int) (v : Voice) : (Voice.withEnvValue x v).channel = v.channel := rfl
@[simp] theorem Voice.withEnvValue_delay (x : Int) (v : Voice) : (Voice.withEnvValue x v).delay = v.delay := rfl
@[simp] theorem Voice.withEnvValue_srcBase (x : Int) (v : Voice) : (Voice.withEnvValue x v).srcBase = v.srcBase := rfl
@[simp] theorem Voice.withEnvValue_cc (x : Int) (v : Voice) : (Voice.withEnvValue x v).cc = v.cc := rfl
@[simp] theorem Voice.withEnvValue_sendRev (x : Int) (v : Voice) : (Voice.withEnvValue x v).sendRev = v.sendRev := rfl
@[simp] theorem Voice.withEnvValue_sendCho (x : Int) (v : Voice) : (Voice.withEnvValue x v).sendCho = v.sendCho := rfl
@[simp] theorem Voice.withEnvValue_sendDly (x : Int) (v : Voice) : (Voice.withEnvValue x v).sendDly = v.sendDly := rfl
@[simp] theorem Voice.withEnvValue_filtF (x : Int) (v : Voice) : (Voice.withEnvValue x v).filtF = v.filtF := rfl
@[simp] theorem Voice.withEnvValue_filtQ (x : Int) (v : Voice) : (Voice.withEnvValue x v).filtQ = v.filtQ := rfl
@[simp] theorem Voice.withEnvValue_filtP (x : Int) (v : Voice) : (Voice.withEnvValue x v).filtP = v.filtP := rfl
@[simp] theorem Voice.withEnvValue_filtHist (x : Int) (v : Voice) : (Voice.withEnvValue x v).filtHist = v.filtHist := rfl
@[simp] theorem Voice.withEnvValue_env (x : Int) (v : Voice) : (Voice.withEnvValue x v).env = { v.env with value := wordOf (clampEnv x) } := rfl
@[simp] theorem Voice.withEnvValue_lss (x : Int) (v : Voice) : (Voice.withEnvValue x v).lss = v.lss := rfl
@[simp] theorem Voice.withEnvValue_lsr (x : Int) (v : Voice) : (Voice.withEnvValue x v).lsr = v.lsr := rfl
@[simp] theorem Voice.withEnvValue_menv (x : Int) (v : Voice) : (Voice.withEnvValue x v).menv = v.menv := rfl
@[simp] theorem Voice.withEnvValue_menvOut (x : Int) (v : Voice) : (Voice.withEnvValue x v).menvOut = v.menvOut := rfl
@[simp] theorem Voice.withEnvValue_trem (x : Int) (v : Voice) : (Voice.withEnvValue x v).trem = v.trem := rfl
@[simp] theorem Voice.withEnvValue_mix (x : Int) (v : Voice) : (Voice.withEnvValue x v).mix = v.mix := rfl
@[simp] theorem Voice.withEnvValue_pdly (x : Int) (v : Voice) : (Voice.withEnvValue x v).pdly = v.pdly := rfl

/-! ### `Voice.withEnvRamp` -/

@[simp] theorem Voice.withEnvRamp_ctrl (t i : Int) (v : Voice) : (Voice.withEnvRamp t i v).ctrl = v.ctrl := rfl
@[simp] theorem Voice.withEnvRamp_status (t i : Int) (v : Voice) : (Voice.withEnvRamp t i v).status = v.status := rfl
@[simp] theorem Voice.withEnvRamp_channel (t i : Int) (v : Voice) : (Voice.withEnvRamp t i v).channel = v.channel := rfl
@[simp] theorem Voice.withEnvRamp_delay (t i : Int) (v : Voice) : (Voice.withEnvRamp t i v).delay = v.delay := rfl
@[simp] theorem Voice.withEnvRamp_srcBase (t i : Int) (v : Voice) : (Voice.withEnvRamp t i v).srcBase = v.srcBase := rfl
@[simp] theorem Voice.withEnvRamp_cc (t i : Int) (v : Voice) : (Voice.withEnvRamp t i v).cc = v.cc := rfl
@[simp] theorem Voice.withEnvRamp_sendRev (t i : Int) (v : Voice) : (Voice.withEnvRamp t i v).sendRev = v.sendRev := rfl
@[simp] theorem Voice.withEnvRamp_sendCho (t i : Int) (v : Voice) : (Voice.withEnvRamp t i v).sendCho = v.sendCho := rfl
@[simp] theorem Voice.withEnvRamp_sendDly (t i : Int) (v : Voice) : (Voice.withEnvRamp t i v).sendDly = v.sendDly := rfl
@[simp] theorem Voice.withEnvRamp_filtF (t i : Int) (v : Voice) : (Voice.withEnvRamp t i v).filtF = v.filtF := rfl
@[simp] theorem Voice.withEnvRamp_filtQ (t i : Int) (v : Voice) : (Voice.withEnvRamp t i v).filtQ = v.filtQ := rfl
@[simp] theorem Voice.withEnvRamp_filtP (t i : Int) (v : Voice) : (Voice.withEnvRamp t i v).filtP = v.filtP := rfl
@[simp] theorem Voice.withEnvRamp_filtHist (t i : Int) (v : Voice) : (Voice.withEnvRamp t i v).filtHist = v.filtHist := rfl
@[simp] theorem Voice.withEnvRamp_env (t i : Int) (v : Voice) : (Voice.withEnvRamp t i v).env = { v.env with target := wordOf t, inc := wordOf i } := rfl
@[simp] theorem Voice.withEnvRamp_lss (t i : Int) (v : Voice) : (Voice.withEnvRamp t i v).lss = v.lss := rfl
@[simp] theorem Voice.withEnvRamp_lsr (t i : Int) (v : Voice) : (Voice.withEnvRamp t i v).lsr = v.lsr := rfl
@[simp] theorem Voice.withEnvRamp_menv (t i : Int) (v : Voice) : (Voice.withEnvRamp t i v).menv = v.menv := rfl
@[simp] theorem Voice.withEnvRamp_menvOut (t i : Int) (v : Voice) : (Voice.withEnvRamp t i v).menvOut = v.menvOut := rfl
@[simp] theorem Voice.withEnvRamp_trem (t i : Int) (v : Voice) : (Voice.withEnvRamp t i v).trem = v.trem := rfl
@[simp] theorem Voice.withEnvRamp_mix (t i : Int) (v : Voice) : (Voice.withEnvRamp t i v).mix = v.mix := rfl
@[simp] theorem Voice.withEnvRamp_pdly (t i : Int) (v : Voice) : (Voice.withEnvRamp t i v).pdly = v.pdly := rfl

/-! ### `Voice.withEnvInc` -/

@[simp] theorem Voice.withEnvInc_ctrl (i : Int) (v : Voice) : (Voice.withEnvInc i v).ctrl = v.ctrl := rfl
@[simp] theorem Voice.withEnvInc_status (i : Int) (v : Voice) : (Voice.withEnvInc i v).status = v.status := rfl
@[simp] theorem Voice.withEnvInc_channel (i : Int) (v : Voice) : (Voice.withEnvInc i v).channel = v.channel := rfl
@[simp] theorem Voice.withEnvInc_delay (i : Int) (v : Voice) : (Voice.withEnvInc i v).delay = v.delay := rfl
@[simp] theorem Voice.withEnvInc_srcBase (i : Int) (v : Voice) : (Voice.withEnvInc i v).srcBase = v.srcBase := rfl
@[simp] theorem Voice.withEnvInc_cc (i : Int) (v : Voice) : (Voice.withEnvInc i v).cc = v.cc := rfl
@[simp] theorem Voice.withEnvInc_sendRev (i : Int) (v : Voice) : (Voice.withEnvInc i v).sendRev = v.sendRev := rfl
@[simp] theorem Voice.withEnvInc_sendCho (i : Int) (v : Voice) : (Voice.withEnvInc i v).sendCho = v.sendCho := rfl
@[simp] theorem Voice.withEnvInc_sendDly (i : Int) (v : Voice) : (Voice.withEnvInc i v).sendDly = v.sendDly := rfl
@[simp] theorem Voice.withEnvInc_filtF (i : Int) (v : Voice) : (Voice.withEnvInc i v).filtF = v.filtF := rfl
@[simp] theorem Voice.withEnvInc_filtQ (i : Int) (v : Voice) : (Voice.withEnvInc i v).filtQ = v.filtQ := rfl
@[simp] theorem Voice.withEnvInc_filtP (i : Int) (v : Voice) : (Voice.withEnvInc i v).filtP = v.filtP := rfl
@[simp] theorem Voice.withEnvInc_filtHist (i : Int) (v : Voice) : (Voice.withEnvInc i v).filtHist = v.filtHist := rfl
@[simp] theorem Voice.withEnvInc_env (i : Int) (v : Voice) : (Voice.withEnvInc i v).env = { v.env with inc := wordOf i } := rfl
@[simp] theorem Voice.withEnvInc_lss (i : Int) (v : Voice) : (Voice.withEnvInc i v).lss = v.lss := rfl
@[simp] theorem Voice.withEnvInc_lsr (i : Int) (v : Voice) : (Voice.withEnvInc i v).lsr = v.lsr := rfl
@[simp] theorem Voice.withEnvInc_menv (i : Int) (v : Voice) : (Voice.withEnvInc i v).menv = v.menv := rfl
@[simp] theorem Voice.withEnvInc_menvOut (i : Int) (v : Voice) : (Voice.withEnvInc i v).menvOut = v.menvOut := rfl
@[simp] theorem Voice.withEnvInc_trem (i : Int) (v : Voice) : (Voice.withEnvInc i v).trem = v.trem := rfl
@[simp] theorem Voice.withEnvInc_mix (i : Int) (v : Voice) : (Voice.withEnvInc i v).mix = v.mix := rfl
@[simp] theorem Voice.withEnvInc_pdly (i : Int) (v : Voice) : (Voice.withEnvInc i v).pdly = v.pdly := rfl

/-! ### `Voice.withLastStage` -/

@[simp] theorem Voice.withLastStage_ctrl (a b : Int) (v : Voice) : (Voice.withLastStage a b v).ctrl = v.ctrl := rfl
@[simp] theorem Voice.withLastStage_status (a b : Int) (v : Voice) : (Voice.withLastStage a b v).status = v.status := rfl
@[simp] theorem Voice.withLastStage_channel (a b : Int) (v : Voice) : (Voice.withLastStage a b v).channel = v.channel := rfl
@[simp] theorem Voice.withLastStage_delay (a b : Int) (v : Voice) : (Voice.withLastStage a b v).delay = v.delay := rfl
@[simp] theorem Voice.withLastStage_srcBase (a b : Int) (v : Voice) : (Voice.withLastStage a b v).srcBase = v.srcBase := rfl
@[simp] theorem Voice.withLastStage_cc (a b : Int) (v : Voice) : (Voice.withLastStage a b v).cc = v.cc := rfl
@[simp] theorem Voice.withLastStage_sendRev (a b : Int) (v : Voice) : (Voice.withLastStage a b v).sendRev = v.sendRev := rfl
@[simp] theorem Voice.withLastStage_sendCho (a b : Int) (v : Voice) : (Voice.withLastStage a b v).sendCho = v.sendCho := rfl
@[simp] theorem Voice.withLastStage_sendDly (a b : Int) (v : Voice) : (Voice.withLastStage a b v).sendDly = v.sendDly := rfl
@[simp] theorem Voice.withLastStage_filtF (a b : Int) (v : Voice) : (Voice.withLastStage a b v).filtF = v.filtF := rfl
@[simp] theorem Voice.withLastStage_filtQ (a b : Int) (v : Voice) : (Voice.withLastStage a b v).filtQ = v.filtQ := rfl
@[simp] theorem Voice.withLastStage_filtP (a b : Int) (v : Voice) : (Voice.withLastStage a b v).filtP = v.filtP := rfl
@[simp] theorem Voice.withLastStage_filtHist (a b : Int) (v : Voice) : (Voice.withLastStage a b v).filtHist = v.filtHist := rfl
@[simp] theorem Voice.withLastStage_env (a b : Int) (v : Voice) : (Voice.withLastStage a b v).env = v.env := rfl
@[simp] theorem Voice.withLastStage_lss (a b : Int) (v : Voice) : (Voice.withLastStage a b v).lss = wordOf a := rfl
@[simp] theorem Voice.withLastStage_lsr (a b : Int) (v : Voice) : (Voice.withLastStage a b v).lsr = wordOf b := rfl
@[simp] theorem Voice.withLastStage_menv (a b : Int) (v : Voice) : (Voice.withLastStage a b v).menv = v.menv := rfl
@[simp] theorem Voice.withLastStage_menvOut (a b : Int) (v : Voice) : (Voice.withLastStage a b v).menvOut = v.menvOut := rfl
@[simp] theorem Voice.withLastStage_trem (a b : Int) (v : Voice) : (Voice.withLastStage a b v).trem = v.trem := rfl
@[simp] theorem Voice.withLastStage_mix (a b : Int) (v : Voice) : (Voice.withLastStage a b v).mix = v.mix := rfl
@[simp] theorem Voice.withLastStage_pdly (a b : Int) (v : Voice) : (Voice.withLastStage a b v).pdly = v.pdly := rfl

/-! ### `Voice.withMenvStage` -/

@[simp] theorem Voice.withMenvStage_ctrl (k : Nat) (v : Voice) : (Voice.withMenvStage k v).ctrl = v.ctrl := rfl
@[simp] theorem Voice.withMenvStage_status (k : Nat) (v : Voice) : (Voice.withMenvStage k v).status = v.status := rfl
@[simp] theorem Voice.withMenvStage_channel (k : Nat) (v : Voice) : (Voice.withMenvStage k v).channel = v.channel := rfl
@[simp] theorem Voice.withMenvStage_delay (k : Nat) (v : Voice) : (Voice.withMenvStage k v).delay = v.delay := rfl
@[simp] theorem Voice.withMenvStage_srcBase (k : Nat) (v : Voice) : (Voice.withMenvStage k v).srcBase = v.srcBase := rfl
@[simp] theorem Voice.withMenvStage_cc (k : Nat) (v : Voice) : (Voice.withMenvStage k v).cc = v.cc := rfl
@[simp] theorem Voice.withMenvStage_sendRev (k : Nat) (v : Voice) : (Voice.withMenvStage k v).sendRev = v.sendRev := rfl
@[simp] theorem Voice.withMenvStage_sendCho (k : Nat) (v : Voice) : (Voice.withMenvStage k v).sendCho = v.sendCho := rfl
@[simp] theorem Voice.withMenvStage_sendDly (k : Nat) (v : Voice) : (Voice.withMenvStage k v).sendDly = v.sendDly := rfl
@[simp] theorem Voice.withMenvStage_filtF (k : Nat) (v : Voice) : (Voice.withMenvStage k v).filtF = v.filtF := rfl
@[simp] theorem Voice.withMenvStage_filtQ (k : Nat) (v : Voice) : (Voice.withMenvStage k v).filtQ = v.filtQ := rfl
@[simp] theorem Voice.withMenvStage_filtP (k : Nat) (v : Voice) : (Voice.withMenvStage k v).filtP = v.filtP := rfl
@[simp] theorem Voice.withMenvStage_filtHist (k : Nat) (v : Voice) : (Voice.withMenvStage k v).filtHist = v.filtHist := rfl
@[simp] theorem Voice.withMenvStage_env (k : Nat) (v : Voice) : (Voice.withMenvStage k v).env = v.env := rfl
@[simp] theorem Voice.withMenvStage_lss (k : Nat) (v : Voice) : (Voice.withMenvStage k v).lss = v.lss := rfl
@[simp] theorem Voice.withMenvStage_lsr (k : Nat) (v : Voice) : (Voice.withMenvStage k v).lsr = v.lsr := rfl
@[simp] theorem Voice.withMenvStage_menv (k : Nat) (v : Voice) : (Voice.withMenvStage k v).menv = { v.menv with stage := BitVec.ofNat 32 k } := rfl
@[simp] theorem Voice.withMenvStage_menvOut (k : Nat) (v : Voice) : (Voice.withMenvStage k v).menvOut = v.menvOut := rfl
@[simp] theorem Voice.withMenvStage_trem (k : Nat) (v : Voice) : (Voice.withMenvStage k v).trem = v.trem := rfl
@[simp] theorem Voice.withMenvStage_mix (k : Nat) (v : Voice) : (Voice.withMenvStage k v).mix = v.mix := rfl
@[simp] theorem Voice.withMenvStage_pdly (k : Nat) (v : Voice) : (Voice.withMenvStage k v).pdly = v.pdly := rfl

/-! ### `Voice.withMenvValue` -/

@[simp] theorem Voice.withMenvValue_ctrl (x : Int) (v : Voice) : (Voice.withMenvValue x v).ctrl = v.ctrl := rfl
@[simp] theorem Voice.withMenvValue_status (x : Int) (v : Voice) : (Voice.withMenvValue x v).status = v.status := rfl
@[simp] theorem Voice.withMenvValue_channel (x : Int) (v : Voice) : (Voice.withMenvValue x v).channel = v.channel := rfl
@[simp] theorem Voice.withMenvValue_delay (x : Int) (v : Voice) : (Voice.withMenvValue x v).delay = v.delay := rfl
@[simp] theorem Voice.withMenvValue_srcBase (x : Int) (v : Voice) : (Voice.withMenvValue x v).srcBase = v.srcBase := rfl
@[simp] theorem Voice.withMenvValue_cc (x : Int) (v : Voice) : (Voice.withMenvValue x v).cc = v.cc := rfl
@[simp] theorem Voice.withMenvValue_sendRev (x : Int) (v : Voice) : (Voice.withMenvValue x v).sendRev = v.sendRev := rfl
@[simp] theorem Voice.withMenvValue_sendCho (x : Int) (v : Voice) : (Voice.withMenvValue x v).sendCho = v.sendCho := rfl
@[simp] theorem Voice.withMenvValue_sendDly (x : Int) (v : Voice) : (Voice.withMenvValue x v).sendDly = v.sendDly := rfl
@[simp] theorem Voice.withMenvValue_filtF (x : Int) (v : Voice) : (Voice.withMenvValue x v).filtF = v.filtF := rfl
@[simp] theorem Voice.withMenvValue_filtQ (x : Int) (v : Voice) : (Voice.withMenvValue x v).filtQ = v.filtQ := rfl
@[simp] theorem Voice.withMenvValue_filtP (x : Int) (v : Voice) : (Voice.withMenvValue x v).filtP = v.filtP := rfl
@[simp] theorem Voice.withMenvValue_filtHist (x : Int) (v : Voice) : (Voice.withMenvValue x v).filtHist = v.filtHist := rfl
@[simp] theorem Voice.withMenvValue_env (x : Int) (v : Voice) : (Voice.withMenvValue x v).env = v.env := rfl
@[simp] theorem Voice.withMenvValue_lss (x : Int) (v : Voice) : (Voice.withMenvValue x v).lss = v.lss := rfl
@[simp] theorem Voice.withMenvValue_lsr (x : Int) (v : Voice) : (Voice.withMenvValue x v).lsr = v.lsr := rfl
@[simp] theorem Voice.withMenvValue_menv (x : Int) (v : Voice) : (Voice.withMenvValue x v).menv = { v.menv with value := wordOf (clampEnv x) } := rfl
@[simp] theorem Voice.withMenvValue_menvOut (x : Int) (v : Voice) : (Voice.withMenvValue x v).menvOut = v.menvOut := rfl
@[simp] theorem Voice.withMenvValue_trem (x : Int) (v : Voice) : (Voice.withMenvValue x v).trem = v.trem := rfl
@[simp] theorem Voice.withMenvValue_mix (x : Int) (v : Voice) : (Voice.withMenvValue x v).mix = v.mix := rfl
@[simp] theorem Voice.withMenvValue_pdly (x : Int) (v : Voice) : (Voice.withMenvValue x v).pdly = v.pdly := rfl

/-! ### `Voice.withMenvRamp` -/

@[simp] theorem Voice.withMenvRamp_ctrl (t i : Int) (v : Voice) : (Voice.withMenvRamp t i v).ctrl = v.ctrl := rfl
@[simp] theorem Voice.withMenvRamp_status (t i : Int) (v : Voice) : (Voice.withMenvRamp t i v).status = v.status := rfl
@[simp] theorem Voice.withMenvRamp_channel (t i : Int) (v : Voice) : (Voice.withMenvRamp t i v).channel = v.channel := rfl
@[simp] theorem Voice.withMenvRamp_delay (t i : Int) (v : Voice) : (Voice.withMenvRamp t i v).delay = v.delay := rfl
@[simp] theorem Voice.withMenvRamp_srcBase (t i : Int) (v : Voice) : (Voice.withMenvRamp t i v).srcBase = v.srcBase := rfl
@[simp] theorem Voice.withMenvRamp_cc (t i : Int) (v : Voice) : (Voice.withMenvRamp t i v).cc = v.cc := rfl
@[simp] theorem Voice.withMenvRamp_sendRev (t i : Int) (v : Voice) : (Voice.withMenvRamp t i v).sendRev = v.sendRev := rfl
@[simp] theorem Voice.withMenvRamp_sendCho (t i : Int) (v : Voice) : (Voice.withMenvRamp t i v).sendCho = v.sendCho := rfl
@[simp] theorem Voice.withMenvRamp_sendDly (t i : Int) (v : Voice) : (Voice.withMenvRamp t i v).sendDly = v.sendDly := rfl
@[simp] theorem Voice.withMenvRamp_filtF (t i : Int) (v : Voice) : (Voice.withMenvRamp t i v).filtF = v.filtF := rfl
@[simp] theorem Voice.withMenvRamp_filtQ (t i : Int) (v : Voice) : (Voice.withMenvRamp t i v).filtQ = v.filtQ := rfl
@[simp] theorem Voice.withMenvRamp_filtP (t i : Int) (v : Voice) : (Voice.withMenvRamp t i v).filtP = v.filtP := rfl
@[simp] theorem Voice.withMenvRamp_filtHist (t i : Int) (v : Voice) : (Voice.withMenvRamp t i v).filtHist = v.filtHist := rfl
@[simp] theorem Voice.withMenvRamp_env (t i : Int) (v : Voice) : (Voice.withMenvRamp t i v).env = v.env := rfl
@[simp] theorem Voice.withMenvRamp_lss (t i : Int) (v : Voice) : (Voice.withMenvRamp t i v).lss = v.lss := rfl
@[simp] theorem Voice.withMenvRamp_lsr (t i : Int) (v : Voice) : (Voice.withMenvRamp t i v).lsr = v.lsr := rfl
@[simp] theorem Voice.withMenvRamp_menv (t i : Int) (v : Voice) : (Voice.withMenvRamp t i v).menv = { v.menv with target := wordOf t, inc := wordOf i } := rfl
@[simp] theorem Voice.withMenvRamp_menvOut (t i : Int) (v : Voice) : (Voice.withMenvRamp t i v).menvOut = v.menvOut := rfl
@[simp] theorem Voice.withMenvRamp_trem (t i : Int) (v : Voice) : (Voice.withMenvRamp t i v).trem = v.trem := rfl
@[simp] theorem Voice.withMenvRamp_mix (t i : Int) (v : Voice) : (Voice.withMenvRamp t i v).mix = v.mix := rfl
@[simp] theorem Voice.withMenvRamp_pdly (t i : Int) (v : Voice) : (Voice.withMenvRamp t i v).pdly = v.pdly := rfl

/-! ### `Voice.withMenvInc` -/

@[simp] theorem Voice.withMenvInc_ctrl (i : Int) (v : Voice) : (Voice.withMenvInc i v).ctrl = v.ctrl := rfl
@[simp] theorem Voice.withMenvInc_status (i : Int) (v : Voice) : (Voice.withMenvInc i v).status = v.status := rfl
@[simp] theorem Voice.withMenvInc_channel (i : Int) (v : Voice) : (Voice.withMenvInc i v).channel = v.channel := rfl
@[simp] theorem Voice.withMenvInc_delay (i : Int) (v : Voice) : (Voice.withMenvInc i v).delay = v.delay := rfl
@[simp] theorem Voice.withMenvInc_srcBase (i : Int) (v : Voice) : (Voice.withMenvInc i v).srcBase = v.srcBase := rfl
@[simp] theorem Voice.withMenvInc_cc (i : Int) (v : Voice) : (Voice.withMenvInc i v).cc = v.cc := rfl
@[simp] theorem Voice.withMenvInc_sendRev (i : Int) (v : Voice) : (Voice.withMenvInc i v).sendRev = v.sendRev := rfl
@[simp] theorem Voice.withMenvInc_sendCho (i : Int) (v : Voice) : (Voice.withMenvInc i v).sendCho = v.sendCho := rfl
@[simp] theorem Voice.withMenvInc_sendDly (i : Int) (v : Voice) : (Voice.withMenvInc i v).sendDly = v.sendDly := rfl
@[simp] theorem Voice.withMenvInc_filtF (i : Int) (v : Voice) : (Voice.withMenvInc i v).filtF = v.filtF := rfl
@[simp] theorem Voice.withMenvInc_filtQ (i : Int) (v : Voice) : (Voice.withMenvInc i v).filtQ = v.filtQ := rfl
@[simp] theorem Voice.withMenvInc_filtP (i : Int) (v : Voice) : (Voice.withMenvInc i v).filtP = v.filtP := rfl
@[simp] theorem Voice.withMenvInc_filtHist (i : Int) (v : Voice) : (Voice.withMenvInc i v).filtHist = v.filtHist := rfl
@[simp] theorem Voice.withMenvInc_env (i : Int) (v : Voice) : (Voice.withMenvInc i v).env = v.env := rfl
@[simp] theorem Voice.withMenvInc_lss (i : Int) (v : Voice) : (Voice.withMenvInc i v).lss = v.lss := rfl
@[simp] theorem Voice.withMenvInc_lsr (i : Int) (v : Voice) : (Voice.withMenvInc i v).lsr = v.lsr := rfl
@[simp] theorem Voice.withMenvInc_menv (i : Int) (v : Voice) : (Voice.withMenvInc i v).menv = { v.menv with inc := wordOf i } := rfl
@[simp] theorem Voice.withMenvInc_menvOut (i : Int) (v : Voice) : (Voice.withMenvInc i v).menvOut = v.menvOut := rfl
@[simp] theorem Voice.withMenvInc_trem (i : Int) (v : Voice) : (Voice.withMenvInc i v).trem = v.trem := rfl
@[simp] theorem Voice.withMenvInc_mix (i : Int) (v : Voice) : (Voice.withMenvInc i v).mix = v.mix := rfl
@[simp] theorem Voice.withMenvInc_pdly (i : Int) (v : Voice) : (Voice.withMenvInc i v).pdly = v.pdly := rfl

/-! ### `Voice.withMenvOut` -/

@[simp] theorem Voice.withMenvOut_ctrl (o : Int) (v : Voice) : (Voice.withMenvOut o v).ctrl = v.ctrl ||| filtDirtyMask := rfl
@[simp] theorem Voice.withMenvOut_status (o : Int) (v : Voice) : (Voice.withMenvOut o v).status = v.status := rfl
@[simp] theorem Voice.withMenvOut_channel (o : Int) (v : Voice) : (Voice.withMenvOut o v).channel = v.channel := rfl
@[simp] theorem Voice.withMenvOut_delay (o : Int) (v : Voice) : (Voice.withMenvOut o v).delay = v.delay := rfl
@[simp] theorem Voice.withMenvOut_srcBase (o : Int) (v : Voice) : (Voice.withMenvOut o v).srcBase = v.srcBase := rfl
@[simp] theorem Voice.withMenvOut_cc (o : Int) (v : Voice) : (Voice.withMenvOut o v).cc = v.cc := rfl
@[simp] theorem Voice.withMenvOut_sendRev (o : Int) (v : Voice) : (Voice.withMenvOut o v).sendRev = v.sendRev := rfl
@[simp] theorem Voice.withMenvOut_sendCho (o : Int) (v : Voice) : (Voice.withMenvOut o v).sendCho = v.sendCho := rfl
@[simp] theorem Voice.withMenvOut_sendDly (o : Int) (v : Voice) : (Voice.withMenvOut o v).sendDly = v.sendDly := rfl
@[simp] theorem Voice.withMenvOut_filtF (o : Int) (v : Voice) : (Voice.withMenvOut o v).filtF = v.filtF := rfl
@[simp] theorem Voice.withMenvOut_filtQ (o : Int) (v : Voice) : (Voice.withMenvOut o v).filtQ = v.filtQ := rfl
@[simp] theorem Voice.withMenvOut_filtP (o : Int) (v : Voice) : (Voice.withMenvOut o v).filtP = v.filtP := rfl
@[simp] theorem Voice.withMenvOut_filtHist (o : Int) (v : Voice) : (Voice.withMenvOut o v).filtHist = v.filtHist := rfl
@[simp] theorem Voice.withMenvOut_env (o : Int) (v : Voice) : (Voice.withMenvOut o v).env = v.env := rfl
@[simp] theorem Voice.withMenvOut_lss (o : Int) (v : Voice) : (Voice.withMenvOut o v).lss = v.lss := rfl
@[simp] theorem Voice.withMenvOut_lsr (o : Int) (v : Voice) : (Voice.withMenvOut o v).lsr = v.lsr := rfl
@[simp] theorem Voice.withMenvOut_menv (o : Int) (v : Voice) : (Voice.withMenvOut o v).menv = v.menv := rfl
@[simp] theorem Voice.withMenvOut_menvOut (o : Int) (v : Voice) : (Voice.withMenvOut o v).menvOut = wordOf o := rfl
@[simp] theorem Voice.withMenvOut_trem (o : Int) (v : Voice) : (Voice.withMenvOut o v).trem = v.trem := rfl
@[simp] theorem Voice.withMenvOut_mix (o : Int) (v : Voice) : (Voice.withMenvOut o v).mix = v.mix := rfl
@[simp] theorem Voice.withMenvOut_pdly (o : Int) (v : Voice) : (Voice.withMenvOut o v).pdly = v.pdly := rfl

/-! ### `Voice.withAmp` -/

@[simp] theorem Voice.withAmp_ctrl (a l r : Int) (v : Voice) : (Voice.withAmp a l r v).ctrl = v.ctrl := rfl
@[simp] theorem Voice.withAmp_status (a l r : Int) (v : Voice) : (Voice.withAmp a l r v).status = v.status := rfl
@[simp] theorem Voice.withAmp_channel (a l r : Int) (v : Voice) : (Voice.withAmp a l r v).channel = v.channel := rfl
@[simp] theorem Voice.withAmp_delay (a l r : Int) (v : Voice) : (Voice.withAmp a l r v).delay = v.delay := rfl
@[simp] theorem Voice.withAmp_srcBase (a l r : Int) (v : Voice) : (Voice.withAmp a l r v).srcBase = v.srcBase := rfl
@[simp] theorem Voice.withAmp_cc (a l r : Int) (v : Voice) : (Voice.withAmp a l r v).cc = v.cc := rfl
@[simp] theorem Voice.withAmp_sendRev (a l r : Int) (v : Voice) : (Voice.withAmp a l r v).sendRev = v.sendRev := rfl
@[simp] theorem Voice.withAmp_sendCho (a l r : Int) (v : Voice) : (Voice.withAmp a l r v).sendCho = v.sendCho := rfl
@[simp] theorem Voice.withAmp_sendDly (a l r : Int) (v : Voice) : (Voice.withAmp a l r v).sendDly = v.sendDly := rfl
@[simp] theorem Voice.withAmp_filtF (a l r : Int) (v : Voice) : (Voice.withAmp a l r v).filtF = v.filtF := rfl
@[simp] theorem Voice.withAmp_filtQ (a l r : Int) (v : Voice) : (Voice.withAmp a l r v).filtQ = v.filtQ := rfl
@[simp] theorem Voice.withAmp_filtP (a l r : Int) (v : Voice) : (Voice.withAmp a l r v).filtP = v.filtP := rfl
@[simp] theorem Voice.withAmp_filtHist (a l r : Int) (v : Voice) : (Voice.withAmp a l r v).filtHist = v.filtHist := rfl
@[simp] theorem Voice.withAmp_env (a l r : Int) (v : Voice) : (Voice.withAmp a l r v).env = v.env := rfl
@[simp] theorem Voice.withAmp_lss (a l r : Int) (v : Voice) : (Voice.withAmp a l r v).lss = v.lss := rfl
@[simp] theorem Voice.withAmp_lsr (a l r : Int) (v : Voice) : (Voice.withAmp a l r v).lsr = v.lsr := rfl
@[simp] theorem Voice.withAmp_menv (a l r : Int) (v : Voice) : (Voice.withAmp a l r v).menv = v.menv := rfl
@[simp] theorem Voice.withAmp_menvOut (a l r : Int) (v : Voice) : (Voice.withAmp a l r v).menvOut = v.menvOut := rfl
@[simp] theorem Voice.withAmp_trem (a l r : Int) (v : Voice) : (Voice.withAmp a l r v).trem = v.trem := rfl
@[simp] theorem Voice.withAmp_mix (a l r : Int) (v : Voice) : (Voice.withAmp a l r v).mix = { v.mix with amp := wordOf a, leftMix := wordOf l, rightMix := wordOf r } := rfl
@[simp] theorem Voice.withAmp_pdly (a l r : Int) (v : Voice) : (Voice.withAmp a l r v).pdly = v.pdly := rfl

end Sys2Proof.Machine
end

