-- ==== Sys2Proof/Laws/Envelope.lean ====
section
/-! SUPPORT. Every envelope function completes on every voice, leaves sample RAM as it is, and moves the voice only by
the updates named here: one triple per function, for any relation that those updates keep. -/

namespace Sys2Proof.Machine

open Sys2Proof.Claims

/-- A relation between a voice before and after, kept by the level computation and by freeing. -/
structure AmpMoves (R : Voice → Voice → Prop) : Prop where
  refl : ∀ w, R w w
  trans : ∀ a b c, R a b → R b c → R a c
  freed : ∀ w, R w w.freed
  amp : ∀ a l r w, R w (Voice.withAmp a l r w)

/-- A relation kept by the updates of the amplitude envelope too. -/
structure EnvMoves (R : Voice → Voice → Prop) : Prop extends AmpMoves R where
  stage : ∀ w : Voice, w.env.stage.toNat ≤ 5 → R w (Voice.withEnvStage (w.env.stage.toNat + 1) w)
  ramp : ∀ t i w, R w (Voice.withEnvRamp t i w)
  inc : ∀ i w, R w (Voice.withEnvInc i w)
  last : ∀ x y w, R w (Voice.withLastStage x y w)

/-- A relation kept by the updates of the modulation envelope. -/
structure MenvMoves (R : Voice → Voice → Prop) : Prop where
  refl : ∀ w, R w w
  trans : ∀ a b c, R a b → R b c → R a c
  stage : ∀ w : Voice, w.menv.stage.toNat ≤ 5 → R w (Voice.withMenvStage (w.menv.stage.toNat + 1) w)
  ramp : ∀ t i w, R w (Voice.withMenvRamp t i w)
  inc : ∀ i w, R w (Voice.withMenvInc i w)
  out : ∀ o w, R w (Voice.withMenvOut o w)

/-- What a function that may free the voice leaves: the relation, and the status by its answer
(44_envelope.md R505). -/
def Lives (R : Voice → Voice → Prop) (w : Voice) (died : Bool) (w' : Voice) : Prop :=
  R w w' ∧ w'.status = if died then .free else w.status

/-- What a function that frees no voice leaves. -/
def Moves {α : Type} (R : Voice → Voice → Prop) (w : Voice) (_ : α) (w' : Voice) : Prop :=
  R w w' ∧ w'.status = w.status

/-- What `trem_update` leaves of a tremolo: its increment and its depth (44_envelope.md R530). -/
def TremMoved (t t' : Tremolo) : Prop := t'.inc = t.inc ∧ t'.depth = t.depth

theorem tremMoved_sweptTo (pos : Int) (t : Tremolo) : TremMoved t (t.sweptTo pos) := by
  unfold Tremolo.sweptTo
  split <;> exact ⟨rfl, rfl⟩

variable {s : State} {n : Nat} {R : Voice → Voice → Prop} (hn : n < s.voices.length)

/-- The triples of this file leave sample RAM alone. -/
abbrev DoesV (s : State) (n : Nat) {α : Type} (P : Voice → Prop) (c : Cmd α) (Q : Voice → α → Voice → Prop) : Prop :=
  Does s n (fun m m' => m' = m) P c Q

abbrev any : Voice → Prop := fun _ => True

theorem finalStage_le (w : Voice) : w.finalStage ≤ 5 := by
  unfold Voice.finalStage
  split <;> omega

include hn

theorem does_freeVoice (E : AmpMoves R) : DoesV s n any (freeVoice n) (Lives R) := by
  unfold freeVoice
  refine does_bind memStep_eq (Q := fun w _ w' => w' = w.freed)
    (does_writeVoice memStep_eq hn _ fun _ _ => rfl) ?_
  intro w _ _
  refine does_pure memStep_eq _ ?_
  rintro w' rfl
  exact ⟨E.freed w, rfl⟩

omit hn in
/-- Steps in sequence, the first of which frees no voice. -/
theorem does_then {α β : Type} {c : Cmd α} {k : α → Cmd β} {Q : Voice → β → Voice → Prop}
    (hc : DoesV s n any c (Moves R)) (hk : ∀ a, DoesV s n any (k a) Q)
    (hq : ∀ w w1 b w', R w w1 → w1.status = w.status → Q w1 b w' → Q w b w') : DoesV s n any (c >>= k) Q := by
  refine does_bind memStep_eq hc ?_
  intro w a _ m vs w1 h1
  obtain ⟨b, m', vs', w', e, q, r⟩ := hk a m vs w1 trivial
  exact ⟨b, m', vs', w', e, hq _ _ _ _ h1.1 h1.2 q, r⟩

omit hn in
theorem moves_lives (E : AmpMoves R) (w w1 : Voice) (b : Bool) (w' : Voice) (h : R w w1) (hs : w1.status = w.status)
    (q : Lives R w1 b w') : Lives R w b w' := ⟨E.trans _ _ _ h q.1, by rw [q.2, hs]⟩

omit hn in
theorem moves_moves {α : Type} (ht : ∀ a b c, R a b → R b c → R a c) (w w1 : Voice) (b : α) (w' : Voice) (h : R w w1)
    (hs : w1.status = w.status) (q : Moves R w1 b w') : Moves R w b w' := ⟨ht _ _ _ h q.1, by rw [q.2, hs]⟩

theorem does_releaseRescale (E : EnvMoves R) (rate : Int) : DoesV s n any (releaseRescale n rate) (Moves R) := by
  unfold releaseRescale
  refine does_bind memStep_eq (Q := fun w a w' => a = w ∧ w' = w) (does_readVoice memStep_eq hn fun w _ => ⟨rfl, rfl⟩) ?_
  rintro w _ -
  refine does_bind memStep_eq (Q := fun w1 _ w' => Moves R w () w')
    (does_writeVoice memStep_eq hn _ (by rintro w1 ⟨_, rfl⟩; exact ⟨E.last _ _ _, rfl⟩)) ?_
  rintro w1 _ -
  refine does_bind memStep_eq (Q := fun w1 _ w' => Moves R w () w') (does_fmul memStep_eq _ _ _ fun _ h => h) ?_
  rintro w2 _ -
  exact does_pure memStep_eq _ fun _ h => h

theorem does_envNextStage (E : EnvMoves R) {recompute : Cmd Bool} (hr : DoesV s n any recompute (Lives R)) :
    DoesV s n any (envNextStage recompute n) (Lives R) := by
  unfold envNextStage
  refine does_bind memStep_eq (Q := fun w _ w' => w' = w) (does_getState memStep_eq fun _ _ _ _ => rfl) ?_
  rintro w0 t -
  refine does_bind memStep_eq (Q := fun w a w' => a = w ∧ w' = w ∧ w = w0)
    (does_readVoice memStep_eq hn fun w h => ⟨rfl, rfl, h⟩) ?_
  rintro w v hw0
  subst hw0
  refine does_ite ?_ ?_
  · intro _
    refine does_mono (does_freeVoice hn E.toAmpMoves) (fun _ _ => trivial) ?_
    rintro w1 a w' ⟨_, rfl, _⟩ h
    exact h
  · intro hk
    refine does_bind memStep_eq (Q := fun _ _ w' => Moves R w () w') (does_writeVoice memStep_eq hn _ ?_) ?_
    · rintro w1 ⟨rfl, h, h'⟩
      subst h
      exact ⟨E.stage _ (by have := finalStage_le w1; omega), rfl⟩
    rintro w1 _ -
    refine does_bind memStep_eq (Q := fun _ _ w' => Moves R w () w') (does_fmul memStep_eq _ _ _ fun _ h => h) ?_
    rintro w2 base -
    refine does_bind memStep_eq (Q := fun _ _ w' => Moves R w () w') (does_ite ?_ ?_) ?_
    · intro _
      refine does_mono (does_releaseRescale hn E base) (fun _ _ => trivial) ?_
      intro w3 a w4 h3 h4
      exact moves_moves E.trans _ _ _ _ h3.1 h3.2 h4
    · intro _
      exact does_pure memStep_eq _ fun _ h => h
    rintro w3 rate -
    refine does_ite ?_ ?_
    · intro _
      refine does_mono hr (fun _ _ => trivial) ?_
      intro w4 a w5 h4 h5
      exact moves_lives E.toAmpMoves _ _ _ _ h4.1 h4.2 h5
    · intro _
      refine does_bind memStep_eq (Q := fun _ _ w' => Moves R w () w') (does_writeVoice memStep_eq hn _ ?_) ?_
      · intro w4 h4
        exact ⟨E.trans _ _ _ h4.1 (E.ramp _ _ _), h4.2⟩
      rintro w4 _ -
      exact does_pure memStep_eq _ fun _ h => h

theorem does_sustainDecay (E : EnvMoves R) : DoesV s n any (sustainDecay n) (Moves R) := by
  unfold sustainDecay
  refine does_bind memStep_eq (Q := fun w _ w' => w' = w) (does_getState memStep_eq fun _ _ _ _ => rfl) ?_
  rintro w0 t -
  refine does_bind memStep_eq (Q := fun w a w' => a = w ∧ w' = w ∧ w = w0)
    (does_readVoice memStep_eq hn fun w h => ⟨rfl, rfl, h⟩) ?_
  rintro w v hw0
  subst hw0
  refine does_ite ?_ ?_
  · intro _
    refine does_pure memStep_eq _ ?_
    rintro w1 ⟨_, rfl, _⟩
    exact ⟨E.refl _, rfl⟩
  · intro _
    split
    · refine does_bind memStep_eq (Q := fun _ _ w' => Moves R w () w') (does_writeVoice memStep_eq hn _ ?_) ?_
      · rintro w1 ⟨_, rfl, _⟩
        exact ⟨E.inc _ _, rfl⟩
      rintro w1 _ -
      exact does_pure memStep_eq _ fun _ h => h
    · refine does_bind memStep_eq (Q := fun _ _ w' => Moves R w () w') (does_writeVoice memStep_eq hn _ ?_) ?_
      · rintro w1 ⟨_, rfl, _⟩
        exact ⟨E.ramp _ _ _, rfl⟩
      rintro w1 _ -
      exact does_pure memStep_eq _ fun _ h => h

theorem does_envRecompute (E : EnvMoves R) (fuel : Nat) : DoesV s n any (envRecompute fuel n) (Lives R) := by
  induction fuel with
  | zero => exact does_pure memStep_eq _ fun w _ => ⟨E.refl w, rfl⟩
  | succ f ih =>
    unfold envRecompute
    refine does_bind memStep_eq (Q := fun w a w' => a = w ∧ w' = w) (does_readVoice memStep_eq hn fun w _ => ⟨rfl, rfl⟩) ?_
    rintro w v -
    have same : ∀ {c : Cmd Bool}, DoesV s n any c (Lives R) →
        Does s n (fun m m' => m' = m) (fun w' => v = w ∧ w' = w) c fun _ b w' => Lives R w b w' := by
      intro c hc
      refine does_mono hc (fun _ _ => trivial) ?_
      rintro w1 a w' ⟨_, rfl⟩ h
      exact h
    refine does_ite (fun _ => same (does_freeVoice hn E.toAmpMoves)) fun _ => ?_
    refine does_ite (fun _ => same (does_freeVoice hn E.toAmpMoves)) fun _ => ?_
    refine does_ite (fun _ => ?_) fun _ => same (does_envNextStage hn E ih)
    refine same ?_
    refine does_then (does_sustainDecay hn E) (fun r => ?_) (moves_lives E.toAmpMoves)
    exact does_ite (fun _ => does_envNextStage hn E ih) fun _ => does_pure memStep_eq _ fun w _ => ⟨E.refl w, rfl⟩

theorem does_envUpdate (E : EnvMoves R) (hv : ∀ x w, R w (Voice.withEnvValue x w)) :
    DoesV s n any (envUpdate n) (Lives R) := by
  unfold envUpdate
  refine does_bind memStep_eq (Q := fun w a w' => a = w ∧ w' = w) (does_readVoice memStep_eq hn fun w _ => ⟨rfl, rfl⟩) ?_
  rintro w v -
  refine does_ite ?_ ?_
  · intro _
    refine does_pure memStep_eq _ ?_
    rintro w' ⟨_, rfl⟩
    exact ⟨E.refl _, rfl⟩
  · intro _
    refine does_bind memStep_eq (Q := fun _ _ w' => Moves R w () w') (does_writeVoice memStep_eq hn _ ?_) ?_
    · rintro w1 ⟨_, rfl⟩
      exact ⟨hv _ _, rfl⟩
    rintro w1 _ -
    refine does_ite ?_ ?_
    · intro _
      refine does_bind memStep_eq (Q := fun _ _ w' => Moves R w () w') (does_writeVoice memStep_eq hn _ ?_) ?_
      · intro w2 h2
        exact ⟨E.trans _ _ _ h2.1 (hv _ _), h2.2⟩
      rintro w2 _ -
      refine does_mono (does_envRecompute hn E _) (fun _ _ => trivial) ?_
      intro w3 a w4 h3 h4
      exact moves_lives E.toAmpMoves _ _ _ _ h3.1 h3.2 h4
    · intro _
      exact does_pure memStep_eq _ fun _ h => h

omit hn in
/-- A sum of tremolo, quiet or not, changes no register of the voice. -/
theorem does_tremSum {P : Voice → Prop} {Q : Voice → Int → Voice → Prop} (quiet : Bool) (sum : Int)
    (h : ∀ w, P w → Q w (narrow sum) w) : DoesV s n P (tremSum quiet sum) Q := by
  refine does_ite (fun _ => ?_) fun _ => does_sat32 memStep_eq _ h
  rw [← narrow_eq]
  exact does_pure memStep_eq _ h

omit hn in
theorem does_sweep (quiet : Bool) (t : Tremolo) : DoesV s n any (Tremolo.sweep quiet t) fun w t' w' => TremMoved t t' ∧ w' = w := by
  unfold Tremolo.sweep
  refine does_ite (fun _ => does_pure memStep_eq _ fun w _ => ⟨⟨rfl, rfl⟩, rfl⟩) fun _ => ?_
  refine does_bind memStep_eq (Q := fun w _ w' => w' = w) (does_tremSum quiet _ fun _ _ => rfl) ?_
  rintro w pos -
  refine does_pure memStep_eq _ ?_
  rintro w' rfl
  exact ⟨tremMoved_sweptTo pos t, rfl⟩

theorem does_tremUpdate (quiet : Bool) (hr : ∀ (w : Voice) t, TremMoved w.trem t → R w { w with trem := t }) :
    DoesV s n any (tremUpdate quiet n) (Moves R) := by
  unfold tremUpdate
  refine does_bind memStep_eq (Q := fun w a w' => a = w ∧ w' = w) (does_readVoice memStep_eq hn fun w _ => ⟨rfl, rfl⟩) ?_
  rintro w v -
  refine does_bind memStep_eq (Q := fun _ t w' => TremMoved w.trem t ∧ w' = w) ?_ ?_
  · refine does_mono (does_sweep quiet v.trem) (fun _ _ => trivial) ?_
    rintro w0 t w1 ⟨rfl, rfl⟩ ⟨h, rfl⟩
    exact ⟨h, rfl⟩
  rintro w0 t -
  refine does_bind memStep_eq (Q := fun _ _ w' => TremMoved w.trem t ∧ w' = w) (does_fmul memStep_eq _ _ _ fun _ h => h) ?_
  rintro w1 d -
  refine does_bind memStep_eq (Q := fun _ _ w' => TremMoved w.trem t ∧ w' = w) (does_bind memStep_eq (Q := fun _ _ w' => TremMoved w.trem t ∧ w' = w)
    (does_tabRead memStep_eq _ fun _ h => h) fun _ _ _ => does_pure memStep_eq _ fun _ h => h) ?_
  rintro w2 x -
  refine does_bind memStep_eq (Q := fun _ _ w' => TremMoved w.trem t ∧ w' = w) (does_fmul memStep_eq _ _ _ fun _ h => h) ?_
  rintro w3 p -
  refine does_bind memStep_eq (Q := fun _ _ w' => TremMoved w.trem t ∧ w' = w) (does_tremSum quiet _ fun _ h => h) ?_
  rintro w4 m -
  refine does_writeVoice memStep_eq hn _ ?_
  rintro w5 ⟨h, rfl⟩
  exact ⟨hr _ _ ⟨h.1, h.2⟩, rfl⟩

theorem does_menvRecompute (E : MenvMoves R) (fuel : Nat) : DoesV s n any (menvRecompute fuel n) (Moves R) := by
  induction fuel with
  | zero => exact does_pure memStep_eq _ fun w _ => ⟨E.refl w, rfl⟩
  | succ f ih =>
    unfold menvRecompute
    refine does_bind memStep_eq (Q := fun w a w' => a = w ∧ w' = w) (does_readVoice memStep_eq hn fun w _ => ⟨rfl, rfl⟩) ?_
    rintro w v -
    refine does_ite ?_ fun hk => does_ite ?_ fun _ => ?_
    · intro _
      refine does_writeVoice memStep_eq hn _ ?_
      rintro w1 ⟨_, rfl⟩
      exact ⟨E.inc _ _, rfl⟩
    · intro _
      refine does_writeVoice memStep_eq hn _ ?_
      rintro w1 ⟨_, rfl⟩
      exact ⟨E.inc _ _, rfl⟩
    · refine does_bind memStep_eq (Q := fun _ _ w' => Moves R w () w') (does_writeVoice memStep_eq hn _ ?_) ?_
      · rintro w1 ⟨rfl, h⟩
        subst h
        exact ⟨E.stage _ (by have := finalStage_le w1; omega), rfl⟩
      rintro w1 _ -
      refine does_bind memStep_eq (Q := fun _ _ w' => Moves R w () w') (does_fmul memStep_eq _ _ _ fun _ h => h) ?_
      rintro w2 rate -
      refine does_ite ?_ ?_
      · intro _
        refine does_mono ih (fun _ _ => trivial) ?_
        intro w3 a w4 h3 h4
        exact moves_moves E.trans _ _ _ _ h3.1 h3.2 h4
      · intro _
        refine does_writeVoice memStep_eq hn _ ?_
        intro w3 h3
        exact ⟨E.trans _ _ _ h3.1 (E.ramp _ _ _), h3.2⟩

theorem does_menvUpdate (E : MenvMoves R) (hv : ∀ x w, R w (Voice.withMenvValue x w)) :
    DoesV s n any (menvUpdate n) (Moves R) := by
  unfold menvUpdate
  refine does_bind memStep_eq (Q := fun w a w' => a = w ∧ w' = w) (does_readVoice memStep_eq hn fun w _ => ⟨rfl, rfl⟩) ?_
  rintro w v -
  refine does_ite ?_ ?_
  · intro _
    refine does_pure memStep_eq _ ?_
    rintro w' ⟨_, rfl⟩
    exact ⟨E.refl _, rfl⟩
  · intro _
    refine does_bind memStep_eq (Q := fun _ _ w' => Moves R w () w') (does_writeVoice memStep_eq hn _ ?_) ?_
    · rintro w1 ⟨_, rfl⟩
      exact ⟨hv _ _, rfl⟩
    rintro w1 _ -
    refine does_ite ?_ ?_
    · intro _
      refine does_bind memStep_eq (Q := fun _ _ w' => Moves R w () w') (does_writeVoice memStep_eq hn _ ?_) ?_
      · intro w2 h2
        exact ⟨E.trans _ _ _ h2.1 (hv _ _), h2.2⟩
      rintro w2 _ -
      refine does_mono (does_menvRecompute hn E _) (fun _ _ => trivial) ?_
      intro w3 a w4 h3 h4
      exact moves_moves E.trans _ _ _ _ h3.1 h3.2 h4
    · intro _
      exact does_pure memStep_eq _ fun _ h => h

theorem does_menvApply (E : MenvMoves R) : DoesV s n any (menvApply n) (Moves R) := by
  unfold menvApply
  refine does_bind memStep_eq (Q := fun w a w' => a = w ∧ w' = w) (does_readVoice memStep_eq hn fun w _ => ⟨rfl, rfl⟩) ?_
  rintro w v -
  refine does_ite ?_ ?_
  · intro _
    refine does_writeVoice memStep_eq hn _ ?_
    rintro w1 ⟨_, rfl⟩
    exact ⟨E.out _ _, rfl⟩
  · intro _
    refine does_pure memStep_eq _ ?_
    rintro w1 ⟨_, rfl⟩
    exact ⟨E.refl _, rfl⟩

omit hn in
theorem does_modulate (hr : ∀ w, R w w) {body : Cmd Unit} (hb : DoesV s n any body (Moves R)) :
    DoesV s n any (modulate body) (Moves R) := by
  unfold modulate
  refine does_bind memStep_eq (Q := fun w _ w' => w' = w) (does_getState memStep_eq fun _ _ _ _ => rfl) ?_
  rintro w t -
  refine does_ite ?_ ?_
  · intro _
    refine does_mono hb (fun _ _ => trivial) ?_
    rintro w1 a w' rfl h
    exact h
  · intro _
    refine does_pure memStep_eq _ ?_
    rintro w1 rfl
    exact ⟨hr _, rfl⟩

omit hn in
/-- Two steps that free no voice. -/
theorem does_two (ht : ∀ a b c, R a b → R b c → R a c) {c d : Cmd Unit} (hc : DoesV s n any c (Moves R))
    (hd : DoesV s n any d (Moves R)) : DoesV s n any (c >>= fun _ => d) (Moves R) := by
  refine does_bind memStep_eq hc ?_
  intro w a _
  refine does_mono hd (fun _ _ => trivial) ?_
  intro w1 b w' h1 h2
  exact moves_moves ht _ _ _ _ h1.1 h1.2 h2

omit hn in
theorem does_envTable (b : Nat) (e : Int) {P : Voice → Prop} :
    DoesV s n P (envTable b e) (fun w _ w' => w' = w) := by
  unfold envTable
  refine does_bind memStep_eq (Q := fun w _ w' => w' = w) (does_tabRead memStep_eq _ fun _ _ => rfl) ?_
  rintro w x -
  exact does_pure memStep_eq _ fun _ h => h

omit hn in
theorem does_envLevel (v : Voice) {P : Voice → Prop} : DoesV s n P (envLevel v) (fun w _ w' => w' = w) := by
  unfold envLevel
  refine does_ite (fun _ => does_envTable _ _) fun _ => does_ite (fun _ => does_envTable _ _) fun _ => ?_
  refine does_bind memStep_eq (Q := fun w _ w' => w' = w) (does_fmul memStep_eq _ _ _ fun _ _ => rfl) ?_
  rintro w r -
  refine does_bind memStep_eq (Q := fun _ _ w' => w' = w) ?_ ?_
  · refine does_mono (does_envTable _ _ (P := fun w' => w' = w)) (fun _ h => h) ?_
    rintro w1 a w2 rfl rfl
    rfl
  · rintro w1 a -
    exact does_fmul memStep_eq _ _ _ fun _ h => h

theorem does_envAmp (E : AmpMoves R) : DoesV s n any (envAmp n) (Lives R) := by
  unfold envAmp
  refine does_bind memStep_eq (Q := fun w a w' => a = w ∧ w' = w) (does_readVoice memStep_eq hn fun w _ => ⟨rfl, rfl⟩) ?_
  rintro w v -
  refine does_bind memStep_eq (Q := fun _ _ w' => w' = w) ?_ ?_
  · refine does_mono (does_envLevel v (P := fun w' => v = w ∧ w' = w)) (fun _ h => h) ?_
    rintro w1 a w2 ⟨_, rfl⟩ rfl
    rfl
  rintro w1 lv -
  refine does_bind memStep_eq (Q := fun _ _ w' => w' = w)
    (does_ite (fun _ => does_fmul memStep_eq _ _ _ fun _ h => h) fun _ => does_pure memStep_eq _ fun _ h => h) ?_
  rintro w2 a -
  refine does_bind memStep_eq (Q := fun _ _ w' => w' = w) (does_fmul memStep_eq _ _ _ fun _ h => h) ?_
  rintro w3 l -
  refine does_bind memStep_eq (Q := fun _ _ w' => w' = w) (does_fmul memStep_eq _ _ _ fun _ h => h) ?_
  rintro w4 r -
  refine does_bind memStep_eq (Q := fun _ _ w' => Moves R w () w') (does_writeVoice memStep_eq hn _ ?_) ?_
  · rintro w5 rfl
    exact ⟨E.amp _ _ _ _, rfl⟩
  rintro w5 _ -
  refine does_ite ?_ ?_
  · intro _
    refine does_mono (does_freeVoice hn E) (fun _ _ => trivial) ?_
    intro w6 b w7 h6 h7
    exact moves_lives E _ _ _ _ h6.1 h6.2 h7
  · intro _
    exact does_pure memStep_eq _ fun _ h => h

/-- The turns after the amplitude envelope's own (44_envelope.md R555). -/
theorem does_afterUpdate (quiet : Bool) (v : Voice) (E : AmpMoves R) (F : MenvMoves R)
    (hm : ∀ x w, R w (Voice.withMenvValue x w))
    (ht : ∀ (w : Voice) t, TremMoved w.trem t → R w { w with trem := t }) :
    DoesV s n any (do
      (if v.tremEn = true ∧ v.trem.inc ≠ 0 then tremUpdate quiet n else pure ())
      modulate (do
        menvUpdate n
        menvApply n)
      envAmp n) (Lives R) := by
  refine does_then (does_ite (fun _ => does_tremUpdate hn quiet ht) fun _ =>
    does_pure memStep_eq _ fun w _ => ⟨E.refl w, rfl⟩) (fun _ => ?_) (moves_lives E)
  exact does_then (does_modulate F.refl (does_two F.trans (does_menvUpdate hn F hm)
    (does_menvApply hn F))) (fun _ => does_envAmp hn E) (moves_lives E)

theorem does_updateSignal (quiet : Bool) (E : EnvMoves R) (F : MenvMoves R)
    (hv : ∀ x w, R w (Voice.withEnvValue x w))
    (hm : ∀ x w, R w (Voice.withMenvValue x w))
    (ht : ∀ (w : Voice) t, TremMoved w.trem t → R w { w with trem := t }) :
    DoesV s n any (updateSignal quiet n) (Lives R) := by
  unfold updateSignal
  refine does_bind memStep_eq (does_envUpdate hn E hv) ?_
  intro w died _
  refine does_ite ?_ ?_
  · intro hd
    refine does_pure memStep_eq _ ?_
    intro w' h
    rw [hd] at h
    exact h
  · intro hd
    refine does_bind memStep_eq (Q := fun w1 a w' => a = w1 ∧ w' = w1)
      (does_readVoice memStep_eq hn fun _ _ => ⟨rfl, rfl⟩) ?_
    intro w1 v h1
    have h1' : R w w1 ∧ w1.status = w.status := by
      obtain ⟨a, b⟩ := h1
      rw [if_neg hd] at b
      exact ⟨a, b⟩
    refine does_mono (does_afterUpdate hn quiet v E.toAmpMoves F hm ht) (fun _ _ => trivial) ?_
    rintro w2 b w3 ⟨_, rfl⟩ h3
    exact moves_lives E.toAmpMoves _ _ _ _ h1'.1 h1'.2 h3

end Sys2Proof.Machine
end

