-- ==== Sys2Proof/Laws/Filter.lean ====
section
/-! SUPPORT. One step of each resonant filter in the terms of the statements. -/

namespace Sys2Proof.Machine

open Sys2Proof.Claims

/-- One Chamberlin step (43_filters.md R450). -/
theorem svfStep_ok (f q : Int) (h : Hist) (x : Int) (s : State) :
    let band := h.h1.toInt
    let p := scaled 24 f band
    let low := h.h0.toInt + narrow p
    let d := x - narrow low
    let r := scaled 24 q band
    let high := narrow d - narrow r
    let g := scaled 24 f (narrow high)
    let band' := band + narrow g
    svfStep f q h x s = .ok (narrow low, { h with h0 := wordOf (narrow low), h1 := wordOf (narrow band') })
      (s.narrowed [p, low, d, r, high, g, band']) := by
  intro band p low d r high g band'
  unfold svfStep
  simp only [bind_run, fmul_ok, sat32_ok, State.narrowed_narrowed, List.cons_append, List.nil_append, pure_run]
  rfl

/-- What one pole of the ladder answers before it is narrowed (43_filters.md R455). -/
def ladderExact (f p a b old : Int) : Int := narrow (scaled 24 (narrow (a + b)) p) - narrow (scaled 24 old f)

/-- The numbers that one pole of the ladder narrows. -/
def ladderChecks (f p a b old : Int) : List Int :=
  [a + b, scaled 24 (narrow (a + b)) p, scaled 24 old f, ladderExact f p a b old]

theorem ladderPole_ok (f p a b old : Int) (s : State) :
    ladderPole f p a b old s = .ok (narrow (ladderExact f p a b old)) (s.narrowed (ladderChecks f p a b old)) := by
  unfold ladderPole ladderChecks
  simp only [bind_run, fmul_ok, sat32_ok, State.narrowed_narrowed, List.cons_append, List.nil_append]
  rfl

/-- One Moog ladder step (43_filters.md R455). -/
theorem moogStep_ok (f p q : Int) (h : Hist) (x : Int) (s : State) :
    let r := scaled 24 q h.h4.toInt
    let xx := x - narrow r
    let b1 := ladderExact f p (narrow xx) h.h0.toInt h.h1.toInt
    let b2 := ladderExact f p (narrow b1) h.h1.toInt h.h2.toInt
    let b3 := ladderExact f p (narrow b2) h.h2.toInt h.h3.toInt
    let b4 := ladderExact f p (narrow b3) h.h3.toInt h.h4.toInt
    moogStep f p q h x s = .ok (narrow b4,
        { h0 := wordOf (narrow xx), h1 := wordOf (narrow b1), h2 := wordOf (narrow b2), h3 := wordOf (narrow b3),
          h4 := wordOf (narrow b4) })
      (s.narrowed ([r, xx] ++ ladderChecks f p (narrow xx) h.h0.toInt h.h1.toInt ++
        ladderChecks f p (narrow b1) h.h1.toInt h.h2.toInt ++ ladderChecks f p (narrow b2) h.h2.toInt h.h3.toInt ++
        ladderChecks f p (narrow b3) h.h3.toInt h.h4.toInt)) := by
  intro r xx b1 b2 b3 b4
  unfold moogStep
  simp only [bind_run, fmul_ok, sat32_ok, ladderPole_ok, State.narrowed_narrowed, pure_run]
  rfl

end Sys2Proof.Machine
end

