-- ==== Sys2Proof/Laws/Layout.lean ====
section
/-! SUPPORT. Where the lines of a fresh effect lie. -/

namespace Sys2Proof.Machine

open Sys2Proof.Claims

/-- Lines laid out from a base, their total below the end of sample RAM: each is allocated, empty, inside the region,
and has its length. -/
theorem layLines_spec (words base0 total : Nat) (hw : words ≤ 2 ^ 24) (ht : base0 + total ≤ words) (lens : List Nat) :
    ∀ base, base0 ≤ base → base + lens.sum ≤ base0 + total → (∀ n ∈ lens, 1 ≤ n ∧ n ≤ 2 ^ 24) →
      (layLines base lens).map (fun l => l.len.toNat) = lens ∧
      ∀ l ∈ layLines base lens, lineOk words l = true ∧ l.wpt = 0 ∧ base0 ≤ l.base.toNat ∧
        l.base.toNat + l.len.toNat ≤ base0 + total := by
  induction lens with
  | nil => exact fun _ _ _ _ => ⟨rfl, fun _ h => absurd h List.not_mem_nil⟩
  | cons n rest ih =>
    intro base hb hs hn
    rw [List.sum_cons] at hs
    have h1 := hn n List.mem_cons_self
    obtain ⟨e, hr⟩ := ih (base + n) (by omega) (by omega) fun k hk => hn k (List.mem_cons_of_mem _ hk)
    have hbase : (BitVec.ofNat 32 base).toNat = base := by rw [BitVec.toNat_ofNat]; omega
    have hlen : (BitVec.ofNat 32 n).toNat = n := by rw [BitVec.toNat_ofNat]; omega
    refine ⟨?_, ?_⟩
    · show (BitVec.ofNat 32 n).toNat :: (layLines (base + n) rest).map _ = _
      rw [hlen, e]
    · intro l hl
      rcases List.mem_cons.1 hl with rfl | hl
      · refine ⟨?_, rfl, ?_, ?_⟩
        · rw [lineOk_iff]
          show 1 ≤ (BitVec.ofNat 32 n).toNat ∧ (BitVec.ofNat 32 n).toNat ≤ _ ∧
            (BitVec.ofNat 32 base).toNat + (BitVec.ofNat 32 n).toNat ≤ _ ∧ (0 : Word).toNat < (BitVec.ofNat 32 n).toNat
          rw [hbase, hlen]
          exact ⟨h1.1, h1.2, by omega, by show 0 < n; omega⟩
        · show _ ≤ (BitVec.ofNat 32 base).toNat
          omega
        · show (BitVec.ofNat 32 base).toNat + (BitVec.ofNat 32 n).toNat ≤ _
          omega
      · exact hr l hl

theorem layLines_length (lens : List Nat) : ∀ base, (layLines base lens).length = lens.length := by
  induction lens with
  | nil => exact fun _ => rfl
  | cons n rest ih => exact fun base => congrArg (· + 1) (ih _)

/-- The lines of a fresh record are the lines it was built over, as many as its engine needs. -/
theorem recordLines_engineFresh (sampleRate : Nat) (x : Slot) (base : Nat) (h : hasEngine x = true) :
    recordLines (engineFresh x (layLines base (engineLengths sampleRate x))) =
      layLines base (engineLengths sampleRate x) := by
  have hlen := layLines_length (engineLengths sampleRate x) base
  generalize hls : layLines base (engineLengths sampleRate x) = ls at *
  have ht : x.fxType.toNat = 1 ∨ x.fxType.toNat = 2 ∨ x.fxType.toNat = 3 ∨ x.fxType.toNat = 4 := by
    unfold hasEngine at h
    have := of_decide_eq_true h
    omega
  rcases ht with e | e | e | e
  · have hn : ls.length = 24 := by
      rw [hlen]
      unfold engineLengths
      rw [e]
      rfl
    unfold engineFresh
    rw [e]
    simp only [freeverbFresh, recordLines, List.map_map]
    have id' : ∀ xs : List Line, List.map ((fun c : CombLine => c.line) ∘ fun l => ({ line := l, st := 0 } : CombLine)) xs = xs :=
      fun xs => List.map_id xs
    rw [id', id']
    match ls, hn with
    | [_, _, _, _, _, _, _, _, _, _, _, _, _, _, _, _, _, _, _, _, _, _, _, _], _ => rfl
  · unfold engineFresh
    rw [e]
    simp only [plateFresh, recordLines]
    have hl2 : engineLengths sampleRate x = plateLengths sampleRate x.params := by
      unfold engineLengths
      rw [e]
      rfl
    by_cases hp : paramU x.params 9 > 0
    · have hn : ls.length = 13 := by
        rw [hlen, hl2]
        unfold plateLengths
        rw [if_pos hp]
        rfl
      simp only [hp, if_true]
      match ls, hn with
      | [_, _, _, _, _, _, _, _, _, _, _, _, _], _ => rfl
    · have hn : ls.length = 12 := by
        rw [hlen, hl2]
        unfold plateLengths
        rw [if_neg hp]
        rfl
      simp only [hp, if_false]
      match ls, hn with
      | [_, _, _, _, _, _, _, _, _, _, _, _], _ => rfl
  · have hn : ls.length = 2 := by
      rw [hlen]
      unfold engineLengths
      rw [e]
      rfl
    unfold engineFresh
    rw [e]
    match ls, hn with
    | [_, _], _ => rfl
  · have hn : ls.length = 1 := by
      rw [hlen]
      unfold engineLengths
      rw [e]
      rfl
    unfold engineFresh
    rw [e]
    match ls, hn with
    | [_], _ => rfl

/-- What the allocation test of a slot says (46_effects.md R705). -/
theorem slotAllocates_iff (s : State) (x : Slot) (lens : List Nat) : slotAllocates s x lens = true ↔
    (∀ l ∈ lens, 1 ≤ l ∧ l ≤ 2 ^ 24) ∧ (lens.sum : Int) ≤ x.limit.toInt ∧ x.base.toNat + lens.sum ≤ s.sramWords := by
  unfold slotAllocates maxLineLength
  simp only [Bool.and_eq_true, List.all_eq_true, decide_eq_true_eq]

/-- Building the effect of a slot whose type names an engine: bypassed, built, or halted (46_effects.md R705, R707). -/
theorem buildSlot_run (s : State) (x : Slot) (i : Nat) (hx : s.slots[i]? = some x) (he : hasEngine x = true) :
    let lens := engineLengths s.sampleRate.toNat x
    let failed : Fault := .alloc (totalInfo lens.sum)
    buildSlot i s =
      if engineValid x = false then
        .ok () { s with slots := s.slots.set i { x with used := 0, record := .bypassed } }
      else if slotAllocates s x lens = true then
        .ok () { s with
          sram := memZeroWords s.sram x.base.toNat lens.sum,
          slots := s.slots.set i { x with
            used := BitVec.ofNat 32 lens.sum, record := engineFresh x (layLines x.base.toNat lens) } }
      else .error failed (takeFatal failed { s with
        slots := s.slots.set i { x with used := 0, record := .empty } }) := by
  intro lens failed
  have hi : i < s.slots.length := (List.getElem?_eq_some_iff.1 hx).1
  have hm : ∀ f : Slot → Slot, s.slots.modify i f = s.slots.set i (f x) := by
    intro f
    rw [List.modify_eq_set_getElem?, hx]
    rfl
  unfold buildSlot
  rw [bind_of_ok (update_run _ _), bind_of_ok (getState_run _)]
  simp only [hm]
  have hsl : State.slotAt { s with slots := s.slots.set i (discardSlot x) } i = discardSlot x := by
    unfold State.slotAt
    rw [List.getElem?_set_self hi]
    rfl
  have e1 : hasEngine (discardSlot x) = true := he
  have e2 : engineValid (discardSlot x) = engineValid x := rfl
  rw [hsl, e1, e2]
  simp only [Bool.not_true, Bool.false_eq_true, if_false]
  cases engineValid x with
  | false =>
    simp only [Bool.not_false, if_true]
    show EStateM.Result.ok () _ = _
    unfold State.setSlot
    simp only [List.set_set, discardSlot]
  | true =>
    simp only [Bool.not_true, Bool.false_eq_true, if_false, Bool.true_eq_false]
    show (if slotAllocates s x lens = true then _ else _ : Cmd Unit) _ = _
    split
    · rw [bind_of_ok (update_run _ _), update_run]
      unfold State.setSlot
      simp only [List.set_set, discardSlot]
      rfl
    · rfl

end Sys2Proof.Machine
end

