-- ==== Sys2Proof/Laws/Mixer.lean ====
section
/-! SUPPORT. Every mixer function completes when the addresses it forms lie in sample RAM, consumes the frames named,
and stores only to the words that `Claims.mixWord` names: one triple per function. -/

namespace Sys2Proof.Machine

open Sys2Proof.Claims

/-- Where a voice stands after consuming `k` source frames of a MIXV on the voice `v`: what the addresses and the pan
law depend on is as it was. -/
structure MixAt (s : State) (v : Voice) (k : Nat) (w : Voice) : Prop where
  src : w.srcBase.toNat = v.srcBase.toNat + k
  pan : w.panMode = v.panMode
  rev : w.sendRev = v.sendRev
  cho : w.sendCho = v.sendCho
  dly : w.sendDly = v.sendDly
  base : w.pdly.base = v.pdly.base
  len : w.pdly.len = v.pdly.len
  cursors : panDelayOn s v = true → w.pdly.wpt.toNat < v.pdly.len.toNat ∧ w.pdly.rpt.toNat < v.pdly.len.toNat

/-- The voice moved by updates that the mixer's addresses do not depend on. -/
def SameMix (w w' : Voice) : Prop :=
  w'.srcBase = w.srcBase ∧ w'.panMode = w.panMode ∧ w'.sendRev = w.sendRev ∧ w'.sendCho = w.sendCho ∧
    w'.sendDly = w.sendDly ∧ w'.pdly = w.pdly

theorem MixAt.same {s : State} {v : Voice} {k : Nat} {w w' : Voice} (h : MixAt s v k w) (e : SameMix w w') :
    MixAt s v k w' := by
  obtain ⟨e1, e2, e3, e4, e5, e6⟩ := e
  exact ⟨by rw [e1, h.src], by rw [e2, h.pan], by rw [e3, h.rev], by rw [e4, h.cho], by rw [e5, h.dly],
    by rw [e6, h.base], by rw [e6, h.len], by rw [e6]; exact h.cursors⟩

theorem SameMix.refl (w : Voice) : SameMix w w := ⟨rfl, rfl, rfl, rfl, rfl, rfl⟩

theorem SameMix.trans {a b c : Voice} (h : SameMix a b) (h' : SameMix b c) : SameMix a c :=
  ⟨h'.1.trans h.1, h'.2.1.trans h.2.1, h'.2.2.1.trans h.2.2.1, h'.2.2.2.1.trans h.2.2.2.1,
    h'.2.2.2.2.1.trans h.2.2.2.2.1, h'.2.2.2.2.2.trans h.2.2.2.2.2⟩

/-- The pan mode does not depend on bits above it. -/
theorem panMode_or (w : Voice) (m : Word) (hm : m.extractLsb' 1 2 = 0) :
    ({ w with ctrl := w.ctrl ||| m } : Voice).panMode = w.panMode := by
  unfold Voice.panMode
  have : (w.ctrl ||| m).extractLsb' 1 2 = w.ctrl.extractLsb' 1 2 ||| m.extractLsb' 1 2 := BitVec.extractLsb'_or
  simp only [this, hm]
  exact congrArg BitVec.toNat BitVec.or_zero

theorem sameMix_amp : AmpMoves SameMix where
  refl := SameMix.refl
  trans := fun _ _ _ => SameMix.trans
  freed := fun w => ⟨rfl, panMode_or w _ (by decide), rfl, rfl, rfl, rfl⟩
  amp := fun _ _ _ _ => ⟨rfl, rfl, rfl, rfl, rfl, rfl⟩

theorem sameMix_env : EnvMoves SameMix where
  toAmpMoves := sameMix_amp
  stage := fun _ _ => ⟨rfl, rfl, rfl, rfl, rfl, rfl⟩
  ramp := fun _ _ _ => ⟨rfl, rfl, rfl, rfl, rfl, rfl⟩
  inc := fun _ _ => ⟨rfl, rfl, rfl, rfl, rfl, rfl⟩
  last := fun _ _ _ => ⟨rfl, rfl, rfl, rfl, rfl, rfl⟩

theorem sameMix_menv : MenvMoves SameMix where
  refl := SameMix.refl
  trans := fun _ _ _ => SameMix.trans
  stage := fun _ _ => ⟨rfl, rfl, rfl, rfl, rfl, rfl⟩
  ramp := fun _ _ _ => ⟨rfl, rfl, rfl, rfl, rfl, rfl⟩
  inc := fun _ _ => ⟨rfl, rfl, rfl, rfl, rfl, rfl⟩
  out := fun _ w => ⟨rfl, panMode_or w _ (by decide), rfl, rfl, rfl, rfl⟩

/-! ### Addresses -/

variable {s : State} {n : Nat} {v : Voice} {off cnt : Nat}

/-- A frame's word lies in its buffer and in sample RAM. -/
theorem frameAddress_toNat {base f : Word} {side : Side} (hw : s.sramWords ≤ 2 ^ 24)
    (hf : framesOk s.sramWords base off cnt = true) (h : off ≤ f.toNat ∧ f.toNat < off + cnt) :
    (frameAddress base f side).toNat < s.sramWords ∧
      frameWord base off cnt (frameAddress base f side).toNat = true := by
  unfold framesOk at hf
  unfold frameWord
  simp only [decide_eq_true_eq] at *
  have h2 : (2 * f).toNat = 2 * f.toNat := by
    rw [BitVec.toNat_mul]
    show 2 * f.toNat % 2 ^ 32 = _
    omega
  have h3 : (base + 2 * f).toNat = base.toNat + 2 * f.toNat := by
    rw [BitVec.toNat_add, h2]
    omega
  cases side with
  | left =>
    show (base + 2 * f).toNat < _ ∧ _ ≤ (base + 2 * f).toNat ∧ (base + 2 * f).toNat < _
    omega
  | right =>
    have h4 : (base + 2 * f + 1).toNat = base.toNat + 2 * f.toNat + 1 := by
      rw [BitVec.toNat_add, h3]
      show (_ + 1) % 2 ^ 32 = _
      omega
    show (base + 2 * f + 1).toNat < _ ∧ _ ≤ (base + 2 * f + 1).toNat ∧ (base + 2 * f + 1).toNat < _
    omega

/-- The statements' pan law is the machine's. -/
theorem panLaw_eq (v : Voice) : panLaw v = v.panMode := by
  unfold panLaw Voice.panMode
  rw [BitVec.extractLsb'_toNat, Nat.shiftRight_eq_div_pow]

/-- The statements' pan delay is the machine's. -/
theorem panDelayed_eq (s : State) (v : Voice) : panDelayed s v = panDelayOn s v := by
  unfold panDelayed panDelayOn
  rw [panLaw_eq]
  rw [Bool.eq_iff_iff]
  simp [State.pandlyEn, and_assoc]

/-- What `mixInRange` says, part by part. -/
theorem mixInRange_iff : mixInRange s v off cnt = true ↔
    v.srcBase.toNat + cnt ≤ s.sramWords ∧ framesOk s.sramWords s.outBase off cnt = true ∧
      (v.sendRev ≠ 0 → framesOk s.sramWords s.busRevBase off cnt = true) ∧
      (v.sendCho ≠ 0 → framesOk s.sramWords s.busChoBase off cnt = true) ∧
      (v.sendDly ≠ 0 → framesOk s.sramWords s.busDlyBase off cnt = true) ∧
      (panDelayOn s v = true → v.pdly.base.toNat + v.pdly.len.toNat ≤ s.sramWords ∧
        v.pdly.wpt.toNat < v.pdly.len.toNat ∧ v.pdly.rpt.toNat < v.pdly.len.toNat) := by
  unfold mixInRange
  rw [panDelayed_eq]
  simp only [Bool.and_eq_true, Bool.or_eq_true, decide_eq_true_eq, beq_iff_eq, Bool.not_eq_true', and_assoc]
  constructor
  · rintro ⟨a, b, c, d, e, f⟩
    refine ⟨a, b, fun h => c.resolve_left h, fun h => d.resolve_left h, fun h => e.resolve_left h, fun h => ?_⟩
    exact f.resolve_left (by rw [h]; simp)
  · rintro ⟨a, b, c, d, e, f⟩
    refine ⟨a, b, ?_, ?_, ?_, ?_⟩
    · exact (em (v.sendRev = 0)).imp_right c
    · exact (em (v.sendCho = 0)).imp_right d
    · exact (em (v.sendDly = 0)).imp_right e
    · cases hp : panDelayOn s v with
      | false => exact .inl rfl
      | true => exact .inr (f hp)

/-- The words that MIXV may store to, part by part. -/
theorem mixWord_out {a : Nat} (h : frameWord s.outBase off cnt a = true) : mixWord s v off cnt a = true := by
  simp [mixWord, h]

theorem mixWord_rev {a : Nat} (hs : v.sendRev ≠ 0) (h : frameWord s.busRevBase off cnt a = true) :
    mixWord s v off cnt a = true := by
  have hs' : ¬v.sendRev = 0#32 := hs
  simp [mixWord, h, hs']

theorem mixWord_cho {a : Nat} (hs : v.sendCho ≠ 0) (h : frameWord s.busChoBase off cnt a = true) :
    mixWord s v off cnt a = true := by
  have hs' : ¬v.sendCho = 0#32 := hs
  simp [mixWord, h, hs']

theorem mixWord_dly {a : Nat} (hs : v.sendDly ≠ 0) (h : frameWord s.busDlyBase off cnt a = true) :
    mixWord s v off cnt a = true := by
  have hs' : ¬v.sendDly = 0#32 := hs
  simp [mixWord, h, hs']

theorem mixWord_pan {a : Nat} (hs : panDelayOn s v = true)
    (h : v.pdly.base.toNat ≤ a ∧ a < v.pdly.base.toNat + v.pdly.len.toNat) : mixWord s v off cnt a = true := by
  simp [mixWord, h, panDelayed_eq, hs]

/-! ### One frame -/

variable (hn : n < s.voices.length) (hw : s.sramWords ≤ 2 ^ 24) (hr : mixInRange s v off cnt = true)

/-- The triples of this file. -/
abbrev DoesM (s : State) (n : Nat) (v : Voice) (off cnt : Nat) {α : Type} (P : Voice → Prop) (c : Cmd α)
    (Q : Voice → α → Voice → Prop) : Prop :=
  Does s n (Outside (mixWord s v off cnt)) P c Q

abbrev memM (s : State) (v : Voice) (off cnt : Nat) : MemStep (Outside (mixWord s v off cnt)) := memStep_outside _

/-- The frame `f` is one of the command's. -/
def InFrames (off cnt : Nat) (f : Word) : Prop := off ≤ f.toNat ∧ f.toNat < off + cnt

include hw hr

omit hr in
theorem does_sendTo {P : Voice → Prop} {base f : Word} {side : Side} (send c : Int) (hf : InFrames off cnt f)
    (hb : send ≠ 0 → framesOk s.sramWords base off cnt = true)
    (hA : send ≠ 0 → ∀ a, frameWord base off cnt a = true → mixWord s v off cnt a = true) :
    DoesM s n v off cnt P (sendTo base f side send c) fun w _ w' => w' = w := by
  unfold sendTo
  refine does_ite (fun _ => does_pure (memM s v off cnt) _ fun _ _ => rfl) fun hs => ?_
  refine does_bind (memM s v off cnt) (Q := fun w _ w' => w' = w) (does_fmul (memM s v off cnt) _ _ _ fun _ _ => rfl) ?_
  rintro w x -
  obtain ⟨h1, h2⟩ := frameAddress_toNat (side := side) hw (hb hs) hf
  exact does_memAccumulate _ _ h1 (hA hs _ h2) fun _ h => h

theorem does_contribute {k : Nat} {f : Word} (u : Voice) (hu : MixAt s v k u) (side : Side) (c : Int)
    (hf : InFrames off cnt f) {P : Voice → Prop} :
    DoesM s n v off cnt P (contribute u f side c) fun w _ w' => w' = w := by
  have hi := mixInRange_iff.1 hr
  have zero : ∀ x : Word, x.toInt ≠ 0 → x ≠ 0 := by
    rintro x h rfl
    exact h rfl
  unfold contribute
  refine does_bind (memM s v off cnt) (Q := fun w t w' => w' = w ∧ ∃ m ws, t = voiceState s n m ws w)
    (does_getState (memM s v off cnt) fun w m ws _ => ⟨rfl, m, ws, rfl⟩) ?_
  intro w t _
  by_cases ht : ∃ m ws, t = voiceState s n m ws w
  · obtain ⟨m, ws, rfl⟩ := ht
    refine does_bind (memM s v off cnt) (Q := fun _ _ w' => w' = w) ?_ ?_
    · obtain ⟨h1, h2⟩ := frameAddress_toNat (side := side) hw hi.2.1 hf
      exact does_memAccumulate _ _ h1 (mixWord_out h2) fun _ h => h.1
    rintro w1 _ -
    refine does_bind (memM s v off cnt) (Q := fun _ _ w' => w' = w) ?_ ?_
    · refine does_mono (does_sendTo hw _ _ hf (fun hs => hi.2.2.1 ?_) (fun hs a ha => mixWord_rev ?_ ha))
        (fun _ h => h) (by rintro w1 a w2 rfl rfl; rfl)
      · rw [← hu.rev]
        exact zero _ hs
      · rw [← hu.rev]
        exact zero _ hs
    rintro w2 _ -
    refine does_bind (memM s v off cnt) (Q := fun _ _ w' => w' = w) ?_ ?_
    · refine does_mono (does_sendTo hw _ _ hf (fun hs => hi.2.2.2.1 ?_) (fun hs a ha => mixWord_cho ?_ ha))
        (fun _ h => h) (by rintro w1 a w2 rfl rfl; rfl)
      · rw [← hu.cho]
        exact zero _ hs
      · rw [← hu.cho]
        exact zero _ hs
    rintro w3 _ -
    refine does_mono (does_sendTo hw _ _ hf (fun hs => hi.2.2.2.2.1 ?_) (fun hs a ha => mixWord_dly ?_ ha))
      (fun _ h => h) (by rintro w1 a w2 rfl rfl; rfl)
    · rw [← hu.dly]
      exact zero _ hs
    · rw [← hu.dly]
      exact zero _ hs
  · intro m vs w1 h1
    exact absurd h1.2 ht

theorem does_mixSide {k : Nat} {f : Word} (u : Voice) (hu : MixAt s v k u) (side : Side) (x l : Int)
    (hf : InFrames off cnt f) {P : Voice → Prop} :
    DoesM s n v off cnt P (mixSide u f side x l) fun w _ w' => w' = w := by
  unfold mixSide
  refine does_bind (memM s v off cnt) (Q := fun w _ w' => w' = w) (does_sat32 (memM s v off cnt) _ fun _ _ => rfl) ?_
  rintro w c -
  refine does_mono (does_contribute hw hr u hu side c hf) (fun _ h => h) ?_
  rintro w1 a w2 rfl rfl
  rfl

include hn

theorem does_mixDelayed {k : Nat} {f : Word} (u : Voice) (hu : MixAt s v k u) (hp : panDelayOn s v = true) (side : Side)
    (x l : Int) (hf : InFrames off cnt f) :
    DoesM s n v off cnt (fun w => w = u) (mixDelayed n u f side x l) fun _ _ w' =>
      MixAt s v k w' ∧ w'.status = u.status := by
  have hi := (mixInRange_iff.1 hr).2.2.2.2.2 hp
  have hc := hu.cursors hp
  have addr : ∀ c : Word, c.toNat < v.pdly.len.toNat → (u.pdly.base + c).toNat = v.pdly.base.toNat + c.toNat := by
    intro c h
    rw [hu.base, BitVec.toNat_add]
    omega
  unfold mixDelayed
  refine does_bind (memM s v off cnt) (Q := fun w _ w' => w' = u) (does_sat32 (memM s v off cnt) _ fun _ h => h) ?_
  rintro w c -
  refine does_bind (memM s v off cnt) (Q := fun w _ w' => w' = u)
    (does_memRead (memM s v off cnt) _ (by rw [addr _ hc.2]; omega) fun _ _ h => h) ?_
  rintro w1 old -
  refine does_bind (memM s v off cnt) (Q := fun w _ w' => w' = u) ?_ ?_
  · refine does_mono (does_contribute hw hr u hu side _ hf) (fun _ h => h) ?_
    rintro w1 a w2 rfl rfl
    rfl
  rintro w2 _ -
  refine does_bind (memM s v off cnt) (Q := fun w _ w' => w' = u)
    (does_memWrite _ _ (by rw [addr _ hc.1]; omega) (mixWord_pan hp (by rw [addr _ hc.1]; omega)) fun _ h => h) ?_
  rintro w3 _ -
  refine does_writeVoice (memM s v off cnt) hn _ ?_
  rintro w4 rfl
  refine ⟨⟨hu.src, hu.pan, hu.rev, hu.cho, hu.dly, hu.base, hu.len, fun _ => ?_⟩, rfl⟩
  show (BitVec.ofNat 32 ((w4.pdly.wpt.toNat + 1) % w4.pdly.len.toNat)).toNat < _ ∧
    (BitVec.ofNat 32 ((w4.pdly.rpt.toNat + 1) % w4.pdly.len.toNat)).toNat < _
  rw [hu.len, BitVec.toNat_ofNat, BitVec.toNat_ofNat]
  have h1 := Nat.mod_lt (w4.pdly.wpt.toNat + 1) (show v.pdly.len.toNat > 0 by omega)
  have h2 := Nat.mod_lt (w4.pdly.rpt.toNat + 1) (show v.pdly.len.toNat > 0 by omega)
  omega

theorem does_mixSlots {k : Nat} {f : Word} (x lL lR : Int) (hf : InFrames off cnt f) :
    DoesM s n v off cnt (MixAt s v k) (mixSlots n f x lL lR) fun w _ w' =>
      MixAt s v k w' ∧ w'.status = w.status := by
  unfold mixSlots
  refine does_bind (memM s v off cnt) (Q := fun w t w' => w' = w ∧ ∃ m ws, t = voiceState s n m ws w)
    (does_getState (memM s v off cnt) fun w m ws _ => ⟨rfl, m, ws, rfl⟩) ?_
  intro w t hmix
  by_cases ht : ∃ m ws, t = voiceState s n m ws w
  swap
  · intro m vs w1 h1
    exact absurd h1.2 ht
  obtain ⟨m, ws, rfl⟩ := ht
  refine does_bind (memM s v off cnt) (Q := fun _ a w' => a = w ∧ w' = w)
    (does_readVoice (memM s v off cnt) hn fun w1 h => ⟨h.1, h.1⟩) ?_
  intro w1 u _
  by_cases hu : u = w
  swap
  · intro m vs w1 h1
    exact absurd h1.1 hu
  subst hu
  have same : ∀ {c : Cmd Unit}, DoesM s n v off cnt (fun w' => w' = u) c (fun w _ w' => w' = w) →
      DoesM s n v off cnt (fun w' => u = u ∧ w' = u) c fun _ _ w' => MixAt s v k w' ∧ w'.status = u.status := by
    intro c hc
    refine does_mono hc (fun _ h => h.2) ?_
    rintro w1 a w2 ⟨_, rfl⟩ rfl
    exact ⟨hmix, rfl⟩
  have side : ∀ sd l, DoesM s n v off cnt (fun w' => w' = u) (mixSide u f sd x l) (fun w _ w' => w' = w) :=
    fun sd l => does_mixSide hw hr u hmix sd x l hf
  have two : ∀ {c d : Cmd Unit}, DoesM s n v off cnt (fun w' => w' = u) c (fun w _ w' => w' = w) →
      DoesM s n v off cnt (fun w' => w' = u) d (fun w _ w' => w' = w) →
      DoesM s n v off cnt (fun w' => w' = u) (c >>= fun _ => d) (fun w _ w' => w' = w) := by
    intro c d hc hd
    refine does_bind (memM s v off cnt) (Q := fun _ _ w' => w' = u) ?_ ?_
    · exact does_mono hc (fun _ h => h) (by rintro w1 a w2 rfl rfl; rfl)
    rintro w1 _ rfl
    exact does_mono hd (fun _ h => h) (by rintro w2 a w3 rfl rfl; rfl)
  split
  · refine does_ite (fun hp => ?_) fun _ => same (two (side _ _) (side _ _))
    have hpv : panDelayOn s v = true := by
      have e : panDelayOn (voiceState s n m ws u) u = panDelayOn s v := by
        show (u.panMode == 0 && s.pandlyEn && decide (u.pdly.len.toInt > 0)) = _
        rw [hmix.pan, hmix.len]
        rfl
      rw [← e]
      exact hp
    have delayed : ∀ sd l, DoesM s n v off cnt (fun w' => w' = u) (mixDelayed n u f sd x l) fun _ _ w' =>
        MixAt s v k w' ∧ w'.status = u.status := fun sd l => does_mixDelayed hn hw hr u hmix hpv sd x l hf
    refine does_ite (fun _ => ?_) fun _ => ?_
    · refine does_bind (memM s v off cnt) (Q := fun _ _ w' => w' = u) ?_ ?_
      · exact does_mono (side _ _) (fun _ h => h.2) (by rintro w1 a w2 ⟨_, rfl⟩ rfl; rfl)
      rintro w2 _ -
      exact delayed _ _
    · refine does_bind (memM s v off cnt) (Q := fun _ _ w' => MixAt s v k w' ∧ w'.status = u.status) ?_ ?_
      · exact does_mono (delayed _ _) (fun _ h => h.2) (fun _ _ _ _ h => h)
      rintro w2 _ -
      refine does_mono (does_mixSide hw hr u hmix .right x lR hf) (fun _ h => h) ?_
      rintro w3 a w4 h rfl
      exact h
  · exact same (two (side _ _) (side _ _))
  · exact same (side _ _)
  · exact same (side _ _)

theorem does_nextSample {k : Nat} (hk : k < cnt) :
    DoesM s n v off cnt (MixAt s v k) (nextSample n) fun w _ w' => MixAt s v (k + 1) w' ∧ w'.status = w.status := by
  have hi := mixInRange_iff.1 hr
  unfold nextSample
  refine does_bind (memM s v off cnt) (Q := fun w a w' => a = w ∧ w' = w)
    (does_readVoice (memM s v off cnt) hn fun _ _ => ⟨rfl, rfl⟩) ?_
  intro w u hmix
  by_cases hu : u = w
  swap
  · intro m vs w1 h1
    exact absurd h1.1 hu
  subst hu
  refine does_bind (memM s v off cnt) (Q := fun _ _ w' => w' = u)
    (does_memRead (memM s v off cnt) _ (by rw [hmix.src]; omega) fun _ _ h => h.2) ?_
  rintro w1 x -
  refine does_bind (memM s v off cnt) (Q := fun _ _ w' => MixAt s v (k + 1) w' ∧ w'.status = u.status)
    (does_writeVoice (memM s v off cnt) hn _ ?_) ?_
  · rintro w2 rfl
    refine ⟨⟨?_, hmix.pan, hmix.rev, hmix.cho, hmix.dly, hmix.base, hmix.len, hmix.cursors⟩, rfl⟩
    show (w2.srcBase + 1).toNat = _
    rw [BitVec.toNat_add, hmix.src]
    show (v.srcBase.toNat + k + 1) % 2 ^ 32 = _
    omega
  rintro w2 _ -
  exact does_pure (memM s v off cnt) _ fun _ h => h

omit hw hr in
theorem does_voiceFilter {k : Nat} (x : Int) :
    DoesM s n v off cnt (MixAt s v k) (voiceFilter n x) fun w _ w' => MixAt s v k w' ∧ w'.status = w.status := by
  unfold voiceFilter
  refine does_bind (memM s v off cnt) (Q := fun w a w' => a = w ∧ w' = w)
    (does_readVoice (memM s v off cnt) hn fun _ _ => ⟨rfl, rfl⟩) ?_
  intro w u hmix
  have store : ∀ h : Hist, ∀ y : Int, DoesM s n v off cnt (fun w' => w' = w)
      (writeVoice n (fun v => { v with filtHist := h }) >>= fun _ => pure y) fun _ _ w' =>
        MixAt s v k w' ∧ w'.status = w.status := by
    intro h y
    refine does_bind (memM s v off cnt) (Q := fun _ _ w' => MixAt s v k w' ∧ w'.status = w.status)
      (does_writeVoice (memM s v off cnt) hn _ ?_) ?_
    · rintro w2 rfl
      exact ⟨hmix.same ⟨rfl, rfl, rfl, rfl, rfl, rfl⟩, rfl⟩
    rintro w2 _ -
    exact does_pure (memM s v off cnt) _ fun _ h => h
  split
  · refine does_bind (memM s v off cnt) (Q := fun _ _ w' => w' = w)
      (does_answers (memM s v off cnt) (fun t => svfStep_ok _ _ _ _ t) fun w1 _ _ h => h.2) ?_
    rintro w1 ⟨y, h⟩ -
    exact store h y
  · refine does_bind (memM s v off cnt) (Q := fun _ _ w' => w' = w)
      (does_answers (memM s v off cnt) (fun t => moogStep_ok _ _ _ _ _ t) fun w1 _ _ h => h.2) ?_
    rintro w1 ⟨y, h⟩ -
    exact store h y
  · refine does_pure (memM s v off cnt) _ ?_
    rintro w1 ⟨_, rfl⟩
    exact ⟨hmix, rfl⟩

omit hn hw hr in
theorem does_rampAdvance {P : Voice → Prop} (o i : Word) :
    DoesM s n v off cnt P (rampAdvance o i) fun w _ w' => w' = w := by
  unfold rampAdvance
  refine does_ite (fun _ => does_pure (memM s v off cnt) _ fun _ _ => rfl) fun _ => ?_
  refine does_bind (memM s v off cnt) (Q := fun w _ w' => w' = w) (does_sat32 (memM s v off cnt) _ fun _ _ => rfl) ?_
  rintro w x -
  exact does_pure (memM s v off cnt) _ fun _ h => h

/-- What mixing some frames leaves. -/
def Mixed {α : Type} (s : State) (v : Voice) (k : Nat) (w : Voice) (_ : α) (w' : Voice) : Prop :=
  MixAt s v k w' ∧ w'.status = w.status

theorem does_mixFrame {k : Nat} {f : Word} (hk : k < cnt) (hf : InFrames off cnt f) :
    DoesM s n v off cnt (MixAt s v k) (mixFrame n f) (Mixed s v (k + 1)) := by
  unfold mixFrame
  refine does_bind (memM s v off cnt) (does_nextSample hn hw hr hk) ?_
  intro w x _
  refine does_bind (memM s v off cnt) (Q := fun _ _ w' => MixAt s v (k + 1) w' ∧ w'.status = w.status) ?_ ?_
  · refine does_mono (does_voiceFilter hn x) (fun _ h => h.1) ?_
    intro w1 a w2 h1 h2
    exact ⟨h2.1, h2.2.trans h1.2⟩
  intro w1 y _
  refine does_bind (memM s v off cnt) (Q := fun _ _ w' => MixAt s v (k + 1) w' ∧ w'.status = w.status)
    (does_readVoice (memM s v off cnt) hn fun _ h => h) ?_
  intro w2 u _
  refine does_bind (memM s v off cnt) (Q := fun _ _ w' => MixAt s v (k + 1) w' ∧ w'.status = w.status)
    (does_sat32 (memM s v off cnt) _ fun _ h => h) ?_
  intro w3 lL _
  refine does_bind (memM s v off cnt) (Q := fun _ _ w' => MixAt s v (k + 1) w' ∧ w'.status = w.status)
    (does_sat32 (memM s v off cnt) _ fun _ h => h) ?_
  intro w4 lR _
  refine does_bind (memM s v off cnt) (Q := fun _ _ w' => MixAt s v (k + 1) w' ∧ w'.status = w.status) ?_ ?_
  · exact does_mono (does_rampAdvance _ _) (fun _ h => h) (by rintro w5 a w6 h rfl; exact h)
  intro w5 lo _
  refine does_bind (memM s v off cnt) (Q := fun _ _ w' => MixAt s v (k + 1) w' ∧ w'.status = w.status) ?_ ?_
  · exact does_mono (does_rampAdvance _ _) (fun _ h => h) (by rintro w5 a w6 h rfl; exact h)
  intro w6 ro _
  refine does_bind (memM s v off cnt) (Q := fun _ _ w' => MixAt s v (k + 1) w' ∧ w'.status = w.status)
    (does_writeVoice (memM s v off cnt) hn _ ?_) ?_
  · intro w7 h7
    exact ⟨h7.1.same ⟨rfl, rfl, rfl, rfl, rfl, rfl⟩, h7.2⟩
  intro w7 _ _
  refine does_mono (does_mixSlots hn hw hr _ _ _ hf) (fun _ h => h.1) ?_
  intro w8 a w9 h8 h9
  exact ⟨h9.1, h9.2.trans h8.2⟩

theorem does_mixFrames (count : Nat) : ∀ {k : Nat} {f : Word}, k + count ≤ cnt →
    (count ≠ 0 → off ≤ f.toNat ∧ f.toNat + count ≤ off + cnt) → off + cnt < 2 ^ 32 →
    DoesM s n v off cnt (MixAt s v k) (mixFrames n count f) (Mixed s v (k + count)) := by
  induction count with
  | zero =>
    intro k f _ _ _
    exact does_pure (memM s v off cnt) _ fun w h => ⟨h, rfl⟩
  | succ m ih =>
    intro k f hk hf ho
    have hf := hf (by omega)
    unfold mixFrames
    refine does_bind (memM s v off cnt) (does_mixFrame hn hw hr (by omega) ⟨by omega, by omega⟩) ?_
    intro w _ _
    have e : (f + 1).toNat = f.toNat + 1 := by
      rw [BitVec.toNat_add]
      show (f.toNat + 1) % 2 ^ 32 = _
      omega
    refine does_mono (ih (k := k + 1) (f := f + 1) (by omega) (by omega) ho) (fun _ h => h.1) ?_
    intro w1 a w2 h1 h2
    refine ⟨?_, h2.2.trans h1.2⟩
    have := h2.1
    rwa [show k + 1 + m = k + (m + 1) by omega] at this

/-! ### Routines -/

omit hw hr in
theorem does_mixSmooth {k : Nat} : DoesM s n v off cnt (MixAt s v k) (mixSmooth n) (Mixed s v k) := by
  unfold mixSmooth
  refine does_bind (memM s v off cnt) (Q := fun w _ w' => w' = w) (does_getState (memM s v off cnt) fun _ _ _ _ => rfl) ?_
  intro w t hmix
  refine does_bind (memM s v off cnt) (Q := fun _ _ w' => w' = w)
    (does_readVoice (memM s v off cnt) hn fun _ h => h) ?_
  rintro w1 u -
  refine does_bind (memM s v off cnt) (Q := fun _ _ w' => w' = w) (does_sat32 (memM s v off cnt) _ fun _ h => h) ?_
  rintro w2 a -
  refine does_bind (memM s v off cnt) (Q := fun _ _ w' => w' = w) (does_sat32 (memM s v off cnt) _ fun _ h => h) ?_
  rintro w3 b -
  refine does_bind (memM s v off cnt) (Q := fun _ _ w' => w' = w) (does_sat32 (memM s v off cnt) _ fun _ h => h) ?_
  rintro w4 c -
  refine does_bind (memM s v off cnt) (Q := fun _ _ w' => w' = w) (does_sat32 (memM s v off cnt) _ fun _ h => h) ?_
  rintro w5 d -
  refine does_writeVoice (memM s v off cnt) hn _ ?_
  rintro w6 rfl
  exact ⟨hmix.same ⟨rfl, rfl, rfl, rfl, rfl, rfl⟩, rfl⟩

omit hn hw hr in
/-- A triple that leaves sample RAM alone, in a mixer's terms. -/
theorem doesM_of_doesV {α : Type} {P : Voice → Prop} {c : Cmd α} {Q : Voice → α → Voice → Prop}
    (h : DoesV s n P c Q) : DoesM s n v off cnt P c Q := by
  intro m vs w hp
  obtain ⟨a, m', vs', w', e, q, rfl⟩ := h m vs w hp
  exact ⟨a, m', vs', w', e, q, (memM s v off cnt).refl m'⟩

/-- What a control update or a routine leaves. -/
def MixLives (s : State) (v : Voice) (k : Nat) (w : Voice) (died : Bool) (w' : Voice) : Prop :=
  MixAt s v k w' ∧ w'.status = if died then .free else w.status

omit hw hr in
theorem does_controlUpdate {k : Nat} :
    DoesM s n v off cnt (MixAt s v k) (controlUpdate n) fun w died w' =>
      MixLives s v k w died w' := by
  unfold controlUpdate
  refine does_bind (memM s v off cnt) (Q := fun w _ w' => w' = w) (does_getState (memM s v off cnt) fun _ _ _ _ => rfl) ?_
  intro w t hmix
  refine does_bind (memM s v off cnt) (Q := fun _ _ w' => w' = w)
    (does_readVoice (memM s v off cnt) hn fun _ h => h) ?_
  rintro w1 u -
  refine does_ite (fun _ => ?_) fun _ => does_pure (memM s v off cnt) _ ?_
  · refine does_bind (memM s v off cnt) (Q := fun _ _ w' => MixAt s v k w' ∧ w'.status = w.status)
      (does_writeVoice (memM s v off cnt) hn _ ?_) ?_
    · rintro w2 rfl
      exact ⟨hmix.same ⟨rfl, rfl, rfl, rfl, rfl, rfl⟩, rfl⟩
    rintro w2 _ -
    refine does_bind (memM s v off cnt) (Q := fun _ died w' => MixLives s v k w died w') ?_ ?_
    · refine does_mono (doesM_of_doesV (does_updateSignal hn false sameMix_env sameMix_menv
        (fun _ _ => ⟨rfl, rfl, rfl, rfl, rfl, rfl⟩) (fun _ _ => ⟨rfl, rfl, rfl, rfl, rfl, rfl⟩)
        (fun _ _ _ => ⟨rfl, rfl, rfl, rfl, rfl, rfl⟩))) (fun _ _ => trivial) ?_
      intro w3 died w4 h3 h4
      exact ⟨h3.1.same h4.1, by rw [h4.2, h3.2]⟩
    rintro w3 died -
    refine does_ite (fun hd => does_pure (memM s v off cnt) _ fun w4 h => hd ▸ h) fun hd => ?_
    refine does_bind (memM s v off cnt) (Q := fun _ _ w' => MixAt s v k w' ∧ w'.status = w.status) ?_ ?_
    · refine does_mono (does_mixSmooth hn) (fun _ h => h.1) ?_
      intro w4 a w5 h4 h5
      have := h4.2
      rw [if_neg hd] at this
      exact ⟨h5.1, h5.2.trans this⟩
    rintro w4 _ -
    exact does_pure (memM s v off cnt) _ fun _ h => h
  · rintro w2 rfl
    exact ⟨hmix, rfl⟩

/-- What a routine over `left` frames leaves: a dead voice is FREE, another has its status. -/
def Routine (s : State) (v : Voice) (w : Voice) (died : Bool) (w' : Voice) : Prop :=
  (∃ k, MixAt s v k w') ∧ w'.status = if died then .free else w.status

theorem does_signalVariant (fuel : Nat) : ∀ {left k : Nat} {f : Word}, k + left ≤ cnt →
    (left ≠ 0 → off ≤ f.toNat ∧ f.toNat + left ≤ off + cnt) → off + cnt < 2 ^ 32 →
    DoesM s n v off cnt (MixAt s v k) (signalVariant n fuel left f) (Routine s v) := by
  induction fuel with
  | zero =>
    intro left k f _ _ _
    exact does_pure (memM s v off cnt) _ fun w h => ⟨⟨k, h⟩, rfl⟩
  | succ m ih =>
    intro left k f hk hf ho
    unfold signalVariant
    refine does_ite (fun _ => does_pure (memM s v off cnt) _ fun w h => ⟨⟨k, h⟩, rfl⟩) fun hl => ?_
    have hf := hf hl
    refine does_bind (memM s v off cnt) (does_controlUpdate hn) ?_
    intro w died _
    refine does_ite (fun hd => ?_) fun hd => ?_
    · refine does_pure (memM s v off cnt) _ ?_
      intro w1 h
      rw [hd] at h
      exact ⟨⟨k, h.1⟩, h.2⟩
    · refine does_bind (memM s v off cnt) (Q := fun _ _ w' => MixAt s v k w' ∧ w'.status = w.status)
        (does_readVoice (memM s v off cnt) hn ?_) ?_
      · intro w1 h
        have := h.2
        rw [if_neg hd] at this
        exact ⟨h.1, this⟩
      intro w1 u _
      have hmin : min u.cc.toNat left ≤ left := Nat.min_le_right _ _
      generalize min u.cc.toNat left = j at hmin
      refine does_bind (memM s v off cnt) (Q := fun _ _ w' => MixAt s v (k + j) w' ∧ w'.status = w.status) ?_ ?_
      · refine does_mono (does_mixFrames hn hw hr j (k := k) (f := f) (by omega) (by omega) ho) (fun _ h => h.1) ?_
        intro w2 a w3 h2 h3
        exact ⟨h3.1, h3.2.trans h2.2⟩
      intro w2 _ _
      refine does_bind (memM s v off cnt) (Q := fun _ _ w' => MixAt s v (k + j) w' ∧ w'.status = w.status)
        (does_writeVoice (memM s v off cnt) hn _ ?_) ?_
      · intro w3 h3
        exact ⟨h3.1.same ⟨rfl, rfl, rfl, rfl, rfl, rfl⟩, h3.2⟩
      intro w3 _ _
      refine does_mono (ih (left := left - j) (k := k + j) (f := f + BitVec.ofNat 32 j) (by omega) ?_ ho)
        (fun _ h => h.1) ?_
      · intro _
        rw [BitVec.toNat_add, BitVec.toNat_ofNat]
        omega
      intro w4 a w5 h4 h5
      exact ⟨h5.1, by rw [h5.2, h4.2]⟩

theorem does_staticVariant {k count : Nat} {f : Word} (hk : k + count ≤ cnt)
    (hf : count ≠ 0 → off ≤ f.toNat ∧ f.toNat + count ≤ off + cnt) (ho : off + cnt < 2 ^ 32) :
    DoesM s n v off cnt (MixAt s v k) (staticVariant n count f) (Routine s v) := by
  unfold staticVariant
  refine does_bind (memM s v off cnt) (does_mixFrames hn hw hr count hk hf ho) ?_
  intro w _ _
  exact does_pure (memM s v off cnt) _ fun w1 h => ⟨⟨_, h.1⟩, h.2⟩

theorem does_dieFrames (iL iR : Int) (count : Nat) : ∀ {k : Nat} {f : Word} {lL lR : Int}, k + count ≤ cnt →
    (count ≠ 0 → off ≤ f.toNat ∧ f.toNat + count ≤ off + cnt) → off + cnt < 2 ^ 32 →
    DoesM s n v off cnt (MixAt s v k) (dieFrames n iL iR count f lL lR) fun _ _ w' => ∃ j, MixAt s v j w' := by
  induction count with
  | zero =>
    intro k f lL lR _ _ _
    exact does_pure (memM s v off cnt) _ fun w h => ⟨k, h⟩
  | succ m ih =>
    intro k f lL lR hk hf ho
    have hf := hf (by omega)
    have next : ∀ {a b : Int}, DoesM s n v off cnt (MixAt s v (k + 1)) (dieFrames n iL iR m (f + 1) a b)
        fun _ _ w' => ∃ j, MixAt s v j w' := by
      intro a b
      refine ih (by omega) ?_ ho
      intro _
      rw [BitVec.toNat_add]
      show _ ≤ (f.toNat + 1) % 2 ^ 32 ∧ (f.toNat + 1) % 2 ^ 32 + m ≤ _
      omega
    have frame : ∀ {a b c d : Int}, DoesM s n v off cnt (MixAt s v k)
        (nextSample n >>= fun x => voiceFilter n x >>= fun y => mixSlots n f y a b >>= fun _ =>
          dieFrames n iL iR m (f + 1) c d) fun _ _ w' => ∃ j, MixAt s v j w' := by
      intro a b c d
      refine does_bind (memM s v off cnt) (does_nextSample hn hw hr (by omega)) ?_
      intro w x _
      refine does_bind (memM s v off cnt) (Q := fun _ _ w' => MixAt s v (k + 1) w') ?_ ?_
      · exact does_mono (does_voiceFilter hn x) (fun _ h => h.1) (fun _ _ _ _ h => h.1)
      intro w1 y _
      refine does_bind (memM s v off cnt) (Q := fun _ _ w' => MixAt s v (k + 1) w') ?_ ?_
      · exact does_mono (does_mixSlots hn hw hr _ _ _ ⟨by omega, by omega⟩) (fun _ h => h) (fun _ _ _ _ h => h.1)
      intro w2 _ _
      exact next
    unfold dieFrames
    refine does_bind (memM s v off cnt) (Q := fun _ _ w' => MixAt s v k w')
      (does_sat32 (memM s v off cnt) _ fun _ h => h) ?_
    intro w a _
    refine does_bind (memM s v off cnt) (Q := fun _ _ w' => MixAt s v k w')
      (does_sat32 (memM s v off cnt) _ fun _ h => h) ?_
    intro w1 b _
    refine does_bind (memM s v off cnt) (Q := fun _ _ w' => MixAt s v k w')
      (does_readVoice (memM s v off cnt) hn fun _ h => h) ?_
    intro w2 u _
    refine does_ite (fun _ => frame) fun _ => does_ite (fun _ => ?_) fun _ => frame
    exact does_pure (memM s v off cnt) _ fun _ h => ⟨k, h⟩

theorem does_dieRamp {count : Nat} {f : Word} (hk : count ≤ cnt)
    (hf : count ≠ 0 → off ≤ f.toNat ∧ f.toNat + count ≤ off + cnt) (ho : off + cnt < 2 ^ 32) :
    DoesM s n v off cnt (MixAt s v 0) (dieRamp n count f) fun _ died w' =>
      died = true ∧ w'.status = .free ∧ w'.died = true := by
  unfold dieRamp
  refine does_bind (memM s v off cnt) (Q := fun _ _ w' => MixAt s v 0 w')
    (does_getState (memM s v off cnt) fun _ _ _ h => h) ?_
  intro w t _
  refine does_bind (memM s v off cnt) (Q := fun _ _ w' => MixAt s v 0 w')
    (does_readVoice (memM s v off cnt) hn fun _ h => h) ?_
  intro w1 u _
  have hmin : min count t.maxDieTime.toNat ≤ count := Nat.min_le_left _ _
  generalize min count t.maxDieTime.toNat = j at hmin
  refine does_bind (memM s v off cnt) (Q := fun _ _ w' => MixAt s v 0 w')
    (does_sat32 (memM s v off cnt) _ fun _ h => h) ?_
  intro w2 lL _
  refine does_bind (memM s v off cnt) (Q := fun _ _ w' => MixAt s v 0 w')
    (does_sat32 (memM s v off cnt) _ fun _ h => h) ?_
  intro w3 lR _
  refine does_bind (memM s v off cnt) (does_dieFrames hn hw hr _ _ j (by omega) (by omega) ho) ?_
  intro w4 _ _
  unfold freeVoice
  refine does_bind (memM s v off cnt) (Q := fun _ _ w' => w'.status = .free ∧ w'.died = true)
    (does_writeVoice (memM s v off cnt) hn _ ?_) ?_
  · intro w5 _
    refine ⟨rfl, ?_⟩
    show (w5.ctrl ||| diedMask).getLsbD 9 = true
    rw [BitVec.getLsbD_or]
    have : diedMask.getLsbD 9 = true := by decide
    rw [this, Bool.or_true]
  intro w5 _ _
  exact does_pure (memM s v off cnt) _ fun _ h => ⟨rfl, h⟩

theorem does_mixLive {f : Word} (hf : f.toNat = off) (ho : off + cnt < 2 ^ 32) :
    DoesM s n v off cnt (MixAt s v 0) (mixLive n cnt f) (Routine s v) := by
  unfold mixLive
  refine does_bind (memM s v off cnt) (Q := fun w _ w' => w' = w) (does_readVoice (memM s v off cnt) hn fun _ _ => rfl) ?_
  intro w u hmix
  refine does_ite (fun _ => ?_) fun hwait => ?_
  · refine does_bind (memM s v off cnt) (Q := fun _ _ w' => MixAt s v 0 w' ∧ w'.status = w.status)
      (does_writeVoice (memM s v off cnt) hn _ ?_) ?_
    · rintro w1 rfl
      exact ⟨hmix.same ⟨rfl, rfl, rfl, rfl, rfl, rfl⟩, rfl⟩
    intro w1 _ _
    exact does_pure (memM s v off cnt) _ fun _ h => ⟨⟨0, h.1⟩, h.2⟩
  · refine does_bind (memM s v off cnt) (Q := fun _ _ w' => MixAt s v 0 w' ∧ w'.status = w.status)
      (does_writeVoice (memM s v off cnt) hn _ ?_) ?_
    · rintro w1 rfl
      exact ⟨hmix.same ⟨rfl, rfl, rfl, rfl, rfl, rfl⟩, rfl⟩
    intro w1 _ _
    unfold mixRoutine
    refine does_bind (memM s v off cnt) (Q := fun _ _ w' => MixAt s v 0 w' ∧ w'.status = w.status)
      (does_readVoice (memM s v off cnt) hn fun _ h => h) ?_
    intro w2 u2 _
    have hf' : cnt - u.delay.toNat ≠ 0 → off ≤ (f + BitVec.ofNat 32 u.delay.toNat).toNat ∧
        (f + BitVec.ofNat 32 u.delay.toNat).toNat + (cnt - u.delay.toNat) ≤ off + cnt := by
      intro _
      rw [BitVec.toNat_add, BitVec.toNat_ofNat]
      omega
    refine does_ite (fun _ => ?_) fun _ => ?_
    · refine does_mono (does_signalVariant hn hw hr _ (k := 0) (by omega) hf' ho) (fun _ h => h.1) ?_
      intro w3 a w4 h3 h4
      exact ⟨h4.1, by rw [h4.2, h3.2]⟩
    · refine does_mono (does_staticVariant hn hw hr (k := 0) (by omega) hf' ho) (fun _ h => h.1) ?_
      intro w3 a w4 h3 h4
      exact ⟨h4.1, by rw [h4.2, h3.2]⟩

end Sys2Proof.Machine
end

