-- ==== Sys2Proof/Laws/Slot.lean ====
section
/-! SUPPORT. Triples for FXPROC on one slot: the slot's record and use, sample RAM, SAT and RANGE are all that
moves. -/

namespace Sys2Proof.Machine

open Sys2Proof.Claims

/-- The state `s` with another sample RAM, flags raised and slot `i` replaced. -/
def slotState (s : State) (i : Nat) (m : Memory) (k : Word) (y : Slot) : State :=
  { s with sram := m, status := s.status ||| k, slots := s.slots.set i y }

/-- The triple on a slot: only SAT and RANGE may be raised, only the words `A` may be stored to. -/
def SlotRuns (s : State) (i : Nat) (A : Nat → Bool) {α : Type} (P : Slot → Prop) (c : Cmd α) (Q : α → Slot → Prop) :
    Prop :=
  ∀ m k y, k &&& ~~~(5 : Word) = 0 → P y → ∃ a m' k' y', c (slotState s i m k y) = .ok a (slotState s i m' k' y') ∧
    Q a y' ∧ Outside A m m' ∧ k' &&& ~~~(5 : Word) = 0

variable {s : State} {i : Nat} {A : Nat → Bool} {α β : Type}

theorem slotRuns_pure {P : Slot → Prop} {Q : α → Slot → Prop} (a : α) (h : ∀ y, P y → Q a y) :
    SlotRuns s i A P (pure a) Q :=
  fun m k y hk hp => ⟨a, m, k, y, rfl, h y hp, fun _ _ => rfl, hk⟩

theorem slotRuns_bind {P : Slot → Prop} {c : Cmd α} {k : α → Cmd β} {Q : α → Slot → Prop} {R : β → Slot → Prop}
    (hc : SlotRuns s i A P c Q) (hk : ∀ a, SlotRuns s i A (Q a) (k a) R) : SlotRuns s i A P (c >>= k) R := by
  intro m k0 y hz hp
  obtain ⟨a, m1, k1, y1, e, q, o, z⟩ := hc m k0 y hz hp
  obtain ⟨b, m2, k2, y2, e', r, o', z'⟩ := hk a m1 k1 y1 z q
  exact ⟨b, m2, k2, y2, by rw [bind_of_ok e, e'], r, (memStep_outside A).trans o o', z'⟩

theorem slotRuns_mono {P P' : Slot → Prop} {c : Cmd α} {Q Q' : α → Slot → Prop} (h : SlotRuns s i A P c Q)
    (hp : ∀ y, P' y → P y) (hq : ∀ a y, Q a y → Q' a y) : SlotRuns s i A P' c Q' := by
  intro m k y hz hy
  obtain ⟨a, m', k', y', e, q, o, z⟩ := h m k y hz (hp y hy)
  exact ⟨a, m', k', y', e, hq a y' q, o, z⟩

theorem slotRuns_ite {p : Prop} [Decidable p] {P : Slot → Prop} {c d : Cmd α} {Q : α → Slot → Prop}
    (hc : p → SlotRuns s i A P c Q) (hd : ¬p → SlotRuns s i A P d Q) : SlotRuns s i A P (if p then c else d) Q := by
  split
  · exact hc ‹_›
  · exact hd ‹_›

/-- A body that does not touch the slots. -/
theorem slotRuns_of_runs {P : Slot → Prop} {c : Cmd α} {Q : α → Prop} (h : Runs s.sramWords A c Q) :
    SlotRuns s i A P c fun a y => Q a ∧ P y := by
  intro m k y hz hp
  obtain ⟨a, m', k', e, q, o, z⟩ := h (slotState s i m k y) rfl
  refine ⟨a, m', k ||| k', y, ?_, ⟨q, hp⟩, o, ?_⟩
  · rw [e]
    unfold slotState
    simp only [BitVec.or_assoc]
  · rw [BitVec.and_or_distrib_right, hz, z, BitVec.or_self]

theorem slotRuns_getState {P : Slot → Prop} {Q : State → Slot → Prop}
    (hq : ∀ m k y, P y → Q (slotState s i m k y) y) : SlotRuns s i A P getState Q :=
  fun m k y hz hp => ⟨_, m, k, y, rfl, hq m k y hp, fun _ _ => rfl, hz⟩

variable (hi : i < s.slots.length)
include hi

theorem slotAt_slotState (m : Memory) (k : Word) (y : Slot) : (slotState s i m k y).slotAt i = y := by
  unfold State.slotAt slotState
  rw [List.getElem?_set_self hi]
  rfl

theorem slotRuns_setRecord {P : Slot → Prop} (r : FxRecord) {Q : Unit → Slot → Prop}
    (hq : ∀ y, P y → Q () { y with record := r }) : SlotRuns s i A P (setRecord i r) Q := by
  intro m k y hz hp
  refine ⟨(), m, k, { y with record := r }, ?_, hq y hp, fun _ _ => rfl, hz⟩
  show EStateM.Result.ok () _ = _
  congr 1
  unfold slotState
  simp only [List.modify_eq_set_getElem?, List.getElem?_set_self hi, List.set_set]
  rfl

/-- What a frame leaves of the slot: its settings, and a record whose lines are where they were. -/
structure SlotKept (words : Nat) (A : Nat → Bool) (x y : Slot) : Prop where
  type : y.fxType = x.fxType
  bus : y.bus = x.bus
  base : y.base = x.base
  limit : y.limit = x.limit
  params : y.params = x.params
  lines : ∀ l ∈ recordLines y.record, LineIn words A l

omit hi in
theorem slotKept_eq {words : Nat} {x y : Slot} (h : SlotKept words A x y) :
    y = { x with used := y.used, record := y.record } := by
  obtain ⟨a, b, c, d, e, -⟩ := h
  obtain ⟨⟩ := x
  obtain ⟨⟩ := y
  simp only at a b c d e
  subst a b c d e
  rfl

variable (hw : s.sramWords ≤ 2 ^ 24)
include hw

omit hw in
theorem slotRuns_finishFrame {x : Slot} (p : FxParams) (xL xR wL wR : Int) (r : FxRecord)
    (hr : ∀ l ∈ recordLines r, LineIn s.sramWords A l) :
    SlotRuns s i A (SlotKept s.sramWords A x) (finishFrame i p xL xR wL wR r) fun _ y =>
      SlotKept s.sramWords A x y := by
  unfold finishFrame
  refine slotRuns_bind (Q := fun _ y => SlotKept s.sramWords A x y) (slotRuns_setRecord hi r fun y h =>
    ⟨h.type, h.bus, h.base, h.limit, h.params, hr⟩) fun _ => ?_
  refine slotRuns_bind (slotRuns_of_runs (runs_dryWet _ _ _)) fun _ => ?_
  refine slotRuns_bind (slotRuns_of_runs (runs_dryWet _ _ _)) fun _ => ?_
  exact slotRuns_pure _ fun y h => h.2.2

theorem slotRuns_slotFrame {x : Slot} (xL xR : Int) :
    SlotRuns s i A (SlotKept s.sramWords A x) (slotFrame i xL xR) fun _ y => SlotKept s.sramWords A x y := by
  unfold slotFrame
  refine slotRuns_bind (Q := fun t y => t.slotAt i = y ∧ SlotKept s.sramWords A x y)
    (slotRuns_getState fun m k y h => ⟨slotAt_slotState hi m k y, h⟩) fun t => ?_
  refine slotRuns_ite (fun _ => slotRuns_pure _ fun y h => h.2) fun _ => ?_
  by_cases hk : SlotKept s.sramWords A x (t.slotAt i)
  swap
  · intro m k y hz h
    exact absurd (h.1 ▸ h.2) hk
  have hl := hk.lines
  split
  · exact slotRuns_pure _ fun y h => h.2
  · exact slotRuns_pure _ fun y h => h.2
  all_goals
    rename_i r hr
    rw [hr] at hl
  · refine slotRuns_bind (slotRuns_of_runs (runs_freeverbFrame hw r xL xR hl)) ?_
    rintro ⟨wL, wR, r'⟩
    by_cases hq : SameLines s.sramWords (recordLines (.freeverb r)) (recordLines (.freeverb r'))
    · exact slotRuns_mono (slotRuns_finishFrame hi (x := x) _ _ _ _ _ _ (sameLines_in hq hl)) (fun y h => h.2.2)
        fun _ _ h => h
    · exact fun m k y hz h => absurd h.1 hq
  · refine slotRuns_bind (slotRuns_of_runs (runs_plateFrame hw r xL xR hl)) ?_
    rintro ⟨wL, wR, r'⟩
    by_cases hq : SameLines s.sramWords (recordLines (.plate r)) (recordLines (.plate r'))
    · exact slotRuns_mono (slotRuns_finishFrame hi (x := x) _ _ _ _ _ _ (sameLines_in hq hl)) (fun y h => h.2.2)
        fun _ _ h => h
    · exact fun m k y hz h => absurd h.1 hq
  · refine slotRuns_bind (slotRuns_of_runs (runs_chorusFrame hw r xL xR hl)) ?_
    rintro ⟨wL, wR, r'⟩
    by_cases hq : SameLines s.sramWords (recordLines (.chorus r)) (recordLines (.chorus r'))
    · exact slotRuns_mono (slotRuns_finishFrame hi (x := x) _ _ _ _ _ _ (sameLines_in hq hl)) (fun y h => h.2.2)
        fun _ _ h => h
    · exact fun m k y hz h => absurd h.1 hq
  · refine slotRuns_bind (slotRuns_of_runs (runs_hexaFrame hw r xL xR hl)) ?_
    rintro ⟨wL, wR, r'⟩
    by_cases hq : SameLines s.sramWords (recordLines (.hexa r)) (recordLines (.hexa r'))
    · exact slotRuns_mono (slotRuns_finishFrame hi (x := x) _ _ _ _ _ _ (sameLines_in hq hl)) (fun y h => h.2.2)
        fun _ _ h => h
    · exact fun m k y hz h => absurd h.1 hq

/-! ### Frames -/

/-- The frame buffers of a slot on a command of `cnt` frames from `off`: in sample RAM, their words storable. -/
structure BuffersIn (s : State) (A : Nat → Bool) (bus : FxBus) (off cnt : Nat) : Prop where
  input : framesOk s.sramWords (inputBase s bus) off cnt = true
  output : framesOk s.sramWords s.outBase off cnt = true
  inputMem : ∀ a, frameWord (inputBase s bus) off cnt a = true → A a = true
  outputMem : ∀ a, frameWord s.outBase off cnt a = true → A a = true

omit hi in
theorem slotRuns_deliver {bus : FxBus} {off cnt : Nat} {f : Word} {P : Slot → Prop} (hb : BuffersIn s A bus off cnt)
    (hf : InFrames off cnt f) (yL yR : Int) : SlotRuns s i A P (deliver bus f yL yR) fun _ y => P y := by
  have inAt : ∀ sd, (frameAddress (inputBase s bus) f sd).toNat < s.sramWords ∧
      A (frameAddress (inputBase s bus) f sd).toNat = true := fun sd => by
    obtain ⟨h1, h2⟩ := frameAddress_toNat (side := sd) hw hb.input hf
    exact ⟨h1, hb.inputMem _ h2⟩
  have outAt : ∀ sd, (frameAddress s.outBase f sd).toNat < s.sramWords ∧
      A (frameAddress s.outBase f sd).toNat = true := fun sd => by
    obtain ⟨h1, h2⟩ := frameAddress_toNat (side := sd) hw hb.output hf
    exact ⟨h1, hb.outputMem _ h2⟩
  have seq : ∀ {c d : Cmd Unit}, Runs s.sramWords A c (fun _ => True) → Runs s.sramWords A d (fun _ => True) →
      Runs s.sramWords A (c >>= fun _ => d) fun _ => True := fun hc hd => runs_bind hc fun _ _ => hd
  unfold deliver
  refine slotRuns_bind (Q := fun t y => (inputBase t bus = inputBase s bus ∧ t.outBase = s.outBase) ∧ P y)
    (slotRuns_getState fun m k y h => ⟨⟨by cases bus <;> rfl, rfl⟩, h⟩) fun t => ?_
  by_cases ht : inputBase t bus = inputBase s bus ∧ t.outBase = s.outBase
  swap
  · exact fun m k y hz h => absurd h.1 ht
  rw [ht.1, ht.2]
  refine slotRuns_mono (slotRuns_of_runs (P := P) (Q := fun _ => True) ?_) (fun y h => h.2) fun _ _ h => h.2
  refine runs_ite (fun _ => ?_) fun _ => ?_
  · exact seq (runs_memWrite _ (outAt _).1 (outAt _).2) (runs_memWrite _ (outAt _).1 (outAt _).2)
  · refine seq (runs_memAccumulate _ (outAt _).1 (outAt _).2) (seq (runs_memAccumulate _ (outAt _).1 (outAt _).2) ?_)
    exact seq (runs_memWrite _ (inAt _).1 (inAt _).2) (runs_memWrite _ (inAt _).1 (inAt _).2)

theorem slotRuns_processFrame {x : Slot} {off cnt : Nat} {f : Word} (hb : BuffersIn s A x.bus off cnt)
    (hf : InFrames off cnt f) :
    SlotRuns s i A (SlotKept s.sramWords A x) (processFrame i f) fun _ y => SlotKept s.sramWords A x y := by
  unfold processFrame
  refine slotRuns_bind (Q := fun t y => ((t.slotAt i).bus = x.bus ∧ inputBase t x.bus = inputBase s x.bus) ∧
      SlotKept s.sramWords A x y)
    (slotRuns_getState fun m k y h => ⟨⟨by rw [slotAt_slotState hi, h.bus], by cases x.bus <;> rfl⟩, h⟩) fun t => ?_
  by_cases ht : (t.slotAt i).bus = x.bus ∧ inputBase t x.bus = inputBase s x.bus
  swap
  · exact fun m k y hz h => absurd h.1 ht
  simp only [ht.1, ht.2]
  refine slotRuns_mono (P := SlotKept s.sramWords A x) ?_ (fun y h => h.2) fun _ _ h => h
  refine slotRuns_bind (slotRuns_mono (slotRuns_of_runs (runs_memRead (frameAddress_toNat hw hb.input hf).1))
    (fun _ h => h) fun _ _ h => h.2) fun xL => ?_
  refine slotRuns_bind (slotRuns_mono (slotRuns_of_runs (runs_memRead (frameAddress_toNat hw hb.input hf).1))
    (fun _ h => h) fun _ _ h => h.2) fun xR => ?_
  refine slotRuns_bind (slotRuns_slotFrame hi hw _ _) ?_
  rintro ⟨yL, yR⟩
  exact slotRuns_deliver hw hb hf yL yR

theorem slotRuns_processFrames {x : Slot} {off cnt : Nat} (hb : BuffersIn s A x.bus off cnt) (ho : off + cnt < 2 ^ 32)
    (count : Nat) : ∀ {f : Word}, (count ≠ 0 → off ≤ f.toNat ∧ f.toNat + count ≤ off + cnt) →
    SlotRuns s i A (SlotKept s.sramWords A x) (processFrames i count f) fun _ y => SlotKept s.sramWords A x y := by
  induction count with
  | zero => exact fun _ => slotRuns_pure _ fun _ h => h
  | succ m ih =>
    intro f hf
    have hf := hf (by omega)
    unfold processFrames
    refine slotRuns_bind (slotRuns_processFrame hi hw hb ⟨by omega, by omega⟩) fun _ => ih ?_
    intro _
    have e : (f + 1).toNat = f.toNat + 1 := by
      rw [BitVec.toNat_add]
      show (f.toNat + 1) % 2 ^ 32 = _
      omega
    omega

end Sys2Proof.Machine
end

