-- ==== Sys2Proof/Laws/Stable.lean ====
section
/-! SUPPORT. What no command can break: a property of the state that survives flags, its own destination register,
sample RAM and the unit tables survives every command but WRREG, up to the point of a Fatal halt. -/

namespace Sys2Proof.Machine

/-- A property that every effect a command body may have preserves, for the destination register `rd`. -/
structure Stable (P : State → Prop) (rd : Option Nat) : Prop where
  flag : ∀ f s, P s → P (State.withFlag f s)
  reg : ∀ i v s, rd = some i → P s → P (State.withReg i v s)
  sram : ∀ m s, P s → P { s with sram := m }
  voices : ∀ vs s, vs.length = s.voices.length → P s → P { s with voices := vs }
  delays : ∀ ds s, ds.length = s.delays.length → P s → P { s with delays := ds }
  lfos : ∀ ls s, ls.length = s.lfos.length → P s → P { s with lfos := ls }
  filters : ∀ fs s, fs.length = s.filters.length → P s → P { s with filters := fs }
  slots : ∀ xs s, xs.length = s.slots.length → P s → P { s with slots := xs }

/-- A command body keeps a property: when it completes, and at the point where it raised Fatal, whose halt is
then all that was done (60_exceptions.md R806). -/
def Keeps {α : Type} (P : State → Prop) (c : Cmd α) : Prop :=
  ∀ s, P s → match c s with
    | .ok _ t => P t
    | .error f t => ∃ t', P t' ∧ t = takeFatal f t'

variable {P : State → Prop} {rd : Option Nat} {α β : Type}

theorem keeps_pure (a : α) : Keeps P (pure a : Cmd α) := fun _ h => h

theorem keeps_bind {c : Cmd α} {k : α → Cmd β} (hc : Keeps P c) (hk : ∀ a, Keeps P (k a)) : Keeps P (c >>= k) := by
  intro s hs
  have h := hc s hs
  rw [bind_run]
  cases e : c s with
  | ok a t =>
    rw [e] at h
    exact hk a t h
  | error f t =>
    rw [e] at h
    exact h

theorem keeps_ite {p : Prop} [Decidable p] {c d : Cmd α} (hc : Keeps P c) (hd : Keeps P d) :
    Keeps P (if p then c else d) := by
  split
  · exact hc
  · exact hd

theorem keeps_getState : Keeps P getState := fun _ h => h

theorem keeps_update {f : State → State} (h : ∀ s, P s → P (f s)) : Keeps P (update f) := h

theorem keeps_raiseFatal (f : Fault) : Keeps P (raiseFatal f : Cmd α) := fun s h => ⟨s, h, rfl⟩

theorem keeps_readReg (i : Nat) : Keeps P (readReg i) := fun _ h => h

theorem keeps_readRegS (i : Nat) : Keeps P (readRegS i) := fun _ h => h

theorem keeps_readVoice (n : Nat) : Keeps P (readVoice n) := fun _ h => h

theorem keeps_tabRead (a : Nat) : Keeps P (tabRead a) := fun _ h => h

theorem keeps_memRead (a : Word) : Keeps P (memRead a) := by
  intro s hs
  by_cases h : a.toNat < s.sramWords
  · rw [memRead_run_of_lt h]
    exact hs
  · rw [memRead_run_of_ge (by omega)]
    exact ⟨s, hs, rfl⟩

namespace Stable

variable (S : Stable P rd)
include S

theorem raiseFlag (f : Flag) : Keeps P (raiseFlag f) := S.flag f

theorem raiseFlagIf (b : Bool) (f : Flag) : Keeps P (raiseFlagIf b f) := by
  cases b
  · exact keeps_pure _
  · exact S.raiseFlag f

theorem writeReg (i : Nat) (v : Word) (h : rd = some i) : Keeps P (writeReg i v) := fun s => S.reg i v s h

theorem sat32 (v : Int) : Keeps P (sat32 v) := keeps_bind (S.raiseFlagIf _ _) fun _ => keeps_pure _

theorem fmul (q : Nat) (a b : Int) : Keeps P (fmul q a b) := S.sat32 _

theorem fdiv (q : Nat) (a b : Int) : Keeps P (fdiv q a b) :=
  keeps_ite (keeps_bind (S.raiseFlag _) fun _ => keeps_pure _) (S.sat32 _)

theorem adds (a b : Int) : Keeps P (adds a b) := S.sat32 _

theorem subs (a b : Int) : Keeps P (subs a b) := S.sat32 _

theorem memWrite (a v : Word) : Keeps P (memWrite a v) := by
  intro s hs
  by_cases h : a.toNat < s.sramWords
  · rw [memWrite_run_of_lt h]
    exact S.sram _ s hs
  · rw [memWrite_run_of_ge (by omega)]
    exact ⟨s, hs, rfl⟩

theorem memAccumulate (a : Word) (c : Int) : Keeps P (memAccumulate a c) :=
  keeps_bind (keeps_memRead _) fun _ => keeps_bind (S.sat32 _) fun _ => S.memWrite _ _

theorem memClear (count : Nat) : ∀ base, Keeps P (memClear count base) := by
  induction count with
  | zero => exact fun _ => keeps_pure _
  | succ n ih => exact fun _ => keeps_bind (S.memWrite _ _) fun _ => ih _

theorem writeVoice (n : Nat) (f : Voice → Voice) : Keeps P (writeVoice n f) := fun s hs =>
  S.voices _ s (List.length_modify _ _ _) hs

theorem setDelay (u : Nat) (d : DelayUnit) : Keeps P (update (State.setDelay u d)) := fun s hs =>
  S.delays _ s List.length_set hs

theorem setLfo (u : Nat) (l : LfoUnit) : Keeps P (update (State.setLfo u l)) := fun s hs =>
  S.lfos _ s List.length_set hs

theorem setFilter (u : Nat) (f : FilterUnit) : Keeps P (update (State.setFilter u f)) := fun s hs =>
  S.filters _ s List.length_set hs

theorem setSlot (i : Nat) (x : Slot) : Keeps P (update (State.setSlot i x)) := fun s hs =>
  S.slots _ s List.length_set hs

theorem modifySlot (i : Nat) (f : Slot → Slot) :
    Keeps P (update fun t => { t with slots := t.slots.modify i f }) := fun s hs =>
  S.slots _ s (List.length_modify _ _ _) hs

theorem clearWords (a n : Nat) : Keeps P (update fun t => { t with sram := memZeroWords t.sram a n }) :=
  fun s hs => S.sram _ s hs

/-! ### Lines -/

theorem lineTap (l : Line) (d : Int) : Keeps P (lineTap l d) :=
  keeps_bind (S.raiseFlagIf _ _) fun _ => keeps_bind (keeps_memRead _) fun _ => keeps_pure _

theorem linePush (l : Line) (x : Int) : Keeps P (linePush l x) :=
  keeps_bind (S.memWrite _ _) fun _ => keeps_pure _

theorem lineDelay (l : Line) (x : Int) : Keeps P (lineDelay l x) :=
  keeps_bind (keeps_memRead _) fun _ => keeps_bind (S.linePush _ _) fun _ => keeps_pure _

theorem lineInterp (l : Line) (m f h : Int) : Keeps P (lineInterp l m f h) :=
  keeps_bind (S.raiseFlagIf _ _) fun _ => keeps_bind (S.raiseFlagIf _ _) fun _ => keeps_bind (S.lineTap _ _) fun _ =>
    keeps_bind (S.lineTap _ _) fun _ => keeps_bind (S.sat32 _) fun _ => keeps_bind (S.fmul _ _ _) fun _ => S.sat32 _

theorem lineInterpQ16 (l : Line) (dq h : Int) : Keeps P (lineInterpQ16 l dq h) := S.lineInterp _ _ _ _

theorem lowPass (st x damp : Int) : Keeps P (lowPass st x damp) :=
  keeps_bind (S.fmul _ _ _) fun _ => keeps_bind (S.fmul _ _ _) fun _ => S.sat32 _

theorem combStep (l : Line) (st x fb damp : Int) : Keeps P (combStep l st x fb damp) :=
  keeps_bind (keeps_memRead _) fun _ => keeps_bind (S.lowPass _ _ _) fun _ => keeps_bind (S.fmul _ _ _) fun _ =>
    keeps_bind (S.sat32 _) fun _ => keeps_bind (S.linePush _ _) fun _ => keeps_pure _

theorem apfStep (l : Line) (x g : Int) : Keeps P (apfStep l x g) :=
  keeps_bind (keeps_memRead _) fun _ => keeps_bind (S.sat32 _) fun _ => keeps_bind (S.fmul _ _ _) fun _ =>
    keeps_bind (S.sat32 _) fun _ => keeps_bind (S.linePush _ _) fun _ => keeps_pure _

theorem latticeWith (l : Line) (d x g : Int) : Keeps P (latticeWith l d x g) :=
  keeps_bind (S.fmul _ _ _) fun _ => keeps_bind (S.sat32 _) fun _ => keeps_bind (S.linePush _ _) fun _ =>
    keeps_bind (S.fmul _ _ _) fun _ => keeps_bind (S.sat32 _) fun _ => keeps_pure _

theorem latStep (l : Line) (x g : Int) : Keeps P (latStep l x g) :=
  keeps_bind (keeps_memRead _) fun _ => S.latticeWith _ _ _ _

/-! ### LFO and filters -/

theorem waveAt (w : Waveform) (i : Nat) : Keeps P (waveAt w i) := by
  have _ := S
  cases w
  · exact keeps_bind (keeps_tabRead _) fun _ => keeps_pure _
  · exact keeps_pure _

theorem lfoPhase (w : Waveform) (p : Word) : Keeps P (lfoPhase w p) := S.waveAt _ _

theorem svfStep (f q : Int) (h : Hist) (x : Int) : Keeps P (svfStep f q h x) :=
  keeps_bind (S.fmul _ _ _) fun _ => keeps_bind (S.sat32 _) fun _ => keeps_bind (S.sat32 _) fun _ =>
    keeps_bind (S.fmul _ _ _) fun _ => keeps_bind (S.sat32 _) fun _ => keeps_bind (S.fmul _ _ _) fun _ =>
      keeps_bind (S.sat32 _) fun _ => keeps_pure _

theorem ladderPole (f p a b old : Int) : Keeps P (ladderPole f p a b old) :=
  keeps_bind (S.sat32 _) fun _ => keeps_bind (S.fmul _ _ _) fun _ => keeps_bind (S.fmul _ _ _) fun _ => S.sat32 _

theorem moogStep (f p q : Int) (h : Hist) (x : Int) : Keeps P (moogStep f p q h x) :=
  keeps_bind (S.fmul _ _ _) fun _ => keeps_bind (S.sat32 _) fun _ => keeps_bind (S.ladderPole _ _ _ _ _) fun _ =>
    keeps_bind (S.ladderPole _ _ _ _ _) fun _ => keeps_bind (S.ladderPole _ _ _ _ _) fun _ =>
      keeps_bind (S.ladderPole _ _ _ _ _) fun _ => keeps_pure _

/-! ### Envelopes -/

theorem freeVoice (n : Nat) : Keeps P (freeVoice n) := keeps_bind (S.writeVoice _ _) fun _ => keeps_pure _

theorem releaseRescale (n : Nat) (r : Int) : Keeps P (releaseRescale n r) :=
  keeps_bind (keeps_readVoice _) fun _ => keeps_bind (S.writeVoice _ _) fun _ =>
    keeps_bind (S.fmul _ _ _) fun _ => keeps_pure _

theorem envNextStage {again : Cmd Bool} (h : Keeps P again) (n : Nat) : Keeps P (envNextStage again n) :=
  keeps_bind keeps_getState fun _ => keeps_bind (keeps_readVoice _) fun _ => keeps_ite (S.freeVoice _) <|
    keeps_bind (S.writeVoice _ _) fun _ => keeps_bind (S.fmul _ _ _) fun _ =>
      keeps_bind (keeps_ite (S.releaseRescale _ _) (keeps_pure _)) fun _ =>
        keeps_ite h (keeps_bind (S.writeVoice _ _) fun _ => keeps_pure _)

theorem sustainDecay (n : Nat) : Keeps P (sustainDecay n) :=
  keeps_bind keeps_getState fun _ => keeps_bind (keeps_readVoice _) fun _ => keeps_ite (keeps_pure _) <| by
    split
    · exact keeps_bind (S.writeVoice _ _) fun _ => keeps_pure _
    · exact keeps_bind (S.writeVoice _ _) fun _ => keeps_pure _

theorem envRecompute (fuel n : Nat) : Keeps P (envRecompute fuel n) := by
  induction fuel with
  | zero => exact keeps_pure _
  | succ fuel ih =>
    exact keeps_bind (keeps_readVoice _) fun _ => keeps_ite (S.freeVoice _) <| keeps_ite (S.freeVoice _) <|
      keeps_ite (keeps_bind (S.sustainDecay _) fun _ => keeps_ite (S.envNextStage ih _) (keeps_pure _))
        (S.envNextStage ih _)

theorem envUpdate (n : Nat) : Keeps P (envUpdate n) :=
  keeps_bind (keeps_readVoice _) fun _ => keeps_ite (keeps_pure _) <| keeps_bind (S.writeVoice _ _) fun _ =>
    keeps_ite (keeps_bind (S.writeVoice _ _) fun _ => S.envRecompute _ _) (keeps_pure _)

theorem tremSum (quiet : Bool) (sum : Int) : Keeps P (tremSum quiet sum) :=
  keeps_ite (keeps_pure _) (S.sat32 _)

theorem sweep (quiet : Bool) (t : Tremolo) : Keeps P (t.sweep quiet) :=
  keeps_ite (keeps_pure _) (keeps_bind (S.tremSum _ _) fun _ => keeps_pure _)

theorem tremUpdate (quiet : Bool) (n : Nat) : Keeps P (tremUpdate quiet n) :=
  keeps_bind (keeps_readVoice _) fun _ => keeps_bind (S.sweep _ _) fun _ => keeps_bind (S.fmul _ _ _) fun _ => keeps_bind (S.lfoPhase _ _) fun _ =>
    keeps_bind (S.fmul _ _ _) fun _ => keeps_bind (S.tremSum _ _) fun _ => S.writeVoice _ _

theorem menvRecompute (fuel n : Nat) : Keeps P (menvRecompute fuel n) := by
  induction fuel with
  | zero => exact keeps_pure _
  | succ fuel ih =>
    exact keeps_bind (keeps_readVoice _) fun _ => keeps_ite (S.writeVoice _ _) <| keeps_ite (S.writeVoice _ _) <|
      keeps_bind (S.writeVoice _ _) fun _ => keeps_bind (S.fmul _ _ _) fun _ => keeps_ite ih (S.writeVoice _ _)

theorem menvUpdate (n : Nat) : Keeps P (menvUpdate n) :=
  keeps_bind (keeps_readVoice _) fun _ => keeps_ite (keeps_pure _) <| keeps_bind (S.writeVoice _ _) fun _ =>
    keeps_ite (keeps_bind (S.writeVoice _ _) fun _ => S.menvRecompute _ _) (keeps_pure _)

theorem menvApply (n : Nat) : Keeps P (menvApply n) :=
  keeps_bind (keeps_readVoice _) fun _ => keeps_ite (S.writeVoice _ _) (keeps_pure _)

theorem envTable (b : Nat) (e : Int) : Keeps P (envTable b e) :=
  have _ := S
  keeps_bind (keeps_tabRead _) fun _ => keeps_pure _

theorem envLevel (v : Voice) : Keeps P (envLevel v) :=
  keeps_ite (S.envTable _ _) <| keeps_ite (S.envTable _ _) <| keeps_bind (S.fmul _ _ _) fun _ =>
    keeps_bind (S.envTable _ _) fun _ => S.fmul _ _ _

theorem envAmp (n : Nat) : Keeps P (envAmp n) :=
  keeps_bind (keeps_readVoice _) fun _ => keeps_bind (S.envLevel _) fun _ =>
    keeps_bind (keeps_ite (S.fmul _ _ _) (keeps_pure _)) fun _ => keeps_bind (S.fmul _ _ _) fun _ =>
      keeps_bind (S.fmul _ _ _) fun _ => keeps_bind (S.writeVoice _ _) fun _ => keeps_ite (S.freeVoice _) (keeps_pure _)

theorem modulate {body : Cmd Unit} (h : Keeps P body) : Keeps P (modulate body) :=
  have _ := S
  keeps_bind keeps_getState fun _ => keeps_ite h (keeps_pure _)

theorem menvStep (n : Nat) : Keeps P (do
    Machine.menvUpdate n
    Machine.menvApply n) := keeps_bind (S.menvUpdate _) fun _ => S.menvApply _

theorem updateSignal (quiet : Bool) (n : Nat) : Keeps P (updateSignal quiet n) :=
  keeps_bind (S.envUpdate _) fun _ => keeps_ite (keeps_pure _) <| keeps_bind (keeps_readVoice _) fun _ =>
    keeps_bind (keeps_ite (S.tremUpdate _ _) (keeps_pure _)) fun _ =>
      keeps_bind (S.modulate (S.menvStep _)) fun _ => S.envAmp _

/-! ### Mixer -/

theorem mixSmooth (n : Nat) : Keeps P (mixSmooth n) :=
  keeps_bind keeps_getState fun _ => keeps_bind (keeps_readVoice _) fun _ => keeps_bind (S.sat32 _) fun _ =>
    keeps_bind (S.sat32 _) fun _ => keeps_bind (S.sat32 _) fun _ => keeps_bind (S.sat32 _) fun _ => S.writeVoice _ _

theorem sendTo (base f : Word) (side : Side) (send c : Int) : Keeps P (sendTo base f side send c) :=
  keeps_ite (keeps_pure _) <| keeps_bind (S.fmul _ _ _) fun _ => S.memAccumulate _ _

theorem contribute (v : Voice) (f : Word) (side : Side) (c : Int) : Keeps P (contribute v f side c) :=
  keeps_bind keeps_getState fun _ => keeps_bind (S.memAccumulate _ _) fun _ => keeps_bind (S.sendTo _ _ _ _ _) fun _ =>
    keeps_bind (S.sendTo _ _ _ _ _) fun _ => S.sendTo _ _ _ _ _

theorem mixSide (v : Voice) (f : Word) (side : Side) (x l : Int) : Keeps P (mixSide v f side x l) :=
  keeps_bind (S.sat32 _) fun _ => S.contribute _ _ _ _

theorem mixDelayed (n : Nat) (v : Voice) (f : Word) (side : Side) (x l : Int) :
    Keeps P (mixDelayed n v f side x l) :=
  keeps_bind (S.sat32 _) fun _ => keeps_bind (keeps_memRead _) fun _ => keeps_bind (S.contribute _ _ _ _) fun _ =>
    keeps_bind (S.memWrite _ _) fun _ => S.writeVoice _ _

theorem mixSlots (n : Nat) (f : Word) (x lL lR : Int) : Keeps P (mixSlots n f x lL lR) :=
  keeps_bind keeps_getState fun _ => keeps_bind (keeps_readVoice _) fun _ => by
    split
    · exact keeps_ite
        (keeps_ite (keeps_bind (S.mixSide _ _ _ _ _) fun _ => S.mixDelayed _ _ _ _ _ _)
          (keeps_bind (S.mixDelayed _ _ _ _ _ _) fun _ => S.mixSide _ _ _ _ _))
        (keeps_bind (S.mixSide _ _ _ _ _) fun _ => S.mixSide _ _ _ _ _)
    · exact keeps_bind (S.mixSide _ _ _ _ _) fun _ => S.mixSide _ _ _ _ _
    · exact S.mixSide _ _ _ _ _
    · exact S.mixSide _ _ _ _ _

theorem nextSample (n : Nat) : Keeps P (nextSample n) :=
  keeps_bind (keeps_readVoice _) fun _ => keeps_bind (keeps_memRead _) fun _ => keeps_bind (S.writeVoice _ _) fun _ =>
    keeps_pure _

theorem voiceFilter (n : Nat) (x : Int) : Keeps P (voiceFilter n x) :=
  keeps_bind (keeps_readVoice _) fun _ => by
    split
    · exact keeps_bind (S.svfStep _ _ _ _) fun _ => keeps_bind (S.writeVoice _ _) fun _ => keeps_pure _
    · exact keeps_bind (S.moogStep _ _ _ _ _) fun _ => keeps_bind (S.writeVoice _ _) fun _ => keeps_pure _
    · exact keeps_pure _

theorem rampAdvance (o i : Word) : Keeps P (rampAdvance o i) :=
  keeps_ite (keeps_pure _) <| keeps_bind (S.sat32 _) fun _ => keeps_pure _

theorem mixFrame (n : Nat) (f : Word) : Keeps P (mixFrame n f) :=
  keeps_bind (S.nextSample _) fun _ => keeps_bind (S.voiceFilter _ _) fun _ => keeps_bind (keeps_readVoice _) fun _ =>
    keeps_bind (S.sat32 _) fun _ => keeps_bind (S.sat32 _) fun _ => keeps_bind (S.rampAdvance _ _) fun _ =>
      keeps_bind (S.rampAdvance _ _) fun _ => keeps_bind (S.writeVoice _ _) fun _ => S.mixSlots _ _ _ _ _

theorem mixFrames (n count : Nat) : ∀ f, Keeps P (mixFrames n count f) := by
  induction count with
  | zero => exact fun _ => keeps_pure _
  | succ m ih => exact fun _ => keeps_bind (S.mixFrame _ _) fun _ => ih _

theorem controlUpdate (n : Nat) : Keeps P (controlUpdate n) :=
  keeps_bind keeps_getState fun _ => keeps_bind (keeps_readVoice _) fun _ => keeps_ite
    (keeps_bind (S.writeVoice _ _) fun _ => keeps_bind (S.updateSignal _ _) fun _ => keeps_ite (keeps_pure _)
      (keeps_bind (S.mixSmooth _) fun _ => keeps_pure _))
    (keeps_pure _)

theorem signalVariant (n fuel : Nat) : ∀ left f, Keeps P (signalVariant n fuel left f) := by
  induction fuel with
  | zero => exact fun _ _ => keeps_pure _
  | succ m ih =>
    exact fun _ _ => keeps_ite (keeps_pure _) <| keeps_bind (S.controlUpdate _) fun _ => keeps_ite (keeps_pure _) <|
      keeps_bind (keeps_readVoice _) fun _ => keeps_bind (S.mixFrames _ _ _) fun _ =>
        keeps_bind (S.writeVoice _ _) fun _ => ih _ _

theorem dieFrames (n : Nat) (iL iR : Int) (count : Nat) : ∀ f lL lR, Keeps P (dieFrames n iL iR count f lL lR) := by
  induction count with
  | zero => exact fun _ _ _ => keeps_pure _
  | succ m ih =>
    exact fun _ _ _ => keeps_bind (S.sat32 _) fun _ => keeps_bind (S.sat32 _) fun _ =>
      keeps_bind (keeps_readVoice _) fun _ => keeps_ite
        (keeps_bind (S.nextSample _) fun _ => keeps_bind (S.voiceFilter _ _) fun _ =>
          keeps_bind (S.mixSlots _ _ _ _ _) fun _ => ih _ _ _)
        (keeps_ite (keeps_pure _) (keeps_bind (S.nextSample _) fun _ => keeps_bind (S.voiceFilter _ _) fun _ =>
          keeps_bind (S.mixSlots _ _ _ _ _) fun _ => ih _ _ _))

theorem dieRamp (n count : Nat) (f : Word) : Keeps P (dieRamp n count f) :=
  keeps_bind keeps_getState fun _ => keeps_bind (keeps_readVoice _) fun _ => keeps_bind (S.sat32 _) fun _ =>
    keeps_bind (S.sat32 _) fun _ => keeps_bind (S.dieFrames _ _ _ _ _ _ _) fun _ => S.freeVoice _

theorem mixRoutine (n count : Nat) (f : Word) : Keeps P (mixRoutine n count f) :=
  keeps_bind (keeps_readVoice _) fun _ => keeps_ite (S.signalVariant _ _ _ _)
    (keeps_bind (S.mixFrames _ _ _) fun _ => keeps_pure _)

theorem mixLive (n count : Nat) (f : Word) : Keeps P (mixLive n count f) :=
  keeps_bind (keeps_readVoice _) fun _ => keeps_ite (keeps_bind (S.writeVoice _ _) fun _ => keeps_pure _)
    (keeps_bind (S.writeVoice _ _) fun _ => S.mixRoutine _ _ _)

/-! ### Effects -/

theorem fxLfo (c cycle : Nat) : Keeps P (fxLfo c cycle) := S.waveAt _ _

theorem combBank (x fb damp : Int) (cs : List CombLine) : ∀ acc, Keeps P (combBank x fb damp cs acc) := by
  induction cs with
  | nil => exact fun _ => keeps_pure _
  | cons c cs ih =>
    exact fun _ => keeps_bind (S.combStep _ _ _ _ _) fun _ => keeps_bind (S.sat32 _) fun _ =>
      keeps_bind (ih _) fun _ => keeps_pure _

theorem apfChain (g : Int) (ls : List Line) : ∀ x, Keeps P (apfChain g ls x) := by
  induction ls with
  | nil => exact fun _ => keeps_pure _
  | cons l ls ih => exact fun _ => keeps_bind (S.apfStep _ _ _) fun _ => keeps_bind (ih _) fun _ => keeps_pure _

theorem freeverbFrame (r : FreeverbRec) (xL xR : Int) : Keeps P (freeverbFrame r xL xR) :=
  keeps_bind (S.sat32 _) fun _ => keeps_bind (S.fmul _ _ _) fun _ => keeps_bind (S.combBank _ _ _ _ _) fun _ =>
    keeps_bind (S.combBank _ _ _ _ _) fun _ => keeps_bind (S.apfChain _ _ _) fun _ =>
      keeps_bind (S.apfChain _ _ _) fun _ => keeps_bind (S.fmul _ _ _) fun _ => keeps_bind (S.fmul _ _ _) fun _ =>
        keeps_bind (S.sat32 _) fun _ => keeps_bind (S.fmul _ _ _) fun _ => keeps_bind (S.fmul _ _ _) fun _ =>
          keeps_bind (S.sat32 _) fun _ => keeps_pure _

theorem modLat (sr : Nat) (p : FxParams) (l : Line) (x g v h : Int) (n : Nat) : Keeps P (modLat sr p l x g v h n) :=
  keeps_bind (S.lineInterpQ16 _ _ _) fun _ => keeps_bind (S.latticeWith _ _ _ _) fun _ => keeps_pure _

theorem preDelay (pd : Option Line) (x : Int) : Keeps P (preDelay pd x) := by
  cases pd
  · exact keeps_pure _
  · exact keeps_bind (S.lineDelay _ _) fun _ => keeps_pure _

theorem plateHalf (sr : Nat) (p : FxParams) (m d1 a2 d2 : Line) (st h u v : Int) (n : Nat) :
    Keeps P (plateHalf sr p m d1 a2 d2 st h u v n) :=
  keeps_bind (S.sat32 _) fun _ => keeps_bind (S.modLat _ _ _ _ _ _ _ _) fun _ => keeps_bind (S.lineDelay _ _) fun _ =>
    keeps_bind (S.lowPass _ _ _) fun _ => keeps_bind (S.fmul _ _ _) fun _ => keeps_bind (S.latStep _ _ _) fun _ =>
      keeps_bind (S.lineDelay _ _) fun _ => keeps_pure _

theorem plateNetwork (sr : Nat) (r : PlateRec) (xL xR : Int) : Keeps P (plateNetwork sr r xL xR) :=
  keeps_bind (S.sat32 _) fun _ => keeps_bind (S.fmul _ _ _) fun _ => keeps_bind (S.preDelay _ _) fun _ =>
    keeps_bind (S.latStep _ _ _) fun _ => keeps_bind (S.latStep _ _ _) fun _ => keeps_bind (S.latStep _ _ _) fun _ =>
      keeps_bind (S.latStep _ _ _) fun _ => keeps_bind (S.fxLfo _ _) fun _ => keeps_bind (S.fxLfo _ _) fun _ =>
        keeps_bind (S.fmul _ _ _) fun _ => keeps_bind (S.sat32 _) fun _ => keeps_bind (S.fmul _ _ _) fun _ =>
          keeps_bind (S.sat32 _) fun _ => keeps_bind (S.plateHalf _ _ _ _ _ _ _ _ _ _ _) fun _ =>
            keeps_bind (S.plateHalf _ _ _ _ _ _ _ _ _ _ _) fun _ => keeps_pure _

theorem plateTap (sr : Nat) (l : Line) (n : Nat) : Keeps P (plateTap sr l n) := S.lineTap _ _

theorem plateTaps (sr : Nat) (r : PlateRec) : Keeps P (plateTaps sr r) :=
  keeps_bind (S.plateTap _ _ _) fun _ => keeps_bind (S.plateTap _ _ _) fun _ => keeps_bind (S.plateTap _ _ _) fun _ =>
    keeps_bind (S.plateTap _ _ _) fun _ => keeps_bind (S.plateTap _ _ _) fun _ => keeps_bind (S.plateTap _ _ _) fun _ =>
      keeps_bind (S.plateTap _ _ _) fun _ => keeps_bind (S.plateTap _ _ _) fun _ =>
        keeps_bind (S.plateTap _ _ _) fun _ => keeps_bind (S.plateTap _ _ _) fun _ =>
          keeps_bind (S.plateTap _ _ _) fun _ => keeps_bind (S.plateTap _ _ _) fun _ =>
            keeps_bind (S.plateTap _ _ _) fun _ => keeps_bind (S.plateTap _ _ _) fun _ =>
              keeps_bind (S.sat32 _) fun _ => keeps_bind (S.sat32 _) fun _ => keeps_bind (S.fmul _ _ _) fun _ =>
                keeps_bind (S.fmul _ _ _) fun _ => keeps_pure _

theorem plateFrame (r : PlateRec) (xL xR : Int) : Keeps P (plateFrame r xL xR) :=
  keeps_bind keeps_getState fun _ => keeps_bind (S.plateNetwork _ _ _ _) fun _ =>
    keeps_bind (S.plateTaps _ _) fun _ => keeps_pure _

theorem chorusChannel (p : FxParams) (l : Line) (h : Word) (x : Int) (c : Nat) : Keeps P (chorusChannel p l h x c) :=
  keeps_bind (S.fxLfo _ _) fun _ => keeps_bind (S.fmul _ _ _) fun _ => keeps_bind (S.lineInterpQ16 _ _ _) fun _ =>
    keeps_bind (S.fmul _ _ _) fun _ => keeps_bind (S.sat32 _) fun _ => keeps_bind (S.linePush _ _) fun _ =>
      keeps_pure _

theorem chorusFrame (r : ChorusRec) (xL xR : Int) : Keeps P (chorusFrame r xL xR) :=
  keeps_bind (S.chorusChannel _ _ _ _ _) fun _ => keeps_bind (S.chorusChannel _ _ _ _ _) fun _ => keeps_pure _

theorem hexaTaps (p : FxParams) (l : Line) (c count : Nat) :
    ∀ i acc wL wR h, Keeps P (hexaTaps p l c count i acc wL wR h) := by
  induction count with
  | zero => exact fun _ _ _ _ _ => keeps_pure _
  | succ m ih =>
    exact fun _ _ _ _ _ => keeps_bind (S.fxLfo _ _) fun _ => keeps_bind (S.fmul _ _ _) fun _ =>
      keeps_bind (S.lineInterpQ16 _ _ _) fun _ => keeps_bind (S.sat32 _) fun _ => keeps_bind (S.fmul _ _ _) fun _ =>
        keeps_bind (S.sat32 _) fun _ => keeps_bind (S.fmul _ _ _) fun _ => keeps_bind (S.sat32 _) fun _ =>
          ih _ _ _ _ _

theorem hexaFrame (r : HexaRec) (xL xR : Int) : Keeps P (hexaFrame r xL xR) :=
  keeps_bind (S.sat32 _) fun _ => keeps_bind (S.hexaTaps _ _ _ _ _ _ _ _ _) fun _ =>
    keeps_bind (S.fmul _ _ _) fun _ => keeps_bind (S.sat32 _) fun _ => keeps_bind (S.linePush _ _) fun _ =>
      keeps_pure _

theorem buildSlot (i : Nat) : Keeps P (buildSlot i) :=
  keeps_bind (S.modifySlot _ _) fun _ => keeps_bind keeps_getState fun _ => keeps_ite (keeps_pure _) <|
    keeps_ite (S.setSlot _ _) <| keeps_ite (keeps_bind (S.clearWords _ _) fun _ => S.setSlot _ _)
      (keeps_raiseFatal _)

theorem dryWet (p : FxParams) (x w : Int) : Keeps P (dryWet p x w) :=
  keeps_bind (S.fmul _ _ _) fun _ => keeps_bind (S.fmul _ _ _) fun _ => S.sat32 _

theorem finishFrame (i : Nat) (p : FxParams) (xL xR wL wR : Int) (r : FxRecord) :
    Keeps P (finishFrame i p xL xR wL wR r) :=
  keeps_bind (S.modifySlot _ _) fun _ => keeps_bind (S.dryWet _ _ _) fun _ => keeps_bind (S.dryWet _ _ _) fun _ =>
    keeps_pure _

theorem slotFrame (i : Nat) (xL xR : Int) : Keeps P (slotFrame i xL xR) :=
  keeps_bind keeps_getState fun _ => keeps_ite (keeps_pure _) <| by
    split
    · exact keeps_pure _
    · exact keeps_pure _
    · exact keeps_bind (S.freeverbFrame _ _ _) fun _ => S.finishFrame _ _ _ _ _ _ _
    · exact keeps_bind (S.plateFrame _ _ _) fun _ => S.finishFrame _ _ _ _ _ _ _
    · exact keeps_bind (S.chorusFrame _ _ _) fun _ => S.finishFrame _ _ _ _ _ _ _
    · exact keeps_bind (S.hexaFrame _ _ _) fun _ => S.finishFrame _ _ _ _ _ _ _

theorem deliver (bus : FxBus) (f : Word) (yL yR : Int) : Keeps P (deliver bus f yL yR) :=
  keeps_bind keeps_getState fun _ => keeps_ite (keeps_bind (S.memWrite _ _) fun _ => S.memWrite _ _)
    (keeps_bind (S.memAccumulate _ _) fun _ => keeps_bind (S.memAccumulate _ _) fun _ =>
      keeps_bind (S.memWrite _ _) fun _ => S.memWrite _ _)

theorem processFrame (i : Nat) (f : Word) : Keeps P (processFrame i f) :=
  keeps_bind keeps_getState fun _ => keeps_bind (keeps_memRead _) fun _ => keeps_bind (keeps_memRead _) fun _ =>
    keeps_bind (S.slotFrame _ _ _) fun _ => S.deliver _ _ _ _

theorem processFrames (i count : Nat) : ∀ f, Keeps P (processFrames i count f) := by
  induction count with
  | zero => exact fun _ => keeps_pure _
  | succ m ih => exact fun _ => keeps_bind (S.processFrame _ _) fun _ => ih _

theorem lazyInit (i : Nat) : Keeps P (lazyInit i) :=
  keeps_bind keeps_getState fun _ => keeps_ite (S.buildSlot _) (keeps_pure _)

theorem clearIf (b : Bool) (base off : Word) (n : Nat) : Keeps P (clearIf b base off n) :=
  keeps_ite (S.memClear _ _) (keeps_pure _)

/-! ### Guards -/

theorem withDelay (u : Nat) {body : DelayUnit → Cmd Unit} (h : ∀ d, Keeps P (body d)) : Keeps P (withDelay u body) :=
  keeps_bind keeps_getState fun _ => by
    split
    · exact S.raiseFlag _
    · exact keeps_ite (h _) (S.raiseFlag _)

theorem withFilter (u : Nat) {body : FilterUnit → Cmd Unit} (h : ∀ d, Keeps P (body d)) :
    Keeps P (withFilter u body) :=
  keeps_bind keeps_getState fun _ => by
    split
    · exact S.raiseFlag _
    · exact h _

theorem withVoice (n : Nat) {free body : Cmd Unit} (hf : Keeps P free) (hb : Keeps P body) :
    Keeps P (withVoice n free body) :=
  keeps_bind keeps_getState fun _ => by
    split
    · exact S.raiseFlag _
    · exact keeps_ite hf hb

theorem withSlot (i : Nat) {body : Cmd Unit} (h : Keeps P body) : Keeps P (withSlot i body) :=
  keeps_bind keeps_getState fun _ => keeps_ite h (S.raiseFlag _)

end Stable

theorem arithmetic_keeps {op : Int → Int → Cmd Int} (rd rs1 rs2 : Nat) (S : Stable P (some rd))
    (h : ∀ a b, Keeps P (op a b)) : Keeps P (arithmetic op rd rs1 rs2) :=
  keeps_bind (keeps_readRegS _) fun _ => keeps_bind (keeps_readRegS _) fun _ => keeps_bind (h _ _) fun _ =>
    S.writeReg _ _ rfl

/-- Every command but WRREG is a body that keeps each stable property: it completes, or halts at a Fatal and does
nothing else. -/
theorem exec_keeps (i : Instr) (s : State) (h : Claims.controlWrite s i = none) :
    ∃ c : Cmd Unit, exec i s = runCmd c s ∧ ∀ P, Stable P (Claims.destination i) → Keeps P c := by
  cases i with
  | nop =>
    refine ⟨pure (), rfl, ?_⟩
    exact fun P S => keeps_pure _
  | lui rd imm =>
    refine ⟨writeReg rd (BitVec.ofNat 32 (imm * 2 ^ 10)), rfl, ?_⟩
    exact fun P S => S.writeReg _ _ rfl
  | ori rd rs1 imm =>
    refine ⟨readReg rs1 >>= fun a => writeReg rd (a ||| BitVec.ofNat 32 imm), rfl, ?_⟩
    exact fun P S => keeps_bind (keeps_readReg _) fun _ => S.writeReg _ _ rfl
  | adds rd a b =>
    refine ⟨_, rfl, ?_⟩
    exact fun P S => arithmetic_keeps _ _ _ S S.adds
  | subs rd a b =>
    refine ⟨_, rfl, ?_⟩
    exact fun P S => arithmetic_keeps _ _ _ S S.subs
  | rdreg rd a b =>
    refine ⟨readReg a >>= fun base => getState >>= fun t => writeReg rd (readControl t (controlAddress base b)), rfl, ?_⟩
    exact fun P S => keeps_bind (keeps_readReg _) fun _ => keeps_bind keeps_getState fun _ =>
      S.writeReg _ _ rfl
  | wrreg a b c => simp [Claims.controlWrite] at h
  | lds rd a b =>
    refine ⟨_, rfl, ?_⟩
    exact fun P S => keeps_bind (keeps_readReg _) fun _ => keeps_bind (keeps_memRead _) fun _ =>
      S.writeReg _ _ rfl
  | sts a b c =>
    refine ⟨_, rfl, ?_⟩
    exact fun P S => keeps_bind (keeps_readReg _) fun _ => keeps_bind (keeps_readReg _) fun _ =>
      S.memWrite _ _
  | accs a b c =>
    refine ⟨_, rfl, ?_⟩
    exact fun P S => keeps_bind (keeps_readReg _) fun _ => keeps_bind (keeps_readRegS _) fun _ =>
      S.memAccumulate _ _
  | fmul8 rd a b =>
    refine ⟨_, rfl, ?_⟩
    exact fun P S => arithmetic_keeps _ _ _ S (S.fmul 8)
  | fmul16 rd a b =>
    refine ⟨_, rfl, ?_⟩
    exact fun P S => arithmetic_keeps _ _ _ S (S.fmul 16)
  | fmul24 rd a b =>
    refine ⟨_, rfl, ?_⟩
    exact fun P S => arithmetic_keeps _ _ _ S (S.fmul 24)
  | fmul28 rd a b =>
    refine ⟨_, rfl, ?_⟩
    exact fun P S => arithmetic_keeps _ _ _ S (S.fmul 28)
  | fdiv8 rd a b =>
    refine ⟨_, rfl, ?_⟩
    exact fun P S => arithmetic_keeps _ _ _ S (S.fdiv 8)
  | fdiv16 rd a b =>
    refine ⟨_, rfl, ?_⟩
    exact fun P S => arithmetic_keeps _ _ _ S (S.fdiv 16)
  | fdiv24 rd a b =>
    refine ⟨_, rfl, ?_⟩
    exact fun P S => arithmetic_keeps _ _ _ S (S.fdiv 24)
  | fdiv28 rd a b =>
    refine ⟨_, rfl, ?_⟩
    exact fun P S => arithmetic_keeps _ _ _ S (S.fdiv 28)
  | dlcfg a b u =>
    refine ⟨_, rfl, fun P S => keeps_bind (keeps_readReg _) fun _ => keeps_bind (keeps_readReg _) fun _ =>
      keeps_bind keeps_getState fun _ => ?_⟩
    split
    · exact S.raiseFlag _
    · exact keeps_ite (keeps_bind (S.clearWords _ _) fun _ => S.setDelay _ _) (keeps_raiseFatal _)
  | dlwr a u =>
    refine ⟨_, rfl, ?_⟩
    exact fun P S => S.withDelay u fun _ => keeps_bind (keeps_readRegS _) fun _ =>
      keeps_bind (S.linePush _ _) fun _ => S.setDelay _ _
  | dlrd rd a u =>
    refine ⟨_, rfl, ?_⟩
    exact fun P S => S.withDelay u fun _ => keeps_bind (keeps_readRegS _) fun _ =>
      keeps_bind (S.lineTap _ _) fun _ => S.writeReg _ _ rfl
  | dlmrd rd a b u =>
    refine ⟨_, rfl, ?_⟩
    exact fun P S => S.withDelay u fun _ => keeps_bind (keeps_readRegS _) fun _ =>
      keeps_bind (keeps_readRegS _) fun _ => keeps_bind (S.lineInterp _ _ _ _) fun _ => keeps_bind (S.setDelay _ _) fun _ =>
        S.writeReg _ _ rfl
  | comb rd a u =>
    refine ⟨_, rfl, ?_⟩
    exact fun P S => S.withDelay u fun _ => keeps_bind (keeps_readRegS _) fun _ =>
      keeps_bind (S.combStep _ _ _ _ _) fun _ => keeps_bind (S.setDelay _ _) fun _ => S.writeReg _ _ rfl
  | apf rd a u =>
    refine ⟨_, rfl, ?_⟩
    exact fun P S => S.withDelay u fun _ => keeps_bind (keeps_readRegS _) fun _ =>
      keeps_bind (S.apfStep _ _ _) fun _ => keeps_bind (S.setDelay _ _) fun _ => S.writeReg _ _ rfl
  | lfocfg a b u =>
    refine ⟨_, rfl, fun P S => keeps_bind (keeps_readReg _) fun _ => keeps_bind (keeps_readReg _) fun _ =>
      keeps_bind keeps_getState fun _ => ?_⟩
    split
    · exact S.raiseFlag _
    · exact keeps_bind (S.raiseFlagIf _ _) fun _ => S.setLfo _ _
  | lfostep rd u =>
    refine ⟨_, rfl, fun P S => keeps_bind keeps_getState fun _ => ?_⟩
    split
    · exact S.raiseFlag _
    · exact keeps_ite (S.raiseFlag _) (keeps_bind (S.waveAt _ _) fun _ => keeps_bind (S.setLfo _ _) fun _ =>
        S.writeReg _ _ rfl)
  | bq rd a u =>
    refine ⟨_, rfl, ?_⟩
    exact fun P S => S.withFilter u fun _ => keeps_bind (keeps_readRegS _) fun _ =>
      keeps_bind (S.sat32 _) fun _ => keeps_bind (S.setFilter _ _) fun _ => S.writeReg _ _ rfl
  | svf rd a u =>
    refine ⟨_, rfl, ?_⟩
    exact fun P S => S.withFilter u fun _ => keeps_bind (keeps_readRegS _) fun _ =>
      keeps_bind (S.svfStep _ _ _ _) fun _ => keeps_bind (S.setFilter _ _) fun _ => S.writeReg _ _ rfl
  | moog rd a u =>
    refine ⟨_, rfl, ?_⟩
    exact fun P S => S.withFilter u fun _ => keeps_bind (keeps_readRegS _) fun _ =>
      keeps_bind (S.moogStep _ _ _ _ _) fun _ => keeps_bind (S.setFilter _ _) fun _ => S.writeReg _ _ rfl
  | fclr u =>
    refine ⟨_, rfl, ?_⟩
    exact fun P S => S.withFilter u fun _ => S.setFilter _ _
  | envupd rd n =>
    refine ⟨_, rfl, ?_⟩
    exact fun P S => S.withVoice n (S.writeReg _ _ rfl) <| keeps_bind (S.updateSignal _ _) fun _ =>
      S.writeReg _ _ rfl
  | envamp rd n =>
    refine ⟨_, rfl, ?_⟩
    exact fun P S => S.withVoice n (S.writeReg _ _ rfl) <| keeps_bind (S.envAmp _) fun _ =>
      S.writeReg _ _ rfl
  | tremupd n =>
    refine ⟨_, rfl, ?_⟩
    exact fun P S => S.withVoice n (keeps_pure _) (S.tremUpdate _ _)
  | menvupd n =>
    refine ⟨_, rfl, ?_⟩
    exact fun P S => S.withVoice n (keeps_pure _) (S.modulate (S.menvStep _))
  | mixsmooth n =>
    refine ⟨_, rfl, ?_⟩
    exact fun P S => S.withVoice n (keeps_pure _) (S.mixSmooth _)
  | mixv rd a b n =>
    refine ⟨_, rfl, ?_⟩
    exact fun P S => S.withVoice n (S.writeReg _ _ rfl) <| keeps_bind (keeps_readReg _) fun _ =>
      keeps_bind (keeps_readReg _) fun _ => keeps_bind (keeps_readVoice _) fun _ => keeps_ite (S.writeReg _ _ rfl) <|
        keeps_bind (keeps_ite (S.dieRamp _ _ _) (S.mixLive _ _ _)) fun _ => S.writeReg _ _ rfl
  | fxinit i =>
    refine ⟨_, rfl, ?_⟩
    exact fun P S => S.withSlot i (S.buildSlot _)
  | fxproc a b i =>
    refine ⟨_, rfl, ?_⟩
    exact fun P S => S.withSlot i <| keeps_bind (keeps_readReg _) fun _ =>
      keeps_bind (keeps_readReg _) fun _ => keeps_bind (S.lazyInit _) fun _ => keeps_bind keeps_getState fun _ =>
        keeps_ite (keeps_pure _) (S.processFrames _ _ _)
  | fxfree i =>
    refine ⟨_, rfl, ?_⟩
    exact fun P S => S.withSlot i (S.modifySlot _ _)
  | busclr a b m =>
    refine ⟨_, rfl, ?_⟩
    exact fun P S => keeps_bind (keeps_readReg _) fun _ => keeps_bind (keeps_readRegS _) fun _ =>
      keeps_bind (S.clearIf _ _ _ _) fun _ => keeps_bind (S.clearIf _ _ _ _) fun _ =>
        keeps_bind (S.clearIf _ _ _ _) fun _ => S.clearIf _ _ _ _
  | envstart n =>
    refine ⟨_, rfl, ?_⟩
    exact fun P S => S.withVoice n (keeps_pure _) <| keeps_bind (S.writeVoice _ _) fun _ =>
      keeps_bind (S.envRecompute _ _) fun _ => keeps_ite (keeps_pure _) <|
        keeps_bind (S.modulate (keeps_bind (S.writeVoice _ _) fun _ => keeps_bind (S.menvRecompute _ _) fun _ =>
          S.menvApply _)) fun _ => keeps_bind (S.envAmp _) fun _ => keeps_pure _
  | envrel n =>
    refine ⟨_, rfl, ?_⟩
    exact fun P S => S.withVoice n (keeps_pure _) <| keeps_bind (S.writeVoice _ _) fun _ =>
      keeps_bind (S.envRecompute _ _) fun _ => keeps_ite (keeps_pure _) <|
        keeps_bind (S.modulate (keeps_bind (S.writeVoice _ _) fun _ => keeps_bind (S.menvRecompute _ _) fun _ =>
          S.menvApply _)) fun _ => keeps_bind (S.envAmp _) fun _ => keeps_pure _

end Sys2Proof.Machine
end

