-- ==== Sys2Proof/Laws/State.lean ====
section
/-! SUPPORT. What each update of the state does to each field: one lemma per field per update. -/

namespace Sys2Proof.Machine

/-! ### `State.withFlag` -/

@[simp] theorem State.withFlag_regs (f : Flag) (s : State) : (State.withFlag f s).regs = s.regs := rfl
@[simp] theorem State.withFlag_cmdSeq (f : Flag) (s : State) : (State.withFlag f s).cmdSeq = s.cmdSeq := rfl
@[simp] theorem State.withFlag_status (f : Flag) (s : State) : (State.withFlag f s).status = s.status ||| flagMask f := rfl
@[simp] theorem State.withFlag_ctrl (f : Flag) (s : State) : (State.withFlag f s).ctrl = s.ctrl := rfl
@[simp] theorem State.withFlag_sampleRate (f : Flag) (s : State) : (State.withFlag f s).sampleRate = s.sampleRate := rfl
@[simp] theorem State.withFlag_controlRatio (f : Flag) (s : State) : (State.withFlag f s).controlRatio = s.controlRatio := rfl
@[simp] theorem State.withFlag_minSustainTime (f : Flag) (s : State) : (State.withFlag f s).minSustainTime = s.minSustainTime := rfl
@[simp] theorem State.withFlag_mixWindow (f : Flag) (s : State) : (State.withFlag f s).mixWindow = s.mixWindow := rfl
@[simp] theorem State.withFlag_maxDieTime (f : Flag) (s : State) : (State.withFlag f s).maxDieTime = s.maxDieTime := rfl
@[simp] theorem State.withFlag_outBase (f : Flag) (s : State) : (State.withFlag f s).outBase = s.outBase := rfl
@[simp] theorem State.withFlag_busRevBase (f : Flag) (s : State) : (State.withFlag f s).busRevBase = s.busRevBase := rfl
@[simp] theorem State.withFlag_busChoBase (f : Flag) (s : State) : (State.withFlag f s).busChoBase = s.busChoBase := rfl
@[simp] theorem State.withFlag_busDlyBase (f : Flag) (s : State) : (State.withFlag f s).busDlyBase = s.busDlyBase := rfl
@[simp] theorem State.withFlag_fatalCause (f : Flag) (s : State) : (State.withFlag f s).fatalCause = s.fatalCause := rfl
@[simp] theorem State.withFlag_fatalInfo (f : Flag) (s : State) : (State.withFlag f s).fatalInfo = s.fatalInfo := rfl
@[simp] theorem State.withFlag_fatalAddr (f : Flag) (s : State) : (State.withFlag f s).fatalAddr = s.fatalAddr := rfl
@[simp] theorem State.withFlag_chState (f : Flag) (s : State) : (State.withFlag f s).chState = s.chState := rfl
@[simp] theorem State.withFlag_voices (f : Flag) (s : State) : (State.withFlag f s).voices = s.voices := rfl
@[simp] theorem State.withFlag_delays (f : Flag) (s : State) : (State.withFlag f s).delays = s.delays := rfl
@[simp] theorem State.withFlag_lfos (f : Flag) (s : State) : (State.withFlag f s).lfos = s.lfos := rfl
@[simp] theorem State.withFlag_filters (f : Flag) (s : State) : (State.withFlag f s).filters = s.filters := rfl
@[simp] theorem State.withFlag_slots (f : Flag) (s : State) : (State.withFlag f s).slots = s.slots := rfl
@[simp] theorem State.withFlag_sramWords (f : Flag) (s : State) : (State.withFlag f s).sramWords = s.sramWords := rfl
@[simp] theorem State.withFlag_sram (f : Flag) (s : State) : (State.withFlag f s).sram = s.sram := rfl
@[simp] theorem State.withFlag_tram (f : Flag) (s : State) : (State.withFlag f s).tram = s.tram := rfl
@[simp] theorem State.withFlag_cmd (f : Flag) (s : State) : (State.withFlag f s).cmd = s.cmd := rfl
@[simp] theorem State.withFlag_port (f : Flag) (s : State) : (State.withFlag f s).port = s.port := rfl
@[simp] theorem State.withFlag_hostData (f : Flag) (s : State) : (State.withFlag f s).hostData = s.hostData := rfl
@[simp] theorem State.withFlag_freeCount (f : Flag) (s : State) : (State.withFlag f s).freeCount = s.freeCount := rfl

/-! ### `takeFatal` -/

@[simp] theorem takeFatal_regs (f : Fault) (s : State) : (takeFatal f s).regs = s.regs := rfl
@[simp] theorem takeFatal_cmdSeq (f : Fault) (s : State) : (takeFatal f s).cmdSeq = s.cmdSeq := rfl
@[simp] theorem takeFatal_status (f : Fault) (s : State) : (takeFatal f s).status = s.status ||| fatalMask := rfl
@[simp] theorem takeFatal_ctrl (f : Fault) (s : State) : (takeFatal f s).ctrl = s.ctrl := rfl
@[simp] theorem takeFatal_sampleRate (f : Fault) (s : State) : (takeFatal f s).sampleRate = s.sampleRate := rfl
@[simp] theorem takeFatal_controlRatio (f : Fault) (s : State) : (takeFatal f s).controlRatio = s.controlRatio := rfl
@[simp] theorem takeFatal_minSustainTime (f : Fault) (s : State) : (takeFatal f s).minSustainTime = s.minSustainTime := rfl
@[simp] theorem takeFatal_mixWindow (f : Fault) (s : State) : (takeFatal f s).mixWindow = s.mixWindow := rfl
@[simp] theorem takeFatal_maxDieTime (f : Fault) (s : State) : (takeFatal f s).maxDieTime = s.maxDieTime := rfl
@[simp] theorem takeFatal_outBase (f : Fault) (s : State) : (takeFatal f s).outBase = s.outBase := rfl
@[simp] theorem takeFatal_busRevBase (f : Fault) (s : State) : (takeFatal f s).busRevBase = s.busRevBase := rfl
@[simp] theorem takeFatal_busChoBase (f : Fault) (s : State) : (takeFatal f s).busChoBase = s.busChoBase := rfl
@[simp] theorem takeFatal_busDlyBase (f : Fault) (s : State) : (takeFatal f s).busDlyBase = s.busDlyBase := rfl
@[simp] theorem takeFatal_fatalCause (f : Fault) (s : State) : (takeFatal f s).fatalCause = f.cause := rfl
@[simp] theorem takeFatal_fatalInfo (f : Fault) (s : State) : (takeFatal f s).fatalInfo = s.cmd := rfl
@[simp] theorem takeFatal_fatalAddr (f : Fault) (s : State) : (takeFatal f s).fatalAddr = f.info := rfl
@[simp] theorem takeFatal_chState (f : Fault) (s : State) : (takeFatal f s).chState = s.chState := rfl
@[simp] theorem takeFatal_voices (f : Fault) (s : State) : (takeFatal f s).voices = s.voices := rfl
@[simp] theorem takeFatal_delays (f : Fault) (s : State) : (takeFatal f s).delays = s.delays := rfl
@[simp] theorem takeFatal_lfos (f : Fault) (s : State) : (takeFatal f s).lfos = s.lfos := rfl
@[simp] theorem takeFatal_filters (f : Fault) (s : State) : (takeFatal f s).filters = s.filters := rfl
@[simp] theorem takeFatal_slots (f : Fault) (s : State) : (takeFatal f s).slots = s.slots := rfl
@[simp] theorem takeFatal_sramWords (f : Fault) (s : State) : (takeFatal f s).sramWords = s.sramWords := rfl
@[simp] theorem takeFatal_sram (f : Fault) (s : State) : (takeFatal f s).sram = s.sram := rfl
@[simp] theorem takeFatal_tram (f : Fault) (s : State) : (takeFatal f s).tram = s.tram := rfl
@[simp] theorem takeFatal_cmd (f : Fault) (s : State) : (takeFatal f s).cmd = s.cmd := rfl
@[simp] theorem takeFatal_port (f : Fault) (s : State) : (takeFatal f s).port = s.port := rfl
@[simp] theorem takeFatal_hostData (f : Fault) (s : State) : (takeFatal f s).hostData = s.hostData := rfl
@[simp] theorem takeFatal_freeCount (f : Fault) (s : State) : (takeFatal f s).freeCount = s.freeCount := rfl

/-! ### `completeCommand` -/

@[simp] theorem completeCommand_regs (s : State) : (completeCommand s).regs = s.regs := rfl
@[simp] theorem completeCommand_cmdSeq (s : State) : (completeCommand s).cmdSeq = s.cmdSeq + 1 := rfl
@[simp] theorem completeCommand_status (s : State) : (completeCommand s).status = s.status := rfl
@[simp] theorem completeCommand_ctrl (s : State) : (completeCommand s).ctrl = s.ctrl := rfl
@[simp] theorem completeCommand_sampleRate (s : State) : (completeCommand s).sampleRate = s.sampleRate := rfl
@[simp] theorem completeCommand_controlRatio (s : State) : (completeCommand s).controlRatio = s.controlRatio := rfl
@[simp] theorem completeCommand_minSustainTime (s : State) : (completeCommand s).minSustainTime = s.minSustainTime := rfl
@[simp] theorem completeCommand_mixWindow (s : State) : (completeCommand s).mixWindow = s.mixWindow := rfl
@[simp] theorem completeCommand_maxDieTime (s : State) : (completeCommand s).maxDieTime = s.maxDieTime := rfl
@[simp] theorem completeCommand_outBase (s : State) : (completeCommand s).outBase = s.outBase := rfl
@[simp] theorem completeCommand_busRevBase (s : State) : (completeCommand s).busRevBase = s.busRevBase := rfl
@[simp] theorem completeCommand_busChoBase (s : State) : (completeCommand s).busChoBase = s.busChoBase := rfl
@[simp] theorem completeCommand_busDlyBase (s : State) : (completeCommand s).busDlyBase = s.busDlyBase := rfl
@[simp] theorem completeCommand_fatalCause (s : State) : (completeCommand s).fatalCause = s.fatalCause := rfl
@[simp] theorem completeCommand_fatalInfo (s : State) : (completeCommand s).fatalInfo = s.fatalInfo := rfl
@[simp] theorem completeCommand_fatalAddr (s : State) : (completeCommand s).fatalAddr = s.fatalAddr := rfl
@[simp] theorem completeCommand_chState (s : State) : (completeCommand s).chState = s.chState := rfl
@[simp] theorem completeCommand_voices (s : State) : (completeCommand s).voices = s.voices := rfl
@[simp] theorem completeCommand_delays (s : State) : (completeCommand s).delays = s.delays := rfl
@[simp] theorem completeCommand_lfos (s : State) : (completeCommand s).lfos = s.lfos := rfl
@[simp] theorem completeCommand_filters (s : State) : (completeCommand s).filters = s.filters := rfl
@[simp] theorem completeCommand_slots (s : State) : (completeCommand s).slots = s.slots := rfl
@[simp] theorem completeCommand_sramWords (s : State) : (completeCommand s).sramWords = s.sramWords := rfl
@[simp] theorem completeCommand_sram (s : State) : (completeCommand s).sram = s.sram := rfl
@[simp] theorem completeCommand_tram (s : State) : (completeCommand s).tram = s.tram := rfl
@[simp] theorem completeCommand_cmd (s : State) : (completeCommand s).cmd = s.cmd := rfl
@[simp] theorem completeCommand_port (s : State) : (completeCommand s).port = s.port := rfl
@[simp] theorem completeCommand_hostData (s : State) : (completeCommand s).hostData = s.hostData := rfl
@[simp] theorem completeCommand_freeCount (s : State) : (completeCommand s).freeCount = s.freeCount := rfl

/-! ### `State.withReg` -/

@[simp] theorem State.withReg_regs (i : Nat) (v : Word) (s : State) : (State.withReg i v s).regs = s.regs.setIfInBounds i v := rfl
@[simp] theorem State.withReg_cmdSeq (i : Nat) (v : Word) (s : State) : (State.withReg i v s).cmdSeq = s.cmdSeq := rfl
@[simp] theorem State.withReg_status (i : Nat) (v : Word) (s : State) : (State.withReg i v s).status = s.status := rfl
@[simp] theorem State.withReg_ctrl (i : Nat) (v : Word) (s : State) : (State.withReg i v s).ctrl = s.ctrl := rfl
@[simp] theorem State.withReg_sampleRate (i : Nat) (v : Word) (s : State) : (State.withReg i v s).sampleRate = s.sampleRate := rfl
@[simp] theorem State.withReg_controlRatio (i : Nat) (v : Word) (s : State) : (State.withReg i v s).controlRatio = s.controlRatio := rfl
@[simp] theorem State.withReg_minSustainTime (i : Nat) (v : Word) (s : State) : (State.withReg i v s).minSustainTime = s.minSustainTime := rfl
@[simp] theorem State.withReg_mixWindow (i : Nat) (v : Word) (s : State) : (State.withReg i v s).mixWindow = s.mixWindow := rfl
@[simp] theorem State.withReg_maxDieTime (i : Nat) (v : Word) (s : State) : (State.withReg i v s).maxDieTime = s.maxDieTime := rfl
@[simp] theorem State.withReg_outBase (i : Nat) (v : Word) (s : State) : (State.withReg i v s).outBase = s.outBase := rfl
@[simp] theorem State.withReg_busRevBase (i : Nat) (v : Word) (s : State) : (State.withReg i v s).busRevBase = s.busRevBase := rfl
@[simp] theorem State.withReg_busChoBase (i : Nat) (v : Word) (s : State) : (State.withReg i v s).busChoBase = s.busChoBase := rfl
@[simp] theorem State.withReg_busDlyBase (i : Nat) (v : Word) (s : State) : (State.withReg i v s).busDlyBase = s.busDlyBase := rfl
@[simp] theorem State.withReg_fatalCause (i : Nat) (v : Word) (s : State) : (State.withReg i v s).fatalCause = s.fatalCause := rfl
@[simp] theorem State.withReg_fatalInfo (i : Nat) (v : Word) (s : State) : (State.withReg i v s).fatalInfo = s.fatalInfo := rfl
@[simp] theorem State.withReg_fatalAddr (i : Nat) (v : Word) (s : State) : (State.withReg i v s).fatalAddr = s.fatalAddr := rfl
@[simp] theorem State.withReg_chState (i : Nat) (v : Word) (s : State) : (State.withReg i v s).chState = s.chState := rfl
@[simp] theorem State.withReg_voices (i : Nat) (v : Word) (s : State) : (State.withReg i v s).voices = s.voices := rfl
@[simp] theorem State.withReg_delays (i : Nat) (v : Word) (s : State) : (State.withReg i v s).delays = s.delays := rfl
@[simp] theorem State.withReg_lfos (i : Nat) (v : Word) (s : State) : (State.withReg i v s).lfos = s.lfos := rfl
@[simp] theorem State.withReg_filters (i : Nat) (v : Word) (s : State) : (State.withReg i v s).filters = s.filters := rfl
@[simp] theorem State.withReg_slots (i : Nat) (v : Word) (s : State) : (State.withReg i v s).slots = s.slots := rfl
@[simp] theorem State.withReg_sramWords (i : Nat) (v : Word) (s : State) : (State.withReg i v s).sramWords = s.sramWords := rfl
@[simp] theorem State.withReg_sram (i : Nat) (v : Word) (s : State) : (State.withReg i v s).sram = s.sram := rfl
@[simp] theorem State.withReg_tram (i : Nat) (v : Word) (s : State) : (State.withReg i v s).tram = s.tram := rfl
@[simp] theorem State.withReg_cmd (i : Nat) (v : Word) (s : State) : (State.withReg i v s).cmd = s.cmd := rfl
@[simp] theorem State.withReg_port (i : Nat) (v : Word) (s : State) : (State.withReg i v s).port = s.port := rfl
@[simp] theorem State.withReg_hostData (i : Nat) (v : Word) (s : State) : (State.withReg i v s).hostData = s.hostData := rfl
@[simp] theorem State.withReg_freeCount (i : Nat) (v : Word) (s : State) : (State.withReg i v s).freeCount = s.freeCount := rfl

/-! ### `State.withSramWord` -/

@[simp] theorem State.withSramWord_regs (a : Nat) (v : Word) (s : State) : (State.withSramWord a v s).regs = s.regs := rfl
@[simp] theorem State.withSramWord_cmdSeq (a : Nat) (v : Word) (s : State) : (State.withSramWord a v s).cmdSeq = s.cmdSeq := rfl
@[simp] theorem State.withSramWord_status (a : Nat) (v : Word) (s : State) : (State.withSramWord a v s).status = s.status := rfl
@[simp] theorem State.withSramWord_ctrl (a : Nat) (v : Word) (s : State) : (State.withSramWord a v s).ctrl = s.ctrl := rfl
@[simp] theorem State.withSramWord_sampleRate (a : Nat) (v : Word) (s : State) : (State.withSramWord a v s).sampleRate = s.sampleRate := rfl
@[simp] theorem State.withSramWord_controlRatio (a : Nat) (v : Word) (s : State) : (State.withSramWord a v s).controlRatio = s.controlRatio := rfl
@[simp] theorem State.withSramWord_minSustainTime (a : Nat) (v : Word) (s : State) : (State.withSramWord a v s).minSustainTime = s.minSustainTime := rfl
@[simp] theorem State.withSramWord_mixWindow (a : Nat) (v : Word) (s : State) : (State.withSramWord a v s).mixWindow = s.mixWindow := rfl
@[simp] theorem State.withSramWord_maxDieTime (a : Nat) (v : Word) (s : State) : (State.withSramWord a v s).maxDieTime = s.maxDieTime := rfl
@[simp] theorem State.withSramWord_outBase (a : Nat) (v : Word) (s : State) : (State.withSramWord a v s).outBase = s.outBase := rfl
@[simp] theorem State.withSramWord_busRevBase (a : Nat) (v : Word) (s : State) : (State.withSramWord a v s).busRevBase = s.busRevBase := rfl
@[simp] theorem State.withSramWord_busChoBase (a : Nat) (v : Word) (s : State) : (State.withSramWord a v s).busChoBase = s.busChoBase := rfl
@[simp] theorem State.withSramWord_busDlyBase (a : Nat) (v : Word) (s : State) : (State.withSramWord a v s).busDlyBase = s.busDlyBase := rfl
@[simp] theorem State.withSramWord_fatalCause (a : Nat) (v : Word) (s : State) : (State.withSramWord a v s).fatalCause = s.fatalCause := rfl
@[simp] theorem State.withSramWord_fatalInfo (a : Nat) (v : Word) (s : State) : (State.withSramWord a v s).fatalInfo = s.fatalInfo := rfl
@[simp] theorem State.withSramWord_fatalAddr (a : Nat) (v : Word) (s : State) : (State.withSramWord a v s).fatalAddr = s.fatalAddr := rfl
@[simp] theorem State.withSramWord_chState (a : Nat) (v : Word) (s : State) : (State.withSramWord a v s).chState = s.chState := rfl
@[simp] theorem State.withSramWord_voices (a : Nat) (v : Word) (s : State) : (State.withSramWord a v s).voices = s.voices := rfl
@[simp] theorem State.withSramWord_delays (a : Nat) (v : Word) (s : State) : (State.withSramWord a v s).delays = s.delays := rfl
@[simp] theorem State.withSramWord_lfos (a : Nat) (v : Word) (s : State) : (State.withSramWord a v s).lfos = s.lfos := rfl
@[simp] theorem State.withSramWord_filters (a : Nat) (v : Word) (s : State) : (State.withSramWord a v s).filters = s.filters := rfl
@[simp] theorem State.withSramWord_slots (a : Nat) (v : Word) (s : State) : (State.withSramWord a v s).slots = s.slots := rfl
@[simp] theorem State.withSramWord_sramWords (a : Nat) (v : Word) (s : State) : (State.withSramWord a v s).sramWords = s.sramWords := rfl
@[simp] theorem State.withSramWord_sram (a : Nat) (v : Word) (s : State) : (State.withSramWord a v s).sram = memPutWord s.sram a v := rfl
@[simp] theorem State.withSramWord_tram (a : Nat) (v : Word) (s : State) : (State.withSramWord a v s).tram = s.tram := rfl
@[simp] theorem State.withSramWord_cmd (a : Nat) (v : Word) (s : State) : (State.withSramWord a v s).cmd = s.cmd := rfl
@[simp] theorem State.withSramWord_port (a : Nat) (v : Word) (s : State) : (State.withSramWord a v s).port = s.port := rfl
@[simp] theorem State.withSramWord_hostData (a : Nat) (v : Word) (s : State) : (State.withSramWord a v s).hostData = s.hostData := rfl
@[simp] theorem State.withSramWord_freeCount (a : Nat) (v : Word) (s : State) : (State.withSramWord a v s).freeCount = s.freeCount := rfl

/-! ### `State.withTramWord` -/

@[simp] theorem State.withTramWord_regs (a : Nat) (v : Word) (s : State) : (State.withTramWord a v s).regs = s.regs := rfl
@[simp] theorem State.withTramWord_cmdSeq (a : Nat) (v : Word) (s : State) : (State.withTramWord a v s).cmdSeq = s.cmdSeq := rfl
@[simp] theorem State.withTramWord_status (a : Nat) (v : Word) (s : State) : (State.withTramWord a v s).status = s.status := rfl
@[simp] theorem State.withTramWord_ctrl (a : Nat) (v : Word) (s : State) : (State.withTramWord a v s).ctrl = s.ctrl := rfl
@[simp] theorem State.withTramWord_sampleRate (a : Nat) (v : Word) (s : State) : (State.withTramWord a v s).sampleRate = s.sampleRate := rfl
@[simp] theorem State.withTramWord_controlRatio (a : Nat) (v : Word) (s : State) : (State.withTramWord a v s).controlRatio = s.controlRatio := rfl
@[simp] theorem State.withTramWord_minSustainTime (a : Nat) (v : Word) (s : State) : (State.withTramWord a v s).minSustainTime = s.minSustainTime := rfl
@[simp] theorem State.withTramWord_mixWindow (a : Nat) (v : Word) (s : State) : (State.withTramWord a v s).mixWindow = s.mixWindow := rfl
@[simp] theorem State.withTramWord_maxDieTime (a : Nat) (v : Word) (s : State) : (State.withTramWord a v s).maxDieTime = s.maxDieTime := rfl
@[simp] theorem State.withTramWord_outBase (a : Nat) (v : Word) (s : State) : (State.withTramWord a v s).outBase = s.outBase := rfl
@[simp] theorem State.withTramWord_busRevBase (a : Nat) (v : Word) (s : State) : (State.withTramWord a v s).busRevBase = s.busRevBase := rfl
@[simp] theorem State.withTramWord_busChoBase (a : Nat) (v : Word) (s : State) : (State.withTramWord a v s).busChoBase = s.busChoBase := rfl
@[simp] theorem State.withTramWord_busDlyBase (a : Nat) (v : Word) (s : State) : (State.withTramWord a v s).busDlyBase = s.busDlyBase := rfl
@[simp] theorem State.withTramWord_fatalCause (a : Nat) (v : Word) (s : State) : (State.withTramWord a v s).fatalCause = s.fatalCause := rfl
@[simp] theorem State.withTramWord_fatalInfo (a : Nat) (v : Word) (s : State) : (State.withTramWord a v s).fatalInfo = s.fatalInfo := rfl
@[simp] theorem State.withTramWord_fatalAddr (a : Nat) (v : Word) (s : State) : (State.withTramWord a v s).fatalAddr = s.fatalAddr := rfl
@[simp] theorem State.withTramWord_chState (a : Nat) (v : Word) (s : State) : (State.withTramWord a v s).chState = s.chState := rfl
@[simp] theorem State.withTramWord_voices (a : Nat) (v : Word) (s : State) : (State.withTramWord a v s).voices = s.voices := rfl
@[simp] theorem State.withTramWord_delays (a : Nat) (v : Word) (s : State) : (State.withTramWord a v s).delays = s.delays := rfl
@[simp] theorem State.withTramWord_lfos (a : Nat) (v : Word) (s : State) : (State.withTramWord a v s).lfos = s.lfos := rfl
@[simp] theorem State.withTramWord_filters (a : Nat) (v : Word) (s : State) : (State.withTramWord a v s).filters = s.filters := rfl
@[simp] theorem State.withTramWord_slots (a : Nat) (v : Word) (s : State) : (State.withTramWord a v s).slots = s.slots := rfl
@[simp] theorem State.withTramWord_sramWords (a : Nat) (v : Word) (s : State) : (State.withTramWord a v s).sramWords = s.sramWords := rfl
@[simp] theorem State.withTramWord_sram (a : Nat) (v : Word) (s : State) : (State.withTramWord a v s).sram = s.sram := rfl
@[simp] theorem State.withTramWord_tram (a : Nat) (v : Word) (s : State) : (State.withTramWord a v s).tram = memPutWord s.tram a v := rfl
@[simp] theorem State.withTramWord_cmd (a : Nat) (v : Word) (s : State) : (State.withTramWord a v s).cmd = s.cmd := rfl
@[simp] theorem State.withTramWord_port (a : Nat) (v : Word) (s : State) : (State.withTramWord a v s).port = s.port := rfl
@[simp] theorem State.withTramWord_hostData (a : Nat) (v : Word) (s : State) : (State.withTramWord a v s).hostData = s.hostData := rfl
@[simp] theorem State.withTramWord_freeCount (a : Nat) (v : Word) (s : State) : (State.withTramWord a v s).freeCount = s.freeCount := rfl

/-! ### `State.modifyVoice` -/

@[simp] theorem State.modifyVoice_regs (n : Nat) (f : Voice → Voice) (s : State) : (State.modifyVoice n f s).regs = s.regs := rfl
@[simp] theorem State.modifyVoice_cmdSeq (n : Nat) (f : Voice → Voice) (s : State) : (State.modifyVoice n f s).cmdSeq = s.cmdSeq := rfl
@[simp] theorem State.modifyVoice_status (n : Nat) (f : Voice → Voice) (s : State) : (State.modifyVoice n f s).status = s.status := rfl
@[simp] theorem State.modifyVoice_ctrl (n : Nat) (f : Voice → Voice) (s : State) : (State.modifyVoice n f s).ctrl = s.ctrl := rfl
@[simp] theorem State.modifyVoice_sampleRate (n : Nat) (f : Voice → Voice) (s : State) : (State.modifyVoice n f s).sampleRate = s.sampleRate := rfl
@[simp] theorem State.modifyVoice_controlRatio (n : Nat) (f : Voice → Voice) (s : State) : (State.modifyVoice n f s).controlRatio = s.controlRatio := rfl
@[simp] theorem State.modifyVoice_minSustainTime (n : Nat) (f : Voice → Voice) (s : State) : (State.modifyVoice n f s).minSustainTime = s.minSustainTime := rfl
@[simp] theorem State.modifyVoice_mixWindow (n : Nat) (f : Voice → Voice) (s : State) : (State.modifyVoice n f s).mixWindow = s.mixWindow := rfl
@[simp] theorem State.modifyVoice_maxDieTime (n : Nat) (f : Voice → Voice) (s : State) : (State.modifyVoice n f s).maxDieTime = s.maxDieTime := rfl
@[simp] theorem State.modifyVoice_outBase (n : Nat) (f : Voice → Voice) (s : State) : (State.modifyVoice n f s).outBase = s.outBase := rfl
@[simp] theorem State.modifyVoice_busRevBase (n : Nat) (f : Voice → Voice) (s : State) : (State.modifyVoice n f s).busRevBase = s.busRevBase := rfl
@[simp] theorem State.modifyVoice_busChoBase (n : Nat) (f : Voice → Voice) (s : State) : (State.modifyVoice n f s).busChoBase = s.busChoBase := rfl
@[simp] theorem State.modifyVoice_busDlyBase (n : Nat) (f : Voice → Voice) (s : State) : (State.modifyVoice n f s).busDlyBase = s.busDlyBase := rfl
@[simp] theorem State.modifyVoice_fatalCause (n : Nat) (f : Voice → Voice) (s : State) : (State.modifyVoice n f s).fatalCause = s.fatalCause := rfl
@[simp] theorem State.modifyVoice_fatalInfo (n : Nat) (f : Voice → Voice) (s : State) : (State.modifyVoice n f s).fatalInfo = s.fatalInfo := rfl
@[simp] theorem State.modifyVoice_fatalAddr (n : Nat) (f : Voice → Voice) (s : State) : (State.modifyVoice n f s).fatalAddr = s.fatalAddr := rfl
@[simp] theorem State.modifyVoice_chState (n : Nat) (f : Voice → Voice) (s : State) : (State.modifyVoice n f s).chState = s.chState := rfl
@[simp] theorem State.modifyVoice_voices (n : Nat) (f : Voice → Voice) (s : State) : (State.modifyVoice n f s).voices = s.voices.modify n f := rfl
@[simp] theorem State.modifyVoice_delays (n : Nat) (f : Voice → Voice) (s : State) : (State.modifyVoice n f s).delays = s.delays := rfl
@[simp] theorem State.modifyVoice_lfos (n : Nat) (f : Voice → Voice) (s : State) : (State.modifyVoice n f s).lfos = s.lfos := rfl
@[simp] theorem State.modifyVoice_filters (n : Nat) (f : Voice → Voice) (s : State) : (State.modifyVoice n f s).filters = s.filters := rfl
@[simp] theorem State.modifyVoice_slots (n : Nat) (f : Voice → Voice) (s : State) : (State.modifyVoice n f s).slots = s.slots := rfl
@[simp] theorem State.modifyVoice_sramWords (n : Nat) (f : Voice → Voice) (s : State) : (State.modifyVoice n f s).sramWords = s.sramWords := rfl
@[simp] theorem State.modifyVoice_sram (n : Nat) (f : Voice → Voice) (s : State) : (State.modifyVoice n f s).sram = s.sram := rfl
@[simp] theorem State.modifyVoice_tram (n : Nat) (f : Voice → Voice) (s : State) : (State.modifyVoice n f s).tram = s.tram := rfl
@[simp] theorem State.modifyVoice_cmd (n : Nat) (f : Voice → Voice) (s : State) : (State.modifyVoice n f s).cmd = s.cmd := rfl
@[simp] theorem State.modifyVoice_port (n : Nat) (f : Voice → Voice) (s : State) : (State.modifyVoice n f s).port = s.port := rfl
@[simp] theorem State.modifyVoice_hostData (n : Nat) (f : Voice → Voice) (s : State) : (State.modifyVoice n f s).hostData = s.hostData := rfl
@[simp] theorem State.modifyVoice_freeCount (n : Nat) (f : Voice → Voice) (s : State) : (State.modifyVoice n f s).freeCount = s.freeCount := rfl

/-! ### `State.setDelay` -/

@[simp] theorem State.setDelay_regs (u : Nat) (d : DelayUnit) (s : State) : (State.setDelay u d s).regs = s.regs := rfl
@[simp] theorem State.setDelay_cmdSeq (u : Nat) (d : DelayUnit) (s : State) : (State.setDelay u d s).cmdSeq = s.cmdSeq := rfl
@[simp] theorem State.setDelay_status (u : Nat) (d : DelayUnit) (s : State) : (State.setDelay u d s).status = s.status := rfl
@[simp] theorem State.setDelay_ctrl (u : Nat) (d : DelayUnit) (s : State) : (State.setDelay u d s).ctrl = s.ctrl := rfl
@[simp] theorem State.setDelay_sampleRate (u : Nat) (d : DelayUnit) (s : State) : (State.setDelay u d s).sampleRate = s.sampleRate := rfl
@[simp] theorem State.setDelay_controlRatio (u : Nat) (d : DelayUnit) (s : State) : (State.setDelay u d s).controlRatio = s.controlRatio := rfl
@[simp] theorem State.setDelay_minSustainTime (u : Nat) (d : DelayUnit) (s : State) : (State.setDelay u d s).minSustainTime = s.minSustainTime := rfl
@[simp] theorem State.setDelay_mixWindow (u : Nat) (d : DelayUnit) (s : State) : (State.setDelay u d s).mixWindow = s.mixWindow := rfl
@[simp] theorem State.setDelay_maxDieTime (u : Nat) (d : DelayUnit) (s : State) : (State.setDelay u d s).maxDieTime = s.maxDieTime := rfl
@[simp] theorem State.setDelay_outBase (u : Nat) (d : DelayUnit) (s : State) : (State.setDelay u d s).outBase = s.outBase := rfl
@[simp] theorem State.setDelay_busRevBase (u : Nat) (d : DelayUnit) (s : State) : (State.setDelay u d s).busRevBase = s.busRevBase := rfl
@[simp] theorem State.setDelay_busChoBase (u : Nat) (d : DelayUnit) (s : State) : (State.setDelay u d s).busChoBase = s.busChoBase := rfl
@[simp] theorem State.setDelay_busDlyBase (u : Nat) (d : DelayUnit) (s : State) : (State.setDelay u d s).busDlyBase = s.busDlyBase := rfl
@[simp] theorem State.setDelay_fatalCause (u : Nat) (d : DelayUnit) (s : State) : (State.setDelay u d s).fatalCause = s.fatalCause := rfl
@[simp] theorem State.setDelay_fatalInfo (u : Nat) (d : DelayUnit) (s : State) : (State.setDelay u d s).fatalInfo = s.fatalInfo := rfl
@[simp] theorem State.setDelay_fatalAddr (u : Nat) (d : DelayUnit) (s : State) : (State.setDelay u d s).fatalAddr = s.fatalAddr := rfl
@[simp] theorem State.setDelay_chState (u : Nat) (d : DelayUnit) (s : State) : (State.setDelay u d s).chState = s.chState := rfl
@[simp] theorem State.setDelay_voices (u : Nat) (d : DelayUnit) (s : State) : (State.setDelay u d s).voices = s.voices := rfl
@[simp] theorem State.setDelay_delays (u : Nat) (d : DelayUnit) (s : State) : (State.setDelay u d s).delays = s.delays.set u d := rfl
@[simp] theorem State.setDelay_lfos (u : Nat) (d : DelayUnit) (s : State) : (State.setDelay u d s).lfos = s.lfos := rfl
@[simp] theorem State.setDelay_filters (u : Nat) (d : DelayUnit) (s : State) : (State.setDelay u d s).filters = s.filters := rfl
@[simp] theorem State.setDelay_slots (u : Nat) (d : DelayUnit) (s : State) : (State.setDelay u d s).slots = s.slots := rfl
@[simp] theorem State.setDelay_sramWords (u : Nat) (d : DelayUnit) (s : State) : (State.setDelay u d s).sramWords = s.sramWords := rfl
@[simp] theorem State.setDelay_sram (u : Nat) (d : DelayUnit) (s : State) : (State.setDelay u d s).sram = s.sram := rfl
@[simp] theorem State.setDelay_tram (u : Nat) (d : DelayUnit) (s : State) : (State.setDelay u d s).tram = s.tram := rfl
@[simp] theorem State.setDelay_cmd (u : Nat) (d : DelayUnit) (s : State) : (State.setDelay u d s).cmd = s.cmd := rfl
@[simp] theorem State.setDelay_port (u : Nat) (d : DelayUnit) (s : State) : (State.setDelay u d s).port = s.port := rfl
@[simp] theorem State.setDelay_hostData (u : Nat) (d : DelayUnit) (s : State) : (State.setDelay u d s).hostData = s.hostData := rfl
@[simp] theorem State.setDelay_freeCount (u : Nat) (d : DelayUnit) (s : State) : (State.setDelay u d s).freeCount = s.freeCount := rfl

/-! ### `State.setLfo` -/

@[simp] theorem State.setLfo_regs (u : Nat) (l : LfoUnit) (s : State) : (State.setLfo u l s).regs = s.regs := rfl
@[simp] theorem State.setLfo_cmdSeq (u : Nat) (l : LfoUnit) (s : State) : (State.setLfo u l s).cmdSeq = s.cmdSeq := rfl
@[simp] theorem State.setLfo_status (u : Nat) (l : LfoUnit) (s : State) : (State.setLfo u l s).status = s.status := rfl
@[simp] theorem State.setLfo_ctrl (u : Nat) (l : LfoUnit) (s : State) : (State.setLfo u l s).ctrl = s.ctrl := rfl
@[simp] theorem State.setLfo_sampleRate (u : Nat) (l : LfoUnit) (s : State) : (State.setLfo u l s).sampleRate = s.sampleRate := rfl
@[simp] theorem State.setLfo_controlRatio (u : Nat) (l : LfoUnit) (s : State) : (State.setLfo u l s).controlRatio = s.controlRatio := rfl
@[simp] theorem State.setLfo_minSustainTime (u : Nat) (l : LfoUnit) (s : State) : (State.setLfo u l s).minSustainTime = s.minSustainTime := rfl
@[simp] theorem State.setLfo_mixWindow (u : Nat) (l : LfoUnit) (s : State) : (State.setLfo u l s).mixWindow = s.mixWindow := rfl
@[simp] theorem State.setLfo_maxDieTime (u : Nat) (l : LfoUnit) (s : State) : (State.setLfo u l s).maxDieTime = s.maxDieTime := rfl
@[simp] theorem State.setLfo_outBase (u : Nat) (l : LfoUnit) (s : State) : (State.setLfo u l s).outBase = s.outBase := rfl
@[simp] theorem State.setLfo_busRevBase (u : Nat) (l : LfoUnit) (s : State) : (State.setLfo u l s).busRevBase = s.busRevBase := rfl
@[simp] theorem State.setLfo_busChoBase (u : Nat) (l : LfoUnit) (s : State) : (State.setLfo u l s).busChoBase = s.busChoBase := rfl
@[simp] theorem State.setLfo_busDlyBase (u : Nat) (l : LfoUnit) (s : State) : (State.setLfo u l s).busDlyBase = s.busDlyBase := rfl
@[simp] theorem State.setLfo_fatalCause (u : Nat) (l : LfoUnit) (s : State) : (State.setLfo u l s).fatalCause = s.fatalCause := rfl
@[simp] theorem State.setLfo_fatalInfo (u : Nat) (l : LfoUnit) (s : State) : (State.setLfo u l s).fatalInfo = s.fatalInfo := rfl
@[simp] theorem State.setLfo_fatalAddr (u : Nat) (l : LfoUnit) (s : State) : (State.setLfo u l s).fatalAddr = s.fatalAddr := rfl
@[simp] theorem State.setLfo_chState (u : Nat) (l : LfoUnit) (s : State) : (State.setLfo u l s).chState = s.chState := rfl
@[simp] theorem State.setLfo_voices (u : Nat) (l : LfoUnit) (s : State) : (State.setLfo u l s).voices = s.voices := rfl
@[simp] theorem State.setLfo_delays (u : Nat) (l : LfoUnit) (s : State) : (State.setLfo u l s).delays = s.delays := rfl
@[simp] theorem State.setLfo_lfos (u : Nat) (l : LfoUnit) (s : State) : (State.setLfo u l s).lfos = s.lfos.set u l := rfl
@[simp] theorem State.setLfo_filters (u : Nat) (l : LfoUnit) (s : State) : (State.setLfo u l s).filters = s.filters := rfl
@[simp] theorem State.setLfo_slots (u : Nat) (l : LfoUnit) (s : State) : (State.setLfo u l s).slots = s.slots := rfl
@[simp] theorem State.setLfo_sramWords (u : Nat) (l : LfoUnit) (s : State) : (State.setLfo u l s).sramWords = s.sramWords := rfl
@[simp] theorem State.setLfo_sram (u : Nat) (l : LfoUnit) (s : State) : (State.setLfo u l s).sram = s.sram := rfl
@[simp] theorem State.setLfo_tram (u : Nat) (l : LfoUnit) (s : State) : (State.setLfo u l s).tram = s.tram := rfl
@[simp] theorem State.setLfo_cmd (u : Nat) (l : LfoUnit) (s : State) : (State.setLfo u l s).cmd = s.cmd := rfl
@[simp] theorem State.setLfo_port (u : Nat) (l : LfoUnit) (s : State) : (State.setLfo u l s).port = s.port := rfl
@[simp] theorem State.setLfo_hostData (u : Nat) (l : LfoUnit) (s : State) : (State.setLfo u l s).hostData = s.hostData := rfl
@[simp] theorem State.setLfo_freeCount (u : Nat) (l : LfoUnit) (s : State) : (State.setLfo u l s).freeCount = s.freeCount := rfl

/-! ### `State.setFilter` -/

@[simp] theorem State.setFilter_regs (u : Nat) (f : FilterUnit) (s : State) : (State.setFilter u f s).regs = s.regs := rfl
@[simp] theorem State.setFilter_cmdSeq (u : Nat) (f : FilterUnit) (s : State) : (State.setFilter u f s).cmdSeq = s.cmdSeq := rfl
@[simp] theorem State.setFilter_status (u : Nat) (f : FilterUnit) (s : State) : (State.setFilter u f s).status = s.status := rfl
@[simp] theorem State.setFilter_ctrl (u : Nat) (f : FilterUnit) (s : State) : (State.setFilter u f s).ctrl = s.ctrl := rfl
@[simp] theorem State.setFilter_sampleRate (u : Nat) (f : FilterUnit) (s : State) : (State.setFilter u f s).sampleRate = s.sampleRate := rfl
@[simp] theorem State.setFilter_controlRatio (u : Nat) (f : FilterUnit) (s : State) : (State.setFilter u f s).controlRatio = s.controlRatio := rfl
@[simp] theorem State.setFilter_minSustainTime (u : Nat) (f : FilterUnit) (s : State) : (State.setFilter u f s).minSustainTime = s.minSustainTime := rfl
@[simp] theorem State.setFilter_mixWindow (u : Nat) (f : FilterUnit) (s : State) : (State.setFilter u f s).mixWindow = s.mixWindow := rfl
@[simp] theorem State.setFilter_maxDieTime (u : Nat) (f : FilterUnit) (s : State) : (State.setFilter u f s).maxDieTime = s.maxDieTime := rfl
@[simp] theorem State.setFilter_outBase (u : Nat) (f : FilterUnit) (s : State) : (State.setFilter u f s).outBase = s.outBase := rfl
@[simp] theorem State.setFilter_busRevBase (u : Nat) (f : FilterUnit) (s : State) : (State.setFilter u f s).busRevBase = s.busRevBase := rfl
@[simp] theorem State.setFilter_busChoBase (u : Nat) (f : FilterUnit) (s : State) : (State.setFilter u f s).busChoBase = s.busChoBase := rfl
@[simp] theorem State.setFilter_busDlyBase (u : Nat) (f : FilterUnit) (s : State) : (State.setFilter u f s).busDlyBase = s.busDlyBase := rfl
@[simp] theorem State.setFilter_fatalCause (u : Nat) (f : FilterUnit) (s : State) : (State.setFilter u f s).fatalCause = s.fatalCause := rfl
@[simp] theorem State.setFilter_fatalInfo (u : Nat) (f : FilterUnit) (s : State) : (State.setFilter u f s).fatalInfo = s.fatalInfo := rfl
@[simp] theorem State.setFilter_fatalAddr (u : Nat) (f : FilterUnit) (s : State) : (State.setFilter u f s).fatalAddr = s.fatalAddr := rfl
@[simp] theorem State.setFilter_chState (u : Nat) (f : FilterUnit) (s : State) : (State.setFilter u f s).chState = s.chState := rfl
@[simp] theorem State.setFilter_voices (u : Nat) (f : FilterUnit) (s : State) : (State.setFilter u f s).voices = s.voices := rfl
@[simp] theorem State.setFilter_delays (u : Nat) (f : FilterUnit) (s : State) : (State.setFilter u f s).delays = s.delays := rfl
@[simp] theorem State.setFilter_lfos (u : Nat) (f : FilterUnit) (s : State) : (State.setFilter u f s).lfos = s.lfos := rfl
@[simp] theorem State.setFilter_filters (u : Nat) (f : FilterUnit) (s : State) : (State.setFilter u f s).filters = s.filters.set u f := rfl
@[simp] theorem State.setFilter_slots (u : Nat) (f : FilterUnit) (s : State) : (State.setFilter u f s).slots = s.slots := rfl
@[simp] theorem State.setFilter_sramWords (u : Nat) (f : FilterUnit) (s : State) : (State.setFilter u f s).sramWords = s.sramWords := rfl
@[simp] theorem State.setFilter_sram (u : Nat) (f : FilterUnit) (s : State) : (State.setFilter u f s).sram = s.sram := rfl
@[simp] theorem State.setFilter_tram (u : Nat) (f : FilterUnit) (s : State) : (State.setFilter u f s).tram = s.tram := rfl
@[simp] theorem State.setFilter_cmd (u : Nat) (f : FilterUnit) (s : State) : (State.setFilter u f s).cmd = s.cmd := rfl
@[simp] theorem State.setFilter_port (u : Nat) (f : FilterUnit) (s : State) : (State.setFilter u f s).port = s.port := rfl
@[simp] theorem State.setFilter_hostData (u : Nat) (f : FilterUnit) (s : State) : (State.setFilter u f s).hostData = s.hostData := rfl
@[simp] theorem State.setFilter_freeCount (u : Nat) (f : FilterUnit) (s : State) : (State.setFilter u f s).freeCount = s.freeCount := rfl

/-! ### `State.setSlot` -/

@[simp] theorem State.setSlot_regs (i : Nat) (x : Slot) (s : State) : (State.setSlot i x s).regs = s.regs := rfl
@[simp] theorem State.setSlot_cmdSeq (i : Nat) (x : Slot) (s : State) : (State.setSlot i x s).cmdSeq = s.cmdSeq := rfl
@[simp] theorem State.setSlot_status (i : Nat) (x : Slot) (s : State) : (State.setSlot i x s).status = s.status := rfl
@[simp] theorem State.setSlot_ctrl (i : Nat) (x : Slot) (s : State) : (State.setSlot i x s).ctrl = s.ctrl := rfl
@[simp] theorem State.setSlot_sampleRate (i : Nat) (x : Slot) (s : State) : (State.setSlot i x s).sampleRate = s.sampleRate := rfl
@[simp] theorem State.setSlot_controlRatio (i : Nat) (x : Slot) (s : State) : (State.setSlot i x s).controlRatio = s.controlRatio := rfl
@[simp] theorem State.setSlot_minSustainTime (i : Nat) (x : Slot) (s : State) : (State.setSlot i x s).minSustainTime = s.minSustainTime := rfl
@[simp] theorem State.setSlot_mixWindow (i : Nat) (x : Slot) (s : State) : (State.setSlot i x s).mixWindow = s.mixWindow := rfl
@[simp] theorem State.setSlot_maxDieTime (i : Nat) (x : Slot) (s : State) : (State.setSlot i x s).maxDieTime = s.maxDieTime := rfl
@[simp] theorem State.setSlot_outBase (i : Nat) (x : Slot) (s : State) : (State.setSlot i x s).outBase = s.outBase := rfl
@[simp] theorem State.setSlot_busRevBase (i : Nat) (x : Slot) (s : State) : (State.setSlot i x s).busRevBase = s.busRevBase := rfl
@[simp] theorem State.setSlot_busChoBase (i : Nat) (x : Slot) (s : State) : (State.setSlot i x s).busChoBase = s.busChoBase := rfl
@[simp] theorem State.setSlot_busDlyBase (i : Nat) (x : Slot) (s : State) : (State.setSlot i x s).busDlyBase = s.busDlyBase := rfl
@[simp] theorem State.setSlot_fatalCause (i : Nat) (x : Slot) (s : State) : (State.setSlot i x s).fatalCause = s.fatalCause := rfl
@[simp] theorem State.setSlot_fatalInfo (i : Nat) (x : Slot) (s : State) : (State.setSlot i x s).fatalInfo = s.fatalInfo := rfl
@[simp] theorem State.setSlot_fatalAddr (i : Nat) (x : Slot) (s : State) : (State.setSlot i x s).fatalAddr = s.fatalAddr := rfl
@[simp] theorem State.setSlot_chState (i : Nat) (x : Slot) (s : State) : (State.setSlot i x s).chState = s.chState := rfl
@[simp] theorem State.setSlot_voices (i : Nat) (x : Slot) (s : State) : (State.setSlot i x s).voices = s.voices := rfl
@[simp] theorem State.setSlot_delays (i : Nat) (x : Slot) (s : State) : (State.setSlot i x s).delays = s.delays := rfl
@[simp] theorem State.setSlot_lfos (i : Nat) (x : Slot) (s : State) : (State.setSlot i x s).lfos = s.lfos := rfl
@[simp] theorem State.setSlot_filters (i : Nat) (x : Slot) (s : State) : (State.setSlot i x s).filters = s.filters := rfl
@[simp] theorem State.setSlot_slots (i : Nat) (x : Slot) (s : State) : (State.setSlot i x s).slots = s.slots.set i x := rfl
@[simp] theorem State.setSlot_sramWords (i : Nat) (x : Slot) (s : State) : (State.setSlot i x s).sramWords = s.sramWords := rfl
@[simp] theorem State.setSlot_sram (i : Nat) (x : Slot) (s : State) : (State.setSlot i x s).sram = s.sram := rfl
@[simp] theorem State.setSlot_tram (i : Nat) (x : Slot) (s : State) : (State.setSlot i x s).tram = s.tram := rfl
@[simp] theorem State.setSlot_cmd (i : Nat) (x : Slot) (s : State) : (State.setSlot i x s).cmd = s.cmd := rfl
@[simp] theorem State.setSlot_port (i : Nat) (x : Slot) (s : State) : (State.setSlot i x s).port = s.port := rfl
@[simp] theorem State.setSlot_hostData (i : Nat) (x : Slot) (s : State) : (State.setSlot i x s).hostData = s.hostData := rfl
@[simp] theorem State.setSlot_freeCount (i : Nat) (x : Slot) (s : State) : (State.setSlot i x s).freeCount = s.freeCount := rfl

end Sys2Proof.Machine
end

