-- ==== Sys2Proof/Laws/Units.lean ====
section
/-! SUPPORT. What the operations that run a command on a unit or a slot do: the body on one that can run it, RANGE on a
missing or unconfigured one. `withVoice` is in Laws/VoiceCmd. -/

namespace Sys2Proof.Machine

theorem withDelay_ok {s : State} {u : Nat} {d : DelayUnit} {body : DelayUnit → Cmd Unit} (h : s.delays[u]? = some d)
    (hv : d.valid = true) : withDelay u body s = body d s := by
  unfold withDelay
  rw [bind_of_ok (getState_run _), h]
  show (if _ then _ else _ : Cmd Unit) s = _
  rw [if_pos hv]

theorem withDelay_unconfigured {s : State} {u : Nat} {body : DelayUnit → Cmd Unit}
    (h : ∀ d, s.delays[u]? = some d → d.valid = false) : withDelay u body s = .ok () (s.withFlag .range) := by
  unfold withDelay
  rw [bind_of_ok (getState_run _)]
  cases e : s.delays[u]? with
  | none => rfl
  | some d =>
    show (if _ then _ else _ : Cmd Unit) s = _
    rw [h d e]
    rfl

theorem withFilter_ok {s : State} {u : Nat} {f : FilterUnit} {body : FilterUnit → Cmd Unit}
    (h : s.filters[u]? = some f) : withFilter u body s = body f s := by
  unfold withFilter
  rw [bind_of_ok (getState_run _), h]

theorem withFilter_missing {s : State} {u : Nat} {body : FilterUnit → Cmd Unit} (h : s.filters.length ≤ u) :
    withFilter u body s = .ok () (s.withFlag .range) := by
  unfold withFilter
  rw [bind_of_ok (getState_run _), List.getElem?_eq_none h]
  rfl

theorem withSlot_ok {s : State} {i : Nat} {body : Cmd Unit} (h : i < s.slots.length) :
    withSlot i body s = body s := by
  unfold withSlot
  rw [bind_of_ok (getState_run _), if_pos h]

theorem withSlot_missing {s : State} {i : Nat} {body : Cmd Unit} (h : s.slots.length ≤ i) :
    withSlot i body s = .ok () (s.withFlag .range) := by
  unfold withSlot
  rw [bind_of_ok (getState_run _), if_neg (by omega)]
  rfl

end Sys2Proof.Machine
end

