-- ==== Sys2Proof/Machine/Assembly.lean ====
section
/-! DEFINITION. The assembler syntax and the pseudo-instructions (30_encoding.md R240, R241). -/

namespace Sys2Proof.Machine

/-- A register name (30_encoding.md R240). -/
def asmReg (r : Nat) : String := "x" ++ toString r

/-- A memory operand, `imm(xN)` (30_encoding.md R240). -/
def asmMem (imm r : Nat) : String := toString imm ++ "(" ++ asmReg r ++ ")"

/-- An index with the prefix that names its kind (30_encoding.md R240). -/
def asmIndex (kind : String) (u : Nat) : String := kind ++ toString u

/-- A mnemonic and its operands, separated by commas (30_encoding.md R240). -/
def asmLine (mnemonic : String) (operands : List String) : String :=
  if operands.isEmpty then mnemonic else mnemonic ++ " " ++ String.intercalate ", " operands

/-- One command as a line of assembler (30_encoding.md R240). -/
def assembly : Instr → String
  | .nop => asmLine "NOP" []
  | .lui rd imm22 => asmLine "LUI" [asmReg rd, toString imm22]
  | .ori rd rs1 imm => asmLine "ORI" [asmReg rd, asmReg rs1, toString imm]
  | .adds rd rs1 rs2 => asmLine "ADDS" [asmReg rd, asmReg rs1, asmReg rs2]
  | .subs rd rs1 rs2 => asmLine "SUBS" [asmReg rd, asmReg rs1, asmReg rs2]
  | .rdreg rd rs1 imm => asmLine "RDREG" [asmReg rd, asmMem imm rs1]
  | .wrreg rs1 rs2 imm => asmLine "WRREG" [asmReg rs2, asmMem imm rs1]
  | .lds rd rs1 imm => asmLine "LDS" [asmReg rd, asmMem imm rs1]
  | .sts rs1 rs2 imm => asmLine "STS" [asmReg rs2, asmMem imm rs1]
  | .accs rs1 rs2 imm => asmLine "ACCS" [asmReg rs2, asmMem imm rs1]
  | .fmul8 rd rs1 rs2 => asmLine "FMUL8" [asmReg rd, asmReg rs1, asmReg rs2]
  | .fmul16 rd rs1 rs2 => asmLine "FMUL16" [asmReg rd, asmReg rs1, asmReg rs2]
  | .fmul24 rd rs1 rs2 => asmLine "FMUL24" [asmReg rd, asmReg rs1, asmReg rs2]
  | .fmul28 rd rs1 rs2 => asmLine "FMUL28" [asmReg rd, asmReg rs1, asmReg rs2]
  | .fdiv8 rd rs1 rs2 => asmLine "FDIV8" [asmReg rd, asmReg rs1, asmReg rs2]
  | .fdiv16 rd rs1 rs2 => asmLine "FDIV16" [asmReg rd, asmReg rs1, asmReg rs2]
  | .fdiv24 rd rs1 rs2 => asmLine "FDIV24" [asmReg rd, asmReg rs1, asmReg rs2]
  | .fdiv28 rd rs1 rs2 => asmLine "FDIV28" [asmReg rd, asmReg rs1, asmReg rs2]
  | .dlcfg rs1 rs2 u => asmLine "DLCFG" [asmIndex "dl" u, asmReg rs1, asmReg rs2]
  | .dlwr rs1 u => asmLine "DLWR" [asmIndex "dl" u, asmReg rs1]
  | .dlrd rd rs1 u => asmLine "DLRD" [asmReg rd, asmIndex "dl" u, asmReg rs1]
  | .dlmrd rd rs1 rs2 u => asmLine "DLMRD" [asmReg rd, asmIndex "dl" u, asmReg rs1, asmReg rs2]
  | .comb rd rs1 u => asmLine "COMB" [asmReg rd, asmIndex "dl" u, asmReg rs1]
  | .apf rd rs1 u => asmLine "APF" [asmReg rd, asmIndex "dl" u, asmReg rs1]
  | .lfocfg rs1 rs2 u => asmLine "LFOCFG" [asmIndex "lfo" u, asmReg rs1, asmReg rs2]
  | .lfostep rd u => asmLine "LFOSTEP" [asmReg rd, asmIndex "lfo" u]
  | .bq rd rs1 u => asmLine "BQ" [asmReg rd, asmIndex "flt" u, asmReg rs1]
  | .svf rd rs1 u => asmLine "SVF" [asmReg rd, asmIndex "flt" u, asmReg rs1]
  | .moog rd rs1 u => asmLine "MOOG" [asmReg rd, asmIndex "flt" u, asmReg rs1]
  | .fclr u => asmLine "FCLR" [asmIndex "flt" u]
  | .envupd rd n => asmLine "ENVUPD" [asmReg rd, asmIndex "v" n]
  | .envamp rd n => asmLine "ENVAMP" [asmReg rd, asmIndex "v" n]
  | .tremupd n => asmLine "TREMUPD" [asmIndex "v" n]
  | .menvupd n => asmLine "MENVUPD" [asmIndex "v" n]
  | .mixsmooth n => asmLine "MIXSMOOTH" [asmIndex "v" n]
  | .mixv rd rs1 rs2 n => asmLine "MIXV" [asmReg rd, asmIndex "v" n, asmReg rs1, asmReg rs2]
  | .fxinit slot => asmLine "FXINIT" [asmIndex "fx" slot]
  | .fxproc rs1 rs2 slot => asmLine "FXPROC" [asmIndex "fx" slot, asmReg rs1, asmReg rs2]
  | .fxfree slot => asmLine "FXFREE" [asmIndex "fx" slot]
  | .busclr rs1 rs2 mask => asmLine "BUSCLR" [toString mask, asmReg rs1, asmReg rs2]
  | .envstart n => asmLine "ENVSTART" [asmIndex "v" n]
  | .envrel n => asmLine "ENVREL" [asmIndex "v" n]

/-- `LI rd, c`: always two commands (30_encoding.md R241). -/
def pseudoLi (rd : Nat) (c : Word) : List Instr :=
  [.lui rd (c.toNat / 2 ^ 10), .ori rd rd (c.toNat % 2 ^ 10)]

/-- `MOV rd, rs` (30_encoding.md R241). -/
def pseudoMov (rd rs : Nat) : List Instr := [.ori rd rs 0]

/-- `CLR rd` (30_encoding.md R241). -/
def pseudoClr (rd : Nat) : List Instr := [.lui rd 0]

/-- `VREG rd, v<n>, off`, valid while x0 holds 0 (30_encoding.md R241). -/
def pseudoVreg (rd n off : Nat) : List Instr := [.rdreg rd 0 (0x1000 + 0x80 * n + off)]

end Sys2Proof.Machine
end

