-- ==== Sys2Proof/Tests/Slice0.lean ====
section
/-! SUPPORT. Tests: the well-formedness checks, the decoding of words written out from the formats, single commands
with the results that spec/95_test_vectors.md or a rule's example states, and a state meeting the hypotheses of each
statement. -/

-- one theorem after the other: each waits on the kernel, and a hundred waiting threads are too many
set_option Elab.async false

namespace Sys2Proof.Tests

open Sys2Proof.Machine Sys2Proof.Claims

/-! ### Well-formedness -/

theorem test_wf_refuses_register : Instr.wf (.adds 3 1 16) = false ∧ Instr.wf (.lui 16 0) = false := by decide

theorem test_wf_refuses_immediate : Instr.wf (.ori 1 2 16384) = false ∧ Instr.wf (.fclr 16384) = false := by decide

theorem test_wf_refuses_upper_immediate : Instr.wf (.lui 1 4194304) = false := by decide

theorem test_wf_accepts_largest_fields :
    Instr.wf (.mixv 15 15 15 16383) = true ∧ Instr.wf (.lui 15 4194303) = true := by decide

/-! ### Decoding -/

/-- 40_fixedpoint.md: op, rd, rs1, rs2, imm14 (or rd, imm22) bit by bit, the bits a row does not use set
(30_encoding.md R201, R202, R206, R210). -/
theorem test_decode_moves :
    decode 0b000000_1111_1111_1111_11111111111111 = .ok (.nop) ∧
    decode 0b000001_0011_1001000000000000000011 = .ok (.lui 3 0x240003) ∧
    decode 0b000010_0011_1001_1111_10000000000101 = .ok (.ori 3 9 0x2005) ∧
    decode 0b000011_0011_1001_0110_11111111111111 = .ok (.adds 3 9 6) ∧
    decode 0b000100_0011_1001_0110_11111111111111 = .ok (.subs 3 9 6) ∧
    decode 0b000101_0011_1001_1111_10000000000101 = .ok (.rdreg 3 9 0x2005) ∧
    decode 0b000110_1111_1001_0110_10000000000101 = .ok (.wrreg 9 6 0x2005) ∧
    decode 0b000111_0011_1001_1111_10000000000101 = .ok (.lds 3 9 0x2005) ∧
    decode 0b001000_1111_1001_0110_10000000000101 = .ok (.sts 9 6 0x2005) ∧
    decode 0b001001_1111_1001_0110_10000000000101 = .ok (.accs 9 6 0x2005) := by decide

/-- 40_fixedpoint.md, multiply and divide, in the same layout. -/
theorem test_decode_arithmetic :
    decode 0b010000_0011_1001_0110_11111111111111 = .ok (.fmul8 3 9 6) ∧
    decode 0b010001_0011_1001_0110_11111111111111 = .ok (.fmul16 3 9 6) ∧
    decode 0b010010_0011_1001_0110_11111111111111 = .ok (.fmul24 3 9 6) ∧
    decode 0b010011_0011_1001_0110_11111111111111 = .ok (.fmul28 3 9 6) ∧
    decode 0b010100_0011_1001_0110_11111111111111 = .ok (.fdiv8 3 9 6) ∧
    decode 0b010101_0011_1001_0110_11111111111111 = .ok (.fdiv16 3 9 6) ∧
    decode 0b010110_0011_1001_0110_11111111111111 = .ok (.fdiv24 3 9 6) ∧
    decode 0b010111_0011_1001_0110_11111111111111 = .ok (.fdiv28 3 9 6) := by decide

/-- 41_delayline.md, in the same layout. -/
theorem test_decode_delay_lines :
    decode 0b011000_1111_1001_0110_10000000000101 = .ok (.dlcfg 9 6 0x2005) ∧
    decode 0b011001_1111_1001_1111_10000000000101 = .ok (.dlwr 9 0x2005) ∧
    decode 0b011010_0011_1001_1111_10000000000101 = .ok (.dlrd 3 9 0x2005) ∧
    decode 0b011011_0011_1001_0110_10000000000101 = .ok (.dlmrd 3 9 6 0x2005) ∧
    decode 0b011100_0011_1001_1111_10000000000101 = .ok (.comb 3 9 0x2005) ∧
    decode 0b011101_0011_1001_1111_10000000000101 = .ok (.apf 3 9 0x2005) := by decide

/-- 42_lfo.md, in the same layout. -/
theorem test_decode_lfo :
    decode 0b100000_1111_1001_0110_10000000000101 = .ok (.lfocfg 9 6 0x2005) ∧
    decode 0b100001_0011_1111_1111_10000000000101 = .ok (.lfostep 3 0x2005) := by decide

/-- 43_filters.md, in the same layout. -/
theorem test_decode_filters :
    decode 0b100100_0011_1001_1111_10000000000101 = .ok (.bq 3 9 0x2005) ∧
    decode 0b100101_0011_1001_1111_10000000000101 = .ok (.svf 3 9 0x2005) ∧
    decode 0b100110_0011_1001_1111_10000000000101 = .ok (.moog 3 9 0x2005) ∧
    decode 0b100111_1111_1111_1111_10000000000101 = .ok (.fclr 0x2005) := by decide

/-- 44_envelope.md, in the same layout. -/
theorem test_decode_envelopes :
    decode 0b101000_0011_1111_1111_10000000000101 = .ok (.envupd 3 0x2005) ∧
    decode 0b101001_0011_1111_1111_10000000000101 = .ok (.envamp 3 0x2005) ∧
    decode 0b101010_1111_1111_1111_10000000000101 = .ok (.tremupd 0x2005) ∧
    decode 0b101011_1111_1111_1111_10000000000101 = .ok (.menvupd 0x2005) ∧
    decode 0b110100_1111_1111_1111_10000000000101 = .ok (.envstart 0x2005) ∧
    decode 0b110101_1111_1111_1111_10000000000101 = .ok (.envrel 0x2005) := by decide

/-- 45_mixer.md, in the same layout. -/
theorem test_decode_mixer :
    decode 0b101100_1111_1111_1111_10000000000101 = .ok (.mixsmooth 0x2005) ∧
    decode 0b101101_0011_1001_0110_10000000000101 = .ok (.mixv 3 9 6 0x2005) := by decide

/-- 46_effects.md, in the same layout. -/
theorem test_decode_effects :
    decode 0b110000_1111_1111_1111_10000000000101 = .ok (.fxinit 0x2005) ∧
    decode 0b110001_1111_1001_0110_10000000000101 = .ok (.fxproc 9 6 0x2005) ∧
    decode 0b110010_1111_1111_1111_10000000000101 = .ok (.fxfree 0x2005) ∧
    decode 0b110011_1111_1001_0110_10000000000101 = .ok (.busclr 9 6 0x2005) := by decide

/-- 30_encoding.md R220: the two ends of every unassigned range are refused by name. -/
theorem test_decode_refuses_unassigned :
    ([0x28000000, 0x3C000000, 0x78000000, 0x7C000000, 0x88000000, 0x8C000000, 0xB8000000, 0xBC000000, 0xD8000000,
      0xFC000000] : List Word).all (fun w => match decode w with
        | .ok _ => false
        | .error _ => true) = true := by decide

/-- 30_encoding.md R240, R241 and 95_test_vectors.md P1: `LI x1, 0x18000` is two commands. -/
theorem test_decode_li :
    decode 0x04400060 = .ok (.lui 1 0x60) ∧ decode 0x08440000 = .ok (.ori 1 1 0) := by decide

/-! ### Single commands

Expected results are those of the vector or example named; word addresses are moved down where the small build's
sample RAM is smaller than the vector's. -/

/-- A legal build with one of each unit, after reset. -/
def tiny : State :=
  State.resetWith { nv := 1, ndl := 1, nlfo := 1, nflt := 1, nslot := 1, sramWords := 4096 }

/-- The machine with operand registers set. -/
def withRegs (l : List (Nat × Int)) (s : State) : State := l.foldl (fun s p => s.withReg p.1 (BitVec.ofInt 32 p.2)) s

/-- The machine with control registers written. -/
def withCtl (l : List (Nat × Int)) (s : State) : State :=
  l.foldl (fun s p => writeControl p.1 (BitVec.ofInt 32 p.2) s) s

/-- The machine with sample-RAM words stored from an address on. -/
def withMem (a : Nat) (l : List Int) (s : State) : State :=
  match l with
  | [] => s
  | v :: r => withMem (a + 1) r (State.withSramWord a (BitVec.ofInt 32 v) s)

/-- The machine with one table word stored. -/
def withTab (a : Nat) (v : Int) (s : State) : State := State.withTramWord a (BitVec.ofInt 32 v) s

/-- The state after a command, the state before it if it does not answer a next state. -/
def after (i : Instr) (s : State) : State :=
  match exec i s with
  | .next t => t
  | _ => s

/-- Control registers, as signed numbers. -/
def ctl (l : List Nat) (s : State) : List Int := l.map fun a => (readControl s a).toInt

/-- Operand registers, as signed numbers. -/
def ops (l : List Nat) (s : State) : List Int := l.map fun r => (s.reg r).toInt

/-- Sample-RAM words, as signed numbers. -/
def mem (l : List Nat) (s : State) : List Int := l.map fun a => (s.sramWord a).toInt

/-- The result register 3 and STATUS after a command on x1 and x2. -/
def binary (i : Instr) (a b : Int) : List Int :=
  let t := after i (withRegs [(1, a), (2, b)] tiny)
  ops [3] t ++ ctl [1] t

/-- V2.8.1. -/
theorem test_nop_wraps_cmd_seq : ctl [0xD] (after .nop { tiny with cmdSeq := 0xFFFFFFFF }) = [0] := by decide +kernel

/-- V2.1.4. -/
theorem test_lui : ops [1] (after (.lui 1 0x3FFFFF) tiny) = [-1024] := by decide +kernel

/-- V2.1.6. -/
theorem test_ori_zero_extends : ops [2] (after (.ori 2 1 0x3FFF) (withRegs [(1, 0xFFFFC000)] tiny)) = [-1] := by decide +kernel

/-- V2.1.7, V2.1.8. -/
theorem test_adds : binary (.adds 3 1 2) 5 (-7) = [-2, 0] ∧ binary (.adds 3 1 2) 0x7FFFFFFF 1 = [0x7FFFFFFF, 1] := by decide +kernel

/-- V2.1.10, V2.1.11. -/
theorem test_subs : binary (.subs 3 1 2) 3 10 = [-7, 0] ∧ binary (.subs 3 1 2) 0 (-2147483648) = [0x7FFFFFFF, 1] := by decide +kernel

/-- V2.1.15. -/
theorem test_rdreg_wraps_address : ops [1] (after (.rdreg 1 1 0) (withRegs [(1, 0x10003)] tiny)) = [44100] := by decide +kernel

/-- V2.1.16, on a machine that has not halted. -/
theorem test_wrreg_status : ctl [1] (after (.wrreg 0 3 1) (withRegs [(3, 0xF)] { tiny with status := 0xF })) = [0] := by decide +kernel

/-- V2.1.17. -/
theorem test_wrreg_warl : ctl [3] (after (.wrreg 0 3 3) tiny) = [1] := by decide +kernel

/-- V2.1.19. -/
theorem test_lds : ops [5] (after (.lds 5 4 0) (withRegs [(4, 0x100)] (withMem 0x100 [7] tiny))) = [7] := by decide +kernel

/-- V2.1.23, at the first word past sample RAM. -/
theorem test_lds_halts : 
    (let t := after (.lds 5 4 0) (withRegs [(4, 4096)] { tiny with cmd := 0x1D500000 })
     ctl [1, 0xE, 0xF, 0x10, 0xD] t ++ ops [5] t) = [16, 1, 0x1D500000, 4096, 0, 0] := by decide +kernel

/-- V2.1.20. -/
theorem test_sts : mem [0x103] (after (.sts 4 5 3) (withRegs [(4, 0x100), (5, -1)] tiny)) = [-1] := by decide +kernel

/-- V2.1.24. -/
theorem test_sts_wraps_address : mem [0] (after (.sts 4 5 0x3FFF) (withRegs [(4, 0xFFFFC001), (5, 9)] tiny)) = [9] := by decide +kernel

/-- V2.1.21. -/
theorem test_accs : 
    (let t := after (.accs 0 6 0x200) (withRegs [(6, 0x20)] (withMem 0x200 [0x7FFFFFF0] tiny))
     mem [0x200] t ++ ctl [1] t) = [0x7FFFFFFF, 1] := by decide +kernel

/-- V2.1.31, V2.1.33. -/
theorem test_fmul8 : 
    binary (.fmul8 3 1 2) (-1) 1 = [-1, 0] ∧
      binary (.fmul8 3 1 2) 0x7FFFFFFF 0x200 = [0x7FFFFFFF, 1] := by decide +kernel

/-- V2.1.34, V2.1.37. -/
theorem test_fmul16 : 
    binary (.fmul16 3 1 2) (-3) 0x8000 = [-2, 0] ∧
      binary (.fmul16 3 1 2) (-2147483648) (-2147483648) = [0x7FFFFFFF, 1] := by decide +kernel

/-- V2.1.38, V2.1.40. -/
theorem test_fmul24 : 
    binary (.fmul24 3 1 2) 1000 0xC00000 = [750, 0] ∧
      binary (.fmul24 3 1 2) (-1) 1 = [-1, 0] := by decide +kernel

/-- V2.1.41, V2.1.45. -/
theorem test_fmul28 : 
    binary (.fmul28 3 1 2) 0x08000000 0x08000000 = [0x04000000, 0] ∧
      binary (.fmul28 3 1 2) (-2147483648) 0x10000000 = [-2147483648, 0] := by decide +kernel

/-- V2.1.51, V2.1.53. -/
theorem test_fdiv8 : 
    binary (.fdiv8 3 1 2) (-1) 3 = [-85, 0] ∧
      binary (.fdiv8 3 1 2) 1 0 = [0x7FFFFFFF, 2] := by decide +kernel

/-- V2.1.56, V2.1.60. -/
theorem test_fdiv16 : 
    binary (.fdiv16 3 1 2) (-0x10000) 0x30000 = [-0x5555, 0] ∧
      binary (.fdiv16 3 1 2) (-5) 0 = [-2147483648, 2] := by decide +kernel

/-- V2.1.61, V2.1.62. -/
theorem test_fdiv24 : 
    binary (.fdiv24 3 1 2) 0x1000000 0x3000000 = [0x555555, 0] ∧
      binary (.fdiv24 3 1 2) 0x40000000 0x800000 = [0x7FFFFFFF, 1] := by decide +kernel

/-- V2.1.63, V2.1.65. -/
theorem test_fdiv28 : 
    binary (.fdiv28 3 1 2) 0x10000000 0x30000000 = [0x05555555, 0] ∧
      binary (.fdiv28 3 1 2) 0x40000000 0x08000000 = [0x7FFFFFFF, 1] := by decide +kernel

/-- The delay unit of V2.2.2: a four-word line at 0x100 holding 10, 20, 30, 0, its cursor at 3. -/
def lined : State :=
  withMem 0x100 [10, 20, 30, 0]
    { tiny with delays := [{ DelayUnit.reset with line := { base := 0x100, len := 4, wpt := 3 }, valid := true }] }

/-- A one-word delay unit at 0x100 with feedback one half, damping as given, and its word. -/
def short (damp word : Int) : State :=
  withMem 0x100 [word] (withCtl [(0x404, 0x800000), (0x405, damp)]
    { tiny with delays := [{ DelayUnit.reset with line := { base := 0x100, len := 1, wpt := 0 }, valid := true }] })

/-- V2.2.1. -/
theorem test_dlcfg : 
    (let t := after (.dlcfg 1 2 0) (withRegs [(1, 0x100), (2, 4)] (withMem 0x100 [85, 85, 85, 85, 85] tiny))
     mem [0x100, 0x101, 0x102, 0x103, 0x104] t ++ ctl [0x400, 0x401, 0x402, 0x407] t) = [0, 0, 0, 0, 85, 0x100, 4, 0, 1] := by decide +kernel

/-- V2.2.16, at the end of the small sample RAM. -/
theorem test_dlcfg_halts : 
    ctl [1, 0xE, 0x10, 0x401, 0x407] (after (.dlcfg 1 2 0) (withRegs [(1, 4095), (2, 2)] tiny)) = [16, 2, 2, 0, 0] := by decide +kernel

/-- V2.2.2 carried one sample on: the cursor wraps. -/
theorem test_dlwr : 
    (let t := after (.dlwr 3 0) (withRegs [(3, 40)] lined)
     mem [0x100, 0x101, 0x102, 0x103] t ++ ctl [0x402] t) = [10, 20, 30, 40, 0] := by decide +kernel

/-- V2.2.3, V2.2.5. -/
theorem test_dlrd : 
    (let t := after (.dlrd 3 1 0) (withRegs [(1, 3)] lined)
     let u := after (.dlrd 3 1 0) (withRegs [(1, 9)] lined)
     ops [3] t ++ ctl [1] t ++ ops [3] u ++ ctl [1] u) = [10, 0, 0, 4] := by decide +kernel

/-- V2.2.7, V2.2.8. -/
theorem test_dlmrd : 
    (let t := after (.dlmrd 3 1 2 0) (withRegs [(1, 1), (2, 0x800000)] lined)
     let u := after (.dlmrd 3 1 2 0) (withRegs [(1, 4), (2, 0)] lined)
     ops [3] t ++ ctl [1, 0x403] t ++ ops [3] u ++ ctl [1] u) = [29, 0, 29, 10, 4] := by decide +kernel

/-- V2.2.12, its second step. -/
theorem test_comb : 
    (let t := after (.comb 3 1 0) (short 0x800000 100)
     ops [3] t ++ mem [0x100] t ++ ctl [0x406] t) = [100, 25, 50] := by decide +kernel

/-- V2.2.13, its first two steps. -/
theorem test_apf : 
    (let t := after (.apf 3 1 0) (withRegs [(1, 100)] (short 0 0))
     let u := after (.apf 3 1 0) (short 0 100)
     ops [3] t ++ mem [0x100] t ++ ops [3] u ++ mem [0x100] u) = [-100, 100, 100, 50] := by decide +kernel

/-- V2.3.4, V2.3.5. -/
theorem test_lfocfg : 
    (let t := after (.lfocfg 1 2 0) (withRegs [(1, 4), (2, 6)] tiny)
     let u := after (.lfocfg 1 2 0) tiny
     ctl [0x600, 0x601, 1] t ++ ctl [0x600, 1] u) = [4, 2, 0, 1, 4] := by decide +kernel

/-- V2.3.2. -/
theorem test_lfostep_triangle : 
    (let t := after (.lfostep 3 0) { tiny with lfos := [{ cycle := 3, count := 1, wave := .triangle, out := 0 }] }
     ops [3] t ++ ctl [0x601, 0x603] t) = [43520, 2, 43520] := by decide +kernel

/-- V2.3.3, its second step. -/
theorem test_lfostep_sine : 
    ops [3] (after (.lfostep 3 0) (withTab 2176 65536
      { tiny with lfos := [{ cycle := 4, count := 1, wave := .sine, out := 0 }] })) = [65536] := by decide +kernel

/-- V2.4.1, its second step. -/
theorem test_bq : 
    (let t := after (.bq 3 1 0) (withCtl [(0x700, 0x800000), (0x703, -0x800000), (0x705, 1000), (0x707, 500)] tiny)
     ops [3] t ++ ctl [0x705, 0x706, 0x707, 0x708] t) = [250, 0, 1000, 250, 500] := by decide +kernel

/-- V2.4.7, its second step. -/
theorem test_svf : 
    (let t := after (.svf 3 1 0) (withRegs [(1, 1000)]
       (withCtl [(0x709, 0x400000), (0x70A, 0x1000000), (0x70D, 250)] tiny))
     ops [3] t ++ ctl [0x70C, 0x70D] t) = [62, 62, 422] := by decide +kernel

/-- V2.4.9. -/
theorem test_moog : 
    (let t := after (.moog 3 1 0) (withRegs [(1, 1000)] (withCtl [(0x70B, 0x400000), (0x709, 0x800000)] tiny))
     ops [3] t ++ ctl [0x70C, 0x70D, 0x70E, 0x70F, 0x710] t) = [3, 1000, 250, 62, 15, 3] := by decide +kernel

/-- 43_filters.md R463: every history word, nothing else. -/
theorem test_fclr : 
    ctl [0x700, 0x705, 0x706, 0x707, 0x708, 0x70C, 0x710] (after (.fclr 0)
      (withCtl [(0x700, 1), (0x705, 2), (0x706, 3), (0x707, 4), (0x708, 5), (0x70C, 6), (0x710, 7)] tiny)) =
      [1, 0, 0, 0, 0, 0, 0] := by decide +kernel

/-- V1.1a. -/
theorem test_envupd_clamps_and_snaps : 
    (let t := after (.envupd 3 0) (withTab 2047 5 (withCtl [(0x1001, 1), (0x1018, 1), (0x1019, 0x3FF00000),
       (0x101A, 0x3FFFFFFF), (0x101B, 0x200000), (0x1029, 0x3FFFFFFF)] tiny))
     ctl [0x1018, 0x1019, 0x1001] t ++ ops [3] t) = [3, 0x3FFFFFFF, 1, 0] := by decide +kernel

/-- V1.1b. -/
theorem test_envupd_frees : 
    (let t := after (.envupd 3 0) (withCtl [(0x1001, 3), (0x1018, 4), (0x1019, 100), (0x101B, -0x1000000)] tiny)
     ctl [0x1000, 0x1001, 0x1019] t ++ ops [3] t) = [0x200, 0, 0, 1] := by decide +kernel

/-- V2.5.3. -/
theorem test_envamp : 
    ctl [0x1062, 0x1063, 0x1064] (after (.envamp 3 0) (withTab 1536 1000 (withCtl [(0x1001, 1), (0x1018, 3),
      (0x1019, 0x20000000), (0x1060, 0x8000), (0x1061, 0x10000)] tiny))) = [1000, 500, 1000] := by decide +kernel

/-- V2.5.15, V2.5.17 (its second step). -/
theorem test_tremupd : 
    (let t := after (.tremupd 0) (withTab 2176 65536 (withCtl [(0x1001, 1), (0x105A, 65536), (0x1059, 0x40000000)] tiny))
     let u := after (.tremupd 0) (withTab 2048 0 (withCtl [(0x1001, 1), (0x105B, 40000), (0x105C, 40000)] tiny))
     ctl [0x1058, 0x105D] t ++ ctl [0x105B, 0x105C] u) = [0x40000000, 0, 65536, 0] := by decide +kernel

/-- 44_envelope.md R530 with 40_fixedpoint.md R252: the sweep sum past 2^31 - 1 sets SAT, and the sweep ends at 1.0. In
ENVUPD it ends the same and sets no SAT (R560). -/
theorem test_sweep_saturates :
    ctl [0x105B, 0x105C, 1] (after (.tremupd 0) (withTab 2048 0 (withCtl [(0x1001, 1), (0x105C, -1)] tiny))) =
      [65536, 0, 1] ∧
    ctl [0x105B, 0x105C, 1] (after (.envupd 3 0) (withTab 0 0 (withTab 2048 0 (withCtl [(0x1000, 0x80), (0x1001, 1),
      (0x1059, 1), (0x105C, -1)] tiny)))) = [65536, 0, 0] := by decide +kernel

/-- V2.5.19, V2.5.20. -/
theorem test_menvupd : 
    (let s := withCtl [(0x1001, 1), (0x103A, 0x3FFFFFFF), (0x103B, 0x1000000)] tiny
     ctl [0x1039, 0x103C, 0x1000] (after (.menvupd 0) s) ++
       ctl [0x1039, 0x103C, 0x1000] (after (.menvupd 0) (withCtl [(2, 0)] s))) = [0x1000000, 0x400, 0x100, 0, 0, 0] := by decide +kernel

/-- V2.5.1. -/
theorem test_envstart : 
    ctl [0x1018, 0x101A, 0x101B] (after (.envstart 0) (withTab 0 0 (withCtl [(0x1001, 1), (0x1020, 0x1000000),
      (0x1028, 0x3FFFFFFF)] tiny))) = [1, 0x3FFFFFFF, 0x1000000] := by decide +kernel

/-- V2.5.4. -/
theorem test_envrel_release : 
    ctl [0x1018, 0x101B, 0x101C, 0x101D] (after (.envrel 0) (withTab 2047 9 (withCtl [(0x1001, 3), (0x1019, 0x20000000),
      (0x1023, 0x100000)] tiny))) = [4, -0x80000, 32768, 131072] := by decide +kernel

/-- V2.5.8. -/
theorem test_envrel_sustain_decay : 
    ctl [0x1018, 0x101A, 0x101B] (after (.envrel 0) (withTab 2047 9 (withCtl [(0x1001, 2), (5, 1000), (0xF0, 64),
      (0x1019, 0x3FFFFFFF)] tiny))) = [3, 0, -2130440] := by decide +kernel

/-- V1.5c, and V1.5h on the right side. -/
theorem test_mixsmooth : 
    ctl [0x1067, 0x1069, 0x1068, 0x106A] (after (.mixsmooth 0) (withCtl [(0x1001, 1), (0x1063, 883), (0x1066, 10),
      (0x1064, 5)] tiny)) = [1, -881, -1, 4] := by decide +kernel

/-- V2.6.14 with a send of one half (45_mixer.md R603). -/
theorem test_mixv_delay_send : 
    (let t := after (.mixv 3 1 2 0) (withRegs [(2, 4)] (withCtl [(8, 0x200), (0xA, 0x300), (0x1001, 1), (0x1000, 4),
       (0x1003, 3), (0x1004, 0x100), (0x1063, 10), (0x1006, 0x8000)] (withMem 0x100 [7] (withMem 0x206 [1, 2]
       (withMem 0x306 [3, 4] tiny)))))
     mem [0x206, 0x207, 0x306, 0x307] t ++ ctl [0x1003, 0x1004] t ++ ops [3] t) = [71, 2, 38, 4, 0, 0x101, 0] := by decide +kernel

/-- V2.6.12 with two frames on the left side only. -/
theorem test_mixv_dies : 
    (let t := after (.mixv 3 1 2 0) (withRegs [(2, 2)] (withCtl [(8, 0x200), (0x1001, 4), (0x1000, 4), (0x1004, 0x100),
       (0x1063, 100)] (withMem 0x100 [1, 1] (withMem 0x200 [0, 0, 0, 0] tiny))))
     mem [0x200, 0x201, 0x202, 0x203] t ++ ctl [0x1000, 0x1001] t ++ ops [3] t) = [50, 0, 0, 0, 0x204, 0, 1] := by decide +kernel

/-- A slot with the stereo chorus, ten frames of delay, five of depth, a cycle of 100 (V2.7.11). -/
def chorused : State :=
  withCtl [(0x800, 3), (0x802, 3), (0x803, 0x400), (0x804, 64), (0x811, 65536), (0x812, 655360), (0x813, 327680),
    (0x814, 100)] tiny

/-- A slot with the stereo chorus of V1.4b: two frames of delay, no depth, a cycle of one, in insert mode. -/
def plain : State :=
  withCtl [(8, 0x200), (0x800, 3), (0x802, 3), (0x803, 0x400), (0x804, 64), (0x811, 65536), (0x812, 131072),
    (0x814, 1)] (withTab 2048 0 (withMem 0x200 [1000, 0, 0, 0, 0, 0] tiny))

/-- V2.7.11, V2.7.12. -/
theorem test_fxinit : 
    ctl [0x801, 0x805, 1] (after (.fxinit 0) chorused) ++
      ctl [0x801, 0x805, 1] (after (.fxinit 0) (withCtl [(0x812, 0x8000)] chorused)) = [1, 34, 0, 2, 0, 0] := by decide +kernel

/-- V2.7.5 for the chorus: one word short. -/
theorem test_fxinit_halts : 
    ctl [0x801, 0x805, 0xE, 0x10] (after (.fxinit 0) (withCtl [(0x804, 33)] chorused)) = [0, 0, 2, 34] := by decide +kernel

/-- V1.4b: the impulse comes out two frames later, the slot having been built on the way. -/
theorem test_fxproc_chorus : 
    (let t := after (.fxproc 1 2 0) (withRegs [(2, 3)] plain)
     mem [0x200, 0x201, 0x202, 0x203, 0x204, 0x205] t ++ ctl [0x801, 0x805, 1] t) = [0, 0, 0, 0, 1000, 0, 1, 8, 0] := by decide +kernel

/-- V2.7.1. -/
theorem test_fxproc_pass_through : 
    mem [0x200, 0x201, 0x300, 0x301] (after (.fxproc 1 2 0) (withRegs [(2, 1)] (withCtl [(8, 0x200), (0xA, 0x300)]
      (withMem 0x200 [1, 1] (withMem 0x300 [5, -7] tiny))))) = [6, -6, 0, 0] := by decide +kernel

/-- V2.7.16. -/
theorem test_fxfree : 
    ctl [0x800, 0x801, 0x805] (after (.fxfree 0) (after (.fxinit 0) chorused)) = [3, 0, 0] := by decide +kernel

/-- V2.7.19, for the reverb and the delay bus. -/
theorem test_busclr : 
    mem [0x301, 0x302, 0x303, 0x304, 0x402, 0x502] (after (.busclr 1 2 5) (withRegs [(1, 1), (2, 1)]
      (withCtl [(0xA, 0x300), (0xB, 0x400), (0xC, 0x500)] (withMem 0x301 [9, 9, 9, 9] (withMem 0x402 [9]
      (withMem 0x502 [9] tiny)))))) = [9, 0, 0, 9, 9, 0] := by decide +kernel

/-- 46_effects.md R773 with 00_scope.md R7: a count is signed unless a rule says unsigned. -/
theorem test_busclr_negative_count :
    (let t := after (.busclr 1 2 8) (withRegs [(2, -1)] (withMem 0 [9] tiny))
     mem [0] t ++ ctl [1, 0xD] t) = [9, 0, 1] := by decide +kernel

/-- 10_state.md R90 with 00_scope.md R7: a written cursor is signed. -/
theorem test_cursor_write_is_signed :
    ctl [0x1072] (withCtl [(0x1071, 5), (0x1072, -1)] tiny) = [4] := by decide +kernel

/-! ### Steps -/

/-- The state after one step, the state before it if it does not answer a next state. -/
def stepped (s : State) : State :=
  match step s with
  | .next t => t
  | _ => s

/-- V2.1.3 through the command port. -/
theorem test_step_runs_word : ops [1] (stepped (tiny.withFetchWord 32 0x04400040)) = [0x10000] := by decide +kernel

/-- V2.1.70. -/
theorem test_step_sets_ill : 
    ctl [1, 0xD] (stepped (tiny.withFetchWord 32 0x28000000)) = [8, 1] := by decide +kernel

/-- 95_test_vectors.md P5: a command after the halt is discarded. -/
theorem test_step_discards_after_halt : 
    ctl [1, 0xD] (stepped ({ tiny with status := 16, fatalCause := .badAddr }.withFetchWord 32 0)) = [16, 0] := by decide +kernel

/-- V2.8.3: only the reset ends the halt. -/
theorem test_step_resets : 
    ctl [1, 2, 3, 0xE] (stepped { tiny with
      status := 16, fatalCause := .badAddr, ctrl := 0, sampleRate := 1,
      port := [.write .word 0x24 1] }) = [0, 1, 44100, 0] := by decide +kernel

/-- 20_memory.md R160, R162, R163: table RAM through the port, and an access that is not performed. -/
theorem test_step_host_access : 
    (let s := stepped { tiny with port := [.write .word 0x100004 7, .read .word 0x100004, .read .half 0x100004] }
     let t := stepped s
     [(s.tramWord 1).toInt, t.hostData.toInt, (stepped t).hostData.toInt]) = [7, 7, 0] := by decide +kernel


/-! ### States that meet the hypotheses of the statements

One theorem for each statement with hypotheses, named after it. Where it has several clauses there is a conjunct for each,
at a boundary of its range. -/

/-- The port holds a word for the command port. -/
def commanded (w : Word) (s : State) : State := { s with port := [.write .word commandPortAddress w] }

/-- The machine after a Fatal halt on a bad address. -/
def halted : State := { tiny with status := 16, fatalCause := .badAddr, fatalInfo := 0x1D500000, fatalAddr := 4096 }

/-- A step or a command answers a next state that passes a test. -/
def answers (o : Host.Outcome State Fault Refusal) (p : State → Bool) : Bool :=
  match o with
  | .next t => p t
  | _ => false

/-- A step answers the fault named. -/
def faults (o : Host.Outcome State Fault Refusal) (f : Fault) : Bool :=
  match o with
  | .fault g => g == f
  | _ => false

/-- The machine with voice 0 as given. -/
def voiced (v : Voice) : State := { tiny with voices := [v] }

/-- A voice that is ON and has its envelope value and increment set. -/
def sounding (value inc : Word) : Voice :=
  { Voice.reset with status := .on, env := { EnvRegs.reset with value := value, inc := inc } }

theorem witness_DecodeOfEncode : Instr.wf (.mixv 15 15 15 16383) = true ∧ Instr.wf (.lui 15 4194303) = true ∧
    Instr.wf .nop = true ∧ decode (encode (.mixv 15 15 15 16383)) = .ok (.mixv 15 15 15 16383) := by decide +kernel

theorem witness_EncodeOfDecode : decode 0xD7FFFFFF = .ok (.envrel 16383) ∧
    encode (.envrel 16383) = 0xD7FFFFFF &&& usedBits (.envrel 16383) ∧ decode 0 = .ok .nop ∧
    (0x00FFFFFF : Word) &&& usedBits .nop = 0 &&& usedBits .nop := by decide +kernel

theorem witness_StepRunsDecodedCommand :
    (commanded 0x04400040 tiny).port = .write .word commandPortAddress 0x04400040 :: [] ∧
    (commanded 0x04400040 tiny).fatal = false ∧ decode 0x04400040 = .ok (.lui 1 0x40) := by decide +kernel

theorem witness_UnassignedOpcodeCompletes :
    unassignedOpcode (fieldOp 0x24000000) = false ∧ unassignedOpcode (fieldOp 0xD4000000) = false ∧
    (commanded 0x28000000 tiny).fatal = false ∧ unassignedOpcode (fieldOp 0x28000000) = true ∧
    unassignedOpcode (fieldOp 0xFC000000) = true := by decide +kernel

theorem witness_HaltEndsOnlyByReset :
    (commanded 0 halted).fatal = true ∧ HostAccess.write .word 0x24 0 ≠ .write .word 0x24 1 ∧
    answers (step { halted with port := [.write .word 0x24 0] }) (fun t => t.fatal) = true := by decide +kernel

theorem witness_HaltIsAFault :
    (commanded 0 tiny).fatal = false ∧ answers (step (commanded 0 tiny)) (fun t => !t.fatal) = true ∧
    answers (step (commanded 0x1D500000 (withRegs [(4, 4096)] tiny))) (fun t => t.fatal) = true ∧
    faults (Safety.verdict (commanded 0x1D500000 (withRegs [(4, 4096)] tiny))) (.badAddr 4096) = true ∧
    faults (Safety.verdict (commanded 0x60048000 tiny)) (.alloc 0) = true := by decide +kernel

theorem witness_ResetWriteResets :
    ({ halted with port := [.write .word 0x24 1] } : State).port = .write .word 0x24 1 :: [] := by decide +kernel

/-- The step of a host access answers a next state that passes a test. -/
def hosted (a : HostAccess) (s : State) (p : State → Bool) : Bool := answers (step { s with port := [a] }) p

theorem witness_HostAccessResults :
    3 < 4 ∧ tiny.port = [] ∧ (Width.half ≠ .word) ∧ ((0x40003 : Word).toNat % 4 ≠ 0) ∧
    hosted (.write .byte 0x08 0) tiny (fun t => t.ctrl == 1) = true ∧
    hosted (.read .word 0x03) { tiny with hostData := 9 } (fun t => t.hostData == 0) = true ∧
    hosted (.read .word 0) tiny (fun t => t.hostData == 0x46580007) = true ∧
    ([0x3FFFC, 0x40004, 0xFFFFC, 0x102800, 0xFFFFFC, 0x1004000, 0xFFFFFFFC].all fun a =>
      hosted (.read .word a) { tiny with hostData := 9 } fun t => t.hostData == 0) = true ∧
    hosted (.read .word 0x40000) tiny (fun t => t.freeCount == 1) = true ∧
    hosted (.read .word 0x1027FC) (withTab 2559 7 tiny) (fun t => t.hostData == 7) = true ∧
    hosted (.read .word 0x1003FFC) (withMem 4095 [7] tiny) (fun t => t.hostData == 7) = true ∧
    hosted (.write .word 0x14 7) tiny (fun t => t.minSustainTime == 7) = true ∧
    hosted (.write .word 0x1027FC 7) tiny (fun t => t.tramWord 2559 == 7) = true ∧
    hosted (.write .word 0x1003FFC 7) tiny (fun t => t.sramWord 4095 == 7) = true ∧
    ([0x40004, 0x102800, 0x1004000].all fun a => hosted (.write .word a 7) tiny fun t => t == tiny) = true := by
  decide +kernel

theorem witness_CommandsAreCounted :
    tiny.fatal = false ∧ controlWrite tiny .nop = none ∧ answers (exec .nop tiny) (fun t => !t.fatal) = true ∧
    answers (exec (.dlcfg 0 0 0) tiny) (fun t => t.fatal) = true := by decide +kernel

theorem witness_FlagsAreSticky :
    controlWrite { tiny with status := 1 } .nop = none ∧ ({ tiny with status := 1 } : State).flag .sat = true ∧
    answers (exec .nop { tiny with status := 1 }) (fun t => t.flag .sat) = true := by decide +kernel

theorem witness_CommandFrame :
    controlWrite tiny (.lui 1 1) = none ∧ answers (exec (.lui 1 1) tiny) (fun _ => true) = true ∧
    destination (.lui 1 1) ≠ some 0 := by decide +kernel

theorem witness_StepKeepsMemoryCanonical :
    (Memory.wf lined.sram = true ∧ Memory.wf lined.tram = true) ∧
    answers (step (commanded 0x640C0000 (withRegs [(3, 9)] lined)))
      (fun t => t.sram != lined.sram && Memory.wf t.sram) = true := by
  decide +kernel

/-- The machine with a silent sine table in table RAM. -/
def silent (s : State) : State := { s with tram := memZeroWords [] 2048 512 }

theorem silent_sine (s : State) : SineUnipolar (silent s) := fun i hi => by
  rw [show (silent s).tramWord (2048 + i) = 0 from (memWord_memZeroWords _ _ _ _ _).trans (if_pos (by omega))]
  decide

theorem witness_StepKeepsRegistersLegal :
    globalsOk tiny = true ∧ (∀ v ∈ tiny.voices, voiceOk v = true) ∧ (∀ d ∈ tiny.delays, d.damp.toNat ≤ 2 ^ 24) ∧
    (∀ l ∈ tiny.lfos, lfoOk l = true) ∧ tiny.fatal = false ∧ tiny.fatalCause = .none ∧
    answers (step (commanded 0x04400040 tiny)) (fun _ => true) = true ∧
    SineUnipolar (silent tiny) ∧ OutputsUnipolar (silent tiny) :=
  ⟨by decide +kernel, by decide +kernel, by decide +kernel, by decide +kernel, by decide +kernel, by decide +kernel,
    by decide +kernel, silent_sine tiny, by decide +kernel, by decide +kernel⟩

theorem witness_StepKeepsLinesAllocated :
    lined.params.legal = true ∧ (∀ d ∈ lined.delays, d.valid = true ∧ lineOk lined.sramWords d.line = true) ∧
    (∀ x ∈ lined.slots, recordLines x.record = [] ∧ recordCountOk x.record = true ∧ x.used = 0) ∧
    answers (step (commanded 0x640C0000 lined)) (fun _ => true) = true ∧
    (∀ x ∈ (after (.fxinit 0) chorused).slots, recordCountOk x.record = true ∧
      ∀ l ∈ recordLines x.record, lineOk 4096 l = true) := by decide +kernel

theorem witness_ResetState :
    resetsToOne 0x35 = true ∧ resetsToOne 0x5D = true ∧ resetsToOne (0x1036 % 128) = false ∧ 31 < 32 ∧
    0x1FFF ∉ [0x000, 0x002, 0x003, 0x004, 0x006, 0x007, 0x011, 0x012, 0x013] := by decide +kernel

theorem witness_MoveAndAddResults :
    fieldOp 0x00FFFFFF = 0 ∧ fieldOp 0x04400040 = 1 ∧ fieldOp 0x0BFFFFFF = 2 ∧ fieldOp 0x0CC48000 = 3 ∧
    fieldOp 0x13FFFFFF = 4 := by decide +kernel

theorem witness_MultiplyResults :
    fieldOp 0x40C48000 = 0x10 ∧ fieldOp 0x44C48000 = 0x11 ∧ fieldOp 0x48C48000 = 0x12 ∧ fieldOp 0x4FFFFFFF = 0x13 := by
  decide +kernel

theorem witness_DivideResults :
    fieldOp 0x50C48000 = 0x14 ∧ fieldOp 0x550C8000 = 0x15 ∧ fieldOp 0x58C48000 = 0x16 ∧ fieldOp 0x5FFFFFFF = 0x17 := by
  decide +kernel

theorem witness_ArithmeticIdentities :
    28 ∈ [8, 16, 24, 28] ∧ (256 : Word) ≠ 0 ∧
    2147483647 = Int.tdiv ((0x7FFFFFFF : Word).toInt * 2 ^ 8) (256 : Word).toInt ∧ fits32 2147483647 = true ∧
    fits32 (-2147483647) = true := by decide +kernel

theorem witness_LoadStoreResults :
    (effectiveAddress ((withRegs [(1, 4095)] tiny).reg 1) 0).toNat = 4095 ∧ 4095 < tiny.sramWords ∧
    (effectiveAddress ((withRegs [(1, -1)] tiny).reg 1) 1).toNat = 0 := by decide +kernel

/-- The last clause's halt is the one of an LDS just past sample RAM. -/
theorem witness_BadAddressHalts :
    tiny.sramWords ≤ (effectiveAddress ((withRegs [(1, 4095)] tiny).reg 1) 1).toNat ∧
    tiny.sramWords ≤ (effectiveAddress ((withRegs [(1, -1)] tiny).reg 1) 0).toNat ∧
    (let s := withRegs [(1, 0), (2, 1)] (withCtl [(8, 4094), (0xA, 4095)] tiny)
     (clearedWords s 9 (s.reg 1).toNat (s.reg 2).toInt.toNat).find? (fun w => s.sramWords ≤ w) = some 4096 ∧
      clearedWords s 9 (s.reg 1).toNat (s.reg 2).toInt.toNat = [4095, 4096, 4094, 4095]) ∧
    (let s := withRegs [(4, 4096)] tiny
     s.fatal = false ∧ controlWrite s (.lds 5 4 0) = none ∧
      answers (exec (.lds 5 4 0) s) (fun t => t.fatal && t.fatalCause == .badAddr) = true) := by decide +kernel

/-- One frame whose right output word is the first outside, and one that fits to the last word. -/
theorem witness_BufferAddressHalts :
    (let v := { sounding 0 0 with srcBase := 4095, delay := 1 }
     let s := { withRegs [(2, 2)] (voiced v) with outBase := 4093 }
     s.voices[0]? = some v ∧ v.status ≠ .free ∧ v.status ≠ .die ∧ v.ctrl.getLsbD 6 = false ∧
      v.delay.toNat ≤ (s.reg 2).toNat ∧ s.reg 2 ≠ 0 ∧
      (mixAccesses s v 1 1).find? (fun a => s.sramWords ≤ a) = some 4096 ∧
      (mixAccesses s v 0 1).find? (fun a => s.sramWords ≤ a) = none) ∧
    (let v := fun base : Word => { sounding 0 0 with ctrl := 0x40, srcBase := base, cc := 1 }
     let s := fun base : Word => withTab 0 5 (withRegs [(2, 2)] (withCtl [(4, 2)] (voiced (v base))))
     let bad := fun base : Word =>
      (signalFrames (s base) 2 0 0 (mixingOf (s base) (v base))).words.find? fun a => (s base).sramWords ≤ a
     (s 4095).voices[0]? = some (v 4095) ∧ (v 4095).status ≠ .free ∧ (v 4095).status ≠ .die ∧
      (v 4095).ctrl.getLsbD 6 = true ∧ (s 4095).controlRatio ≠ 0 ∧ (v 4095).delay.toNat ≤ ((s 4095).reg 2).toNat ∧
      (s 4095).reg 2 ≠ 0 ∧ bad 4095 = some 4096 ∧ bad 4094 = none) ∧
    (let v := fun base : Word => { sounding 0 0 with status := VoiceStatus.die, srcBase := base }
     let s := fun base : Word => withRegs [(2, 2)] (withCtl [(7, 4)] (voiced (v base)))
     let bad := fun base : Word =>
      (died (s base) 2 0 (mixingOf (s base) (v base))).words.find? fun a => (s base).sramWords ≤ a
     (s 4095).voices[0]? = some (v 4095) ∧ (v 4095).status = .die ∧ (s 4095).reg 2 ≠ 0 ∧
      bad 4095 = some 4096 ∧ bad 4094 = none) ∧
    (let s := withRegs [(2, 1)] (withCtl [(8, 4095)] tiny)
     s.slots[0]? = some Slot.reset ∧ s.sramWords ≤ 2 ^ 24 ∧ slotRunnable s Slot.reset = true ∧
      slotQuiet Slot.reset = false ∧
      (slotAccesses s Slot.reset.bus 0 1).find? (fun a => s.sramWords ≤ a) = some 4096 ∧
      (slotAccesses tiny Slot.reset.bus 2047 1).find? (fun a => tiny.sramWords ≤ a) = none) := by decide +kernel

theorem witness_ControlRegisterReads :
    tiny.params.legal = true ∧ tiny.delays[0]? = some DelayUnit.reset ∧ tiny.lfos[0]? = some LfoUnit.reset ∧
    tiny.filters[0]? = some FilterUnit.reset ∧ tiny.slots[0]? = some Slot.reset ∧
    tiny.voices[0]? = some Voice.reset ∧
    readControl tiny (0x1000 + 128 * 0 + 0x55) = listed (voiceRegs Voice.reset) 0x55 ∧
    listed (voiceRegs Voice.reset) 0x55 = 0x10000 ∧ listed (voiceRegs Voice.reset) 127 = 0 ∧
    (∀ a ∈ [0x014, 0x0EF, 0x100, 0x3FF, 0xC00, 0xFFF, 0x2000], readControl tiny a = 0) ∧
    (∀ a ∈ [0x408, 0x5FF], tiny.delays.length ≤ (a - 0x400) / 8) ∧
    (∀ a ∈ [0x604, 0x6FF], tiny.lfos.length ≤ (a - 0x600) / 4) ∧
    (∀ a ∈ [0x720, 0x7FF], tiny.filters.length ≤ (a - 0x700) / 32) ∧
    (∀ a ∈ [0x840, 0xBFF], tiny.slots.length ≤ (a - 0x800) / 64) ∧
    (∀ a ∈ [0x1080, 0x1FFF], tiny.voices.length ≤ (a - 0x1000) / 128) := by decide +kernel

theorem witness_GlobalRegisterWrites :
    (0 : Word) ≠ 1 ∧ writeControl 0x009 0 tiny = tiny ∧
    ∀ a ∈ [0, 0x00D, 0x0EF, 0x100, 0x3FF, 0x408, 0x5FF, 0x604, 0x6FF, 0x720, 0x7FF, 0x840, 0xBFF, 0xC00, 0xFFF, 0x1080,
      0x1FFF, 0x2000], writeControl a 5 tiny = tiny := by decide +kernel

theorem witness_VoiceRegisterWrites :
    0 < tiny.voices.length ∧ 0 < 32 ∧ 0x7F < 0x80 ∧
    ctl [0x1019] (writeControl 0x1019 0x40000000 tiny) = [0x3FFFFFFF] ∧
    ctl [0x1035] (writeControl 0x1035 0x80000000 tiny) = [0] ∧ ctl [0x105B] (writeControl 0x105B 65537 tiny) = [65536] ∧
    ctl [0x1073] (writeControl 0x1073 257 (writeControl 0x1071 300 tiny)) = [1] ∧
    ctl [0x1000, 0x1001] (writeControl 0x1000 0xFFFFFFFF (writeControl 0x1001 4 tiny)) = [0x3FF, 4] ∧
    ctl [0x1001] (writeControl 0x1001 5 (writeControl 0x1001 12 tiny)) = [4] ∧
    ctl [0x1002] (writeControl 0x1002 0x1F tiny) = [15] ∧
    ∀ off ∈ [0x11, 0x17, 0x1E, 0x1F, 0x26, 0x27, 0x2E, 0x2F, 0x36, 0x37, 0x3C, 0x3D, 0x3F, 0x46, 0x47, 0x4E, 0x4F, 0x56,
      0x57, 0x5D, 0x5E, 0x5F, 0x62, 0x6B, 0x6F, 0x74, 0x7F], writeControl (0x1000 + off) 1 tiny = tiny := by
  decide +kernel

theorem witness_UnitRegisterWrites :
    tiny.slots[0]? = some Slot.reset ∧ (0 : Word) = Slot.reset.fxType ∧ (1 : Word) ≠ Slot.reset.fxType ∧
    tiny.filters[0]? = some FilterUnit.reset ∧ tiny.delays[0]? = some DelayUnit.reset ∧
    tiny.lfos[0]? = some LfoUnit.reset ∧ 4 ≤ (4 : Word).toNat ∧ 4 ≤ (0x80000000 : Word).toNat ∧
    ∀ a ∈ [0x400, 0x401, 0x407, 0x600, 0x603, 0x715, 0x71F, 0x801, 0x805, 0x80F, 0x830, 0x83F],
      writeControl a 5 tiny = tiny := by decide +kernel

theorem witness_MissingIndexSetsRange :
    ∀ i ∈ [Instr.dlcfg 1 2 1, .dlwr 1 1, .dlrd 3 1 1, .dlmrd 3 1 2 1, .comb 3 1 1, .apf 3 1 1, .lfocfg 1 2 1,
      .lfostep 3 1, .bq 3 1 1, .svf 3 1 1, .moog 3 1 1, .fclr 1, .envupd 3 1, .envamp 3 1, .tremupd 1, .menvupd 1,
      .envstart 1, .envrel 1, .mixsmooth 1, .mixv 3 1 2 1, .fxinit 1, .fxproc 1 2 1, .fxfree 16383],
      missingIndex tiny i = true := by decide +kernel

theorem witness_UnconfiguredDelaySetsRange :
    tiny.delays[0]? = some DelayUnit.reset ∧ DelayUnit.reset.valid = false ∧ tiny.delays[1]? = none := by decide +kernel

theorem witness_FreeVoiceIsSkipped :
    tiny.voices[0]? = some Voice.reset ∧ Voice.reset.status = .free := by decide +kernel

theorem witness_DelayConfigureResult :
    tiny.delays[0]? = some DelayUnit.reset ∧
    (let s := withRegs [(1, 0), (2, 4096)] tiny
     1 ≤ (s.reg 2).toNat ∧ (s.reg 2).toNat ≤ 2 ^ 24 ∧ (s.reg 1).toNat + (s.reg 2).toNat ≤ s.sramWords) ∧
    (let s := withRegs [(1, 4095), (2, 1)] tiny
     1 ≤ (s.reg 2).toNat ∧ (s.reg 1).toNat + (s.reg 2).toNat ≤ s.sramWords) := by decide +kernel

/-- The unit of `lined`, with the hypotheses of the delay-line statements; `short` is the one-word line. -/
theorem witness_DelayWriteReadResults :
    (∀ d ∈ lined.delays, d.valid = true ∧ lineOk lined.sramWords d.line = true) ∧ lined.delays[0]?.isSome = true ∧
    lined.sramWords ≤ 2 ^ 24 := by decide +kernel

theorem witness_ModulatedReadResult :
    (∀ d ∈ (short 0 1).delays, d.valid = true ∧ lineOk (short 0 1).sramWords d.line = true) ∧
    (short 0 1).delays[0]?.isSome = true ∧ (short 0 1).sramWords ≤ 2 ^ 24 ∧
    (0 : Int) ≤ 0 ∧ (0 : Int) ≤ 16777215 ∧ (16777215 : Int) < 2 ^ 24 ∧ eta 16777215 = 0 := by decide +kernel

theorem witness_CombAllpassResults :
    (∀ d ∈ (short 0x1000000 1).delays, d.valid = true ∧ lineOk (short 0x1000000 1).sramWords d.line = true) ∧
    (short 0x1000000 1).delays[0]?.isSome = true ∧ (short 0x1000000 1).sramWords ≤ 2 ^ 24 := by decide +kernel

theorem witness_NextPrimeIsSmallest : Nat.Prime 2 ∧ max 0 2 ≤ 2 ∧ nextPrimeGe 0 = 2 :=
  ⟨Nat.prime_two, by decide, by decide +kernel⟩

theorem witness_LfoResults :
    tiny.lfos[0]? = some LfoUnit.reset ∧ LfoUnit.reset.cycle = 0 ∧
    ({ LfoUnit.reset with cycle := 1 } : LfoUnit).cycle ≠ 0 := by
  decide +kernel

theorem witness_FilterResults : tiny.filters[0]? = some FilterUnit.reset := by decide +kernel

theorem witness_EnvelopeCommandFrames :
    (voiced (sounding 0 1)).voices[0]? = some (sounding 0 1) ∧ (sounding 0 1).status ≠ .free := by decide +kernel

theorem witness_LevelAndTremoloResults :
    ((voiced (sounding 0x3FFFFFFF 0)).voices[0]? = some (sounding 0x3FFFFFFF 0) ∧
      (sounding 0x3FFFFFFF 0).status ≠ .free ∧ (sounding 0x3FFFFFFF 0).env.value.toNat ≤ 0x3FFFFFFF) ∧
    (withTab 2048 65536 (voiced (sounding 0 0))).voices[0]? = some (sounding 0 0) ∧ (sounding 0 0).status ≠ .free ∧
    (sounding 0 0).trem.depth.toNat ≤ 65536 ∧ (sounding 0 0).trem.sweepPos.toNat ≤ 65536 ∧
    (sounding 0 0).trem.phase + (sounding 0 0).trem.inc = 0 ∧
    ((withTab 2048 65536 (voiced (sounding 0 0))).tramWord 2048).toInt = 65536 := by decide +kernel

/-- A stopped voice, one short of its target, one that reaches a target and starts the next stage, one that is freed
there, and one that is sustained there. -/
theorem witness_EnvelopeUpdateResult :
    (let v := sounding 0 0
     (voiced v).voices[0]? = some v ∧ v.status ≠ .free ∧ v.env.inc.toInt = 0 ∧
      answers (exec (.envupd 3 0) (withTab 0 5 (voiced v))) (fun t => t.voices[0]?.isSome) = true) ∧
    (let v := { sounding 0x3FFFFFFE (-2) with env := { (sounding 0x3FFFFFFE (-2)).env with target := 0x3FFFFFFB } }
     (voiced v).voices[0]? = some v ∧ v.env.inc.toInt ≠ 0 ∧
      ¬(v.env.inc.toInt < 0 ∧ clamp 0 0x3FFFFFFF (v.env.value.toInt + v.env.inc.toInt) ≤ v.env.target.toInt)) ∧
    (let v := { sounding 1 (-1) with env := { (sounding 1 (-1)).env with
       stage := 1, offset := (Vector.replicate 6 0).set 1 7 } }
     (voiced v).voices[0]? = some v ∧ v.env.inc.toInt < 0 ∧
      clamp 0 0x3FFFFFFF (v.env.value.toInt + v.env.inc.toInt) ≤ v.env.target.toInt ∧
      (stageReached (voiced v) v 0 1).env.stage = 2 ∧ (stageReached (voiced v) v 0 1).status = .on) ∧
    (let v := sounding 1 (-1)
     stageEnd (voiced v) v 0 3 = .freed ∧ (stageReached (voiced v) v 0 0).status = .free ∧
      (stageReached (voiced v) v 0 0).env.stage = 3) ∧
    (let v := { sounding 1 (-1) with env := { (sounding 1 (-1)).env with offset := Vector.replicate 6 9 } }
     stageEnd (voiced v) v 9 3 = .sustains ∧ (stageReached (voiced v) v 9 0).env.stage = 3) ∧
    (let v := { sounding 0 0 with ctrl := 0x80, trem := { (sounding 0 0).trem with inc := 0x40000000 } }
     (voiced v).voices[0]? = some v ∧ (voiced v).ctrl.getLsbD 0 = true ∧
      (updated true (withTab 0 5 (withTab 2176 0 (voiced v))) v).1.trem.phase = 0x40000000 ∧
      (updated true (withTab 0 5 (withTab 2176 0 (voiced v))) v).1.mix.amp = 5) := by
  decide +kernel

theorem witness_EnvelopeStartsAttack :
    (voiced (sounding 1 0)).voices[0]? = some (sounding 1 0) ∧ (sounding 1 0).status ≠ .free ∧
    (entry (sounding 1 0).env.offset 0).toInt - (sounding 1 0).env.value.toInt ≠ 0 ∧
    (stageReached (voiced (sounding 1 0)) (sounding 1 0) 1 0).status ≠ .free ∧
    (stageReached (voiced (sounding 0 0)) (sounding 0 0) 0 0).status = .free := by decide +kernel

/-- A voice at full value, one at value 0, and one at value 1 that passes through every release stage and is freed. -/
theorem witness_ReleaseStarts :
    (let v := { sounding 0x3FFFFFFF 0 with status := VoiceStatus.off }
     (voiced v).voices[0]? = some v ∧ v.status = .off ∧ v.env.value.toNat ≤ 0x3FFFFFFF ∧ 0 < v.env.value.toNat ∧
      (entry v.env.offset 3).toInt - (v.env.value.toNat : Int) ≠ 0 ∧
      (stageReached (voiced v) v 0x3FFFFFFF 3).status ≠ .free) ∧
    (let v := sounding 0 0
     (voiced v).voices[0]? = some v ∧ v.status ≠ .free ∧ v.env.value.toNat = 0) ∧
    (let v := { sounding 1 0 with
       status := VoiceStatus.off, env := { (sounding 1 0).env with offset := Vector.replicate 6 1 } }
     (stageReached (voiced v) v 1 3).status = .free) ∧
    ({ voiced (sounding 1 0) with minSustainTime := 1 } : State).minSustainTime.toInt = 1 := by decide +kernel

theorem witness_SustainHoldsOrDecays :
    (voiced (sounding 1 0)).voices[0]? = some (sounding 1 0) ∧
    ((sounding 1 0).status = .on ∧ VoiceStatus.sustained ≠ .on) ∧ (sounding 1 0).env.value.toNat ≤ 0x3FFFFFFF ∧
    0 < (sounding 1 0).env.value.toNat ∧ (voiced (sounding 1 0)).minSustainTime.toInt ≠ 1 ∧
    ({ voiced (sounding 1 0) with minSustainTime := 1 } : State).minSustainTime.toInt = 1 := by decide +kernel

/-- The modulation envelope off, on and short of its target, at its target, and stopped. -/
theorem witness_ModulationEnvelopeResult :
    let v := { Voice.reset with status := VoiceStatus.on, menv := { EnvRegs.reset with inc := 1, target := 2 } }
    (voiced v).voices[0]? = some v ∧ v.status ≠ .free ∧ (voiced v).ctrl.getLsbD 0 = true ∧
    (withCtl [(2, 0)] (voiced v)).ctrl.getLsbD 0 = false ∧ v.menv.inc.toInt ≠ 0 ∧
    ¬(v.menv.target.toInt ≤ clamp 0 0x3FFFFFFF (v.menv.value.toInt + v.menv.inc.toInt)) ∧
    (1 : Int) ≤ clamp 0 0x3FFFFFFF (v.menv.value.toInt + v.menv.inc.toInt) ∧
    (modulationReached v 0 0).stage = 3 ∧ (modulationReached v 1 0).stage = 1 ∧
    (modulationReached { v with status := .off } 0 0).stage = 6 := by decide +kernel

theorem witness_MixSmoothResult :
    ((voiced (sounding 0 0)).voices[0]? = some (sounding 0 0) ∧ (sounding 0 0).status ≠ .free) ∧
    (1 : Int) ≤ 1 ∧ (-1 : Int) ≠ 0 ∧ (0 : Int) ≤ 0 ∧ (0 : Int) < (if (1 : Int) < ((-1 : Int).natAbs : Int) then 1 else 1) ∧
    (smoothRamp (-3) 2).2 + 1 * (smoothRamp (-3) 2).1 = 0 := by decide +kernel

theorem witness_PreAttackDelayWaits :
    (let v := { sounding 0 0 with status := VoiceStatus.die }
     (voiced v).voices[0]? = some v ∧ v.status ≠ .free ∧ (voiced v).reg 2 = 0) ∧
    (let v := { sounding 0 0 with delay := 2 }
     (voiced v).voices[0]? = some v ∧ v.status ≠ .free ∧ v.status ≠ .die ∧ (withRegs [(2, 1)] (voiced v)).reg 2 ≠ 0 ∧
      ((withRegs [(2, 1)] (voiced v)).reg 2).toNat < v.delay.toNat) := by decide +kernel

/-- Two frames after a delay of one, with pan delay, up to the last word of the source; a delay that covers the command
exactly; V2.8.6, a frame that saturates before one that halts; and the last plain frame but one of the output. -/
theorem witness_MixStaticResult :
    (let v := { sounding 0 0 with
       srcBase := 4094, delay := 1, pdly := { base := 4000, len := 2, wpt := 1, rpt := 0 } }
     let s := withRegs [(2, 3)] (withCtl [(2, 2)] (voiced v))
     s.voices[0]? = some v ∧ v.status ≠ .free ∧ v.status ≠ .die ∧ v.ctrl.getLsbD 6 = false ∧ s.reg 2 ≠ 0 ∧
      s.sramWords ≤ 2 ^ 24 ∧ v.delay.toNat ≤ (s.reg 2).toNat ∧ panDelayed s v = true ∧ mixInRange s v 1 2 = true) ∧
    (let v := { sounding 0 0 with delay := 1 }
     (withRegs [(2, 1)] (voiced v)).reg 2 ≠ 0 ∧ ((withRegs [(2, 1)] (voiced v)).reg 2).toNat - v.delay.toNat = 0) ∧
    (let v := { sounding 0 0 with ctrl := 4, srcBase := 4095, mix := { Voice.reset.mix with leftMix := 65536 } }
     let s := withMem 0x200 [0, 0] (withMem 4095 [65536] (withRegs [(2, 2)] (withCtl [(8, 0x200)] (voiced v))))
     let x := staticFrames s 2 0 (mixingOf s v)
     s.voices[0]? = some v ∧ v.ctrl.getLsbD 6 = false ∧ x.words.find? (fun a => s.sramWords ≤ a) = some 4096 ∧
      fitAll x.checks = false ∧ x.ram 0x200 = 0x7FFFFFFF ∧ x.voice.srcBase = 4096 ∧
      (let t := after (.mixv 3 1 2 0) s
       mem [0x200] t ++ ctl [1, 0xE, 0x10, 0x1004] t = [0x7FFFFFFF, 17, 1, 4096, 4096])) ∧
    (let v := { sounding 0 0 with srcBase := 4095 }
     let s := { withRegs [(1, 1), (2, 1)] (voiced v) with outBase := 4091 }
     s.voices[0]? = some v ∧ v.status ≠ .free ∧ v.status ≠ .die ∧ s.reg 2 = 1 ∧ v.delay = 0 ∧
      v.ctrl.getLsbD 6 = false ∧ v.ctrl.toNat / 2 ^ 4 % 4 = 0 ∧ v.sendRev = 0 ∧ v.sendCho = 0 ∧ v.sendDly = 0 ∧
      ¬(v.ctrl.toNat / 2 % 4 = 0 ∧ s.ctrl.getLsbD 1 = true ∧ 0 < v.pdly.len.toInt) ∧ s.sramWords ≤ 2 ^ 24 ∧
      v.srcBase.toNat < s.sramWords ∧ framesOk s.sramWords s.outBase (s.reg 1).toNat 1 = true) := by decide +kernel

/-- A voice of the signal routine that runs two control updates, and one that the first update frees. -/
theorem witness_MixSignalResult :
    (let v := { sounding 0 0 with ctrl := 0x40, srcBase := 4092, cc := 1 }
     let s := withTab 0 5 (withRegs [(2, 4)] (withCtl [(4, 2)] (voiced v)))
     s.voices[0]? = some v ∧ v.status ≠ .free ∧ v.status ≠ .die ∧ v.ctrl.getLsbD 6 = true ∧ s.reg 2 ≠ 0 ∧
      s.sramWords ≤ 2 ^ 24 ∧ s.controlRatio ≠ 0 ∧ v.delay.toNat ≤ (s.reg 2).toNat ∧ mixInRange s v 0 4 = true ∧
      (let t := withMem 4092 [0, 0, 0, 0] (withMem 0 [0, 0, 0, 0, 0, 0, 0, 0] s)
       (signalFrames t 4 0 0 (mixingOf t v)).voice.cc = 1 ∧ (signalFrames t 4 0 0 (mixingOf t v)).voice.mix.amp = 5)) ∧
    (let v := { sounding 0 0 with ctrl := 0x40, status := VoiceStatus.off }
     (signalFrames (withTab 0 0 (voiced v)) 4 0 0 (mixingOf (withTab 0 0 (voiced v)) v)).voice.status = .free) := by
  decide +kernel

/-- A die ramp in full stereo with pan delay, and one that halts before the voice is freed. -/
theorem witness_DieRampResult :
    (let v := { sounding 0 0 with
      status := VoiceStatus.die, srcBase := 4092, pdly := { base := 4000, len := 2, wpt := 1, rpt := 0 } }
     let s := withRegs [(2, 9)] (withCtl [(2, 2), (7, 4)] (voiced v))
     s.voices[0]? = some v ∧ v.status = .die ∧ s.reg 2 ≠ 0 ∧ s.sramWords ≤ 2 ^ 24 ∧ panDelayed s v = true ∧
      mixInRange s v 0 (min (s.reg 2).toNat s.maxDieTime.toNat) = true) ∧
    (let v := { sounding 0 0 with status := VoiceStatus.die, srcBase := 4096 }
     let s := withRegs [(2, 1)] (voiced v)
     s.voices[0]? = some v ∧ s.reg 2 ≠ 0 ∧ s.sramWords ≤ 2 ^ 24 ∧ (died s 1 0 (mixingOf s v)).words = [4096] ∧
      (died s 1 0 (mixingOf s v)).voice = v) := by decide +kernel

theorem witness_MixCompletes :
    let v := { sounding 0 0 with srcBase := 4092, sendRev := 1, sendCho := 1, sendDly := 1 }
    let w := { v with status := VoiceStatus.die }
    (let s := withRegs [(2, 4)] (voiced v)
     s.voices[0]? = some v ∧ v.status ≠ .free ∧ s.reg 2 ≠ 0 ∧ s.sramWords ≤ 2 ^ 24 ∧
      mixInRange s v (s.reg 1).toNat (s.reg 2).toNat = true) ∧
    (let s := withRegs [(2, 4)] (voiced w)
     s.voices[0]? = some w ∧ w.status = .die ∧ mixInRange s w (s.reg 1).toNat (s.reg 2).toNat = true) := by
  decide +kernel

theorem witness_EffectFreedOrNotBuilt :
    tiny.slots[0]? = some Slot.reset ∧ hasEngine Slot.reset = false ∧
    (∀ x ∈ (withCtl [(0x812, 0x8000)] chorused).slots, hasEngine x = true ∧ engineValid x = false) ∧
    (withCtl [(0x812, 0x8000)] chorused).slots[0]?.isSome = true := by decide +kernel

/-- A slot of the type and parameters given, its region at the start of sample RAM, at one frame a second. -/
def typed (ty : Int) (params : List (Nat × Int)) : State :=
  withCtl ([(3, 1), (8, 0x800), (0xA, 0xA00), (0x800, ty), (0x804, 4096)] ++ params) tiny

/-- The smallest Freeverb, plate, stereo chorus and hexa chorus. -/
def engines : List State :=
  [typed 1 [(0x817, 1)], typed 2 [(0x81A, 1)], typed 3 [(0x812, 65536), (0x814, 1)],
    typed 4 [(0x812, 65536), (0x814, 1)]]

theorem witness_EffectBuilt :
    (∀ s ∈ engines, s.slots[0]?.isSome = true ∧ s.sramWords ≤ 2 ^ 24 ∧ ∀ x ∈ s.slots, hasEngine x = true ∧
      engineValid x = true ∧ slotAllocates s x (engineLengths s.sampleRate.toNat x) = true) ∧
    engines.map (fun s => s.slots.map (·.fxType)) = [[1], [2], [3], [4]] ∧
    ∀ x ∈ (withCtl [(0x804, 34)] chorused).slots, hasEngine x = true ∧ engineValid x = true ∧
      slotAllocates chorused x (engineLengths chorused.sampleRate.toNat x) = true := by decide +kernel

theorem witness_AllocationFailureHalts :
    tiny.delays[0]? = some DelayUnit.reset ∧
    (let s := withRegs [(1, 4096), (2, 1)] tiny
     ¬(1 ≤ (s.reg 2).toNat ∧ (s.reg 2).toNat ≤ 2 ^ 24 ∧ (s.reg 1).toNat + (s.reg 2).toNat ≤ s.sramWords)) ∧
    (withCtl [(0x804, 33)] chorused).slots[0]?.isSome = true ∧ ∀ x ∈ (withCtl [(0x804, 33)] chorused).slots,
      hasEngine x = true ∧ engineValid x = true ∧ x.record = .empty ∧
      slotAllocates chorused x (engineLengths chorused.sampleRate.toNat x) = false := by decide +kernel

theorem witness_EngineBuildRules :
    (let p := ((Vector.replicate 32 0 : FxParams).set 7 65536).set 8 23
     paramU p 7 = 65536 ∧ paramU p 8 = 23) ∧
    (let p := (Vector.replicate 32 0 : FxParams).set 11 1048576
     paramU p 9 = 0 ∧ paramU p 11 = 1048576) ∧
    ∀ s ∈ engines, ∀ x ∈ s.slots, x.fxType = 1 ∨ x.fxType = 2 ∨ x.fxType = 3 ∨ x.fxType = 4 := by decide +kernel

theorem witness_PassThroughResults :
    (let s := withCtl [(0x802, 3)] tiny
     (∀ x ∈ s.slots, hasEngine x = false ∧ x.bus = .insert) ∧ s.slots[0]?.isSome = true) ∧
    (let s := withRegs [(1, 0), (2, 1)] (withCtl [(8, 4094), (0xA, 4092)] tiny)
     s.slots[0]? = some Slot.reset ∧ hasEngine Slot.reset = false ∧ Slot.reset.bus ≠ .insert ∧ s.reg 2 = 1 ∧
      s.sramWords ≤ 2 ^ 24 ∧ (inputBase s Slot.reset.bus).toNat + 2 ≤ s.sramWords ∧ s.outBase.toNat + 2 ≤ s.sramWords ∧
      (inputBase s Slot.reset.bus).toNat + 2 ≤ s.outBase.toNat ∧
      inputBase s .chorus = 0 ∧ inputBase s .insert = 4094) ∧
    (let s := withRegs [(1, 1), (2, 3)] (withCtl [(8, 4088), (0xA, 4080)] tiny)
     s.slots[0]? = some Slot.reset ∧ hasEngine Slot.reset = false ∧ Slot.reset.bus ≠ .insert ∧
      s.sramWords ≤ 2 ^ 24 ∧ framesOk s.sramWords (inputBase s Slot.reset.bus) (s.reg 1).toNat (s.reg 2).toNat = true ∧
      framesOk s.sramWords s.outBase (s.reg 1).toNat (s.reg 2).toNat = true) ∧
    (let s := withMem 4095 [1] (withMem 0x300 [5, 7] (withRegs [(2, 1)] (withCtl [(8, 4095), (0xA, 0x300)] tiny)))
     let m := passedSteps s .reverb 1 0 (sceneOf s)
     m.words = [0x300, 0x301, 4095, 4096] ∧ m.ram 4095 = 6 ∧ m.ram 0x300 = 5 ∧
      mem [4095, 0x300] (after (.fxproc 1 2 0) s) = [6, 5]) := by decide +kernel

theorem witness_EffectProcessingCompletes :
    (let s := withRegs [(2, 3)] plain
     s.slots[0]?.isSome = true ∧ s.sramWords ≤ 2 ^ 24 ∧ ∀ x ∈ s.slots, slotRunnable s x = true ∧
      framesOk s.sramWords (inputBase s x.bus) (s.reg 1).toNat (s.reg 2).toNat = true ∧
      framesOk s.sramWords s.outBase (s.reg 1).toNat (s.reg 2).toNat = true) ∧
    (∀ x ∈ plain.slots, needsInit x = true) ∧ answers (exec (.fxinit 0) plain) (fun t => !t.fatal) = true := by
  decide +kernel

/-- A slot that holds an engine's record, with two frames of the bus and of the output inside sample RAM. -/
def processes (s : State) (kind : FxRecord → Bool) : Bool :=
  let t := withRegs [(2, 2)] (after (.fxinit 0) s)
  t.slots.length == 1 && t.slots.all fun x => kind x.record && hasEngine x && slotRunnable t x &&
    decide (t.sramWords ≤ 2 ^ 24) && framesOk t.sramWords (inputBase t x.bus) (t.reg 1).toNat (t.reg 2).toNat &&
    framesOk t.sramWords t.outBase (t.reg 1).toNat (t.reg 2).toNat

theorem witness_FreeverbFrames : processes (typed 1 [(0x817, 1)]) (fun r => match r with
    | .freeverb _ => true
    | _ => false) = true := by decide +kernel

theorem witness_PlateFrames : processes (typed 2 [(0x81A, 1)]) (fun r => match r with
    | .plate _ => true
    | _ => false) = true := by decide +kernel

theorem witness_ChorusFrames :
    processes (typed 3 [(0x812, 65536), (0x814, 1)]) (fun r => match r with
      | .chorus q => decide (65536 ≤ q.params[2].toNat ∧ q.params[2].toNat + q.params[3].toNat < 2 ^ 32 ∧
          q.c < q.params[4].toNat ∧ q.xl.len.toNat = (q.params[2].toNat + q.params[3].toNat) / 2 ^ 16 + 2 ∧
          q.xr.len.toNat = (q.params[2].toNat + q.params[3].toNat) / 2 ^ 16 + 2)
      | _ => false) = true ∧
    processes (typed 4 [(0x812, 65536), (0x814, 1)]) (fun r => match r with
      | .hexa _ => true
      | _ => false) = true ∧
    SineUnipolar (silent (after (.fxinit 0) (typed 3 [(0x812, 65536), (0x814, 1)]))) :=
  ⟨by decide +kernel, by decide +kernel, silent_sine _⟩

theorem witness_BusClearResult :
    (let s := withRegs [(1, 0), (2, 1)] (withCtl [(8, 4094), (0xA, 4094), (0xB, 4094), (0xC, 4094)] tiny)
     s.sramWords ≤ 2 ^ 24 ∧ ∀ c ∈ [(0, s.busRevBase), (1, s.busChoBase), (2, s.busDlyBase), (3, s.outBase)].filter
       (fun c => Nat.testBit 15 c.1), framesOk s.sramWords c.2 (s.reg 1).toNat (s.reg 2).toInt.toNat = true) ∧
    (let s := withRegs [(1, 0), (2, -1)] (withCtl [(8, 4096)] tiny)
     framesOk s.sramWords s.outBase (s.reg 1).toNat (s.reg 2).toInt.toNat = true) := by decide +kernel

end Sys2Proof.Tests
end

section
/-! Moves and fixed-point arithmetic (40_fixedpoint.md): what the decoder makes of their words, what each command does
to the state, and the obligations about them. -/

namespace Sys2Proof.Proofs

open Sys2Proof.Machine Sys2Proof.Claims

/-! ### Decoding -/

/-- R260, R261, R264, R267, R268 with R206 and R211: the opcode alone selects the command. -/
theorem encodes_moveAndAdd :
    encodes 0x00 (fun _ => .nop) ∧ encodes 0x01 (fun w => .lui (fieldRd w) (fieldImm22 w)) ∧
    encodes 0x02 (fun w => .ori (fieldRd w) (fieldRs1 w) (fieldImm w)) ∧
    encodes 0x03 (fun w => .adds (fieldRd w) (fieldRs1 w) (fieldRs2 w)) ∧
    encodes 0x04 (fun w => .subs (fieldRd w) (fieldRs1 w) (fieldRs2 w)) := by
  refine ⟨?_, ?_, ?_, ?_, ?_⟩ <;> (intro w hop; simp only [decode, hop])

/-- R270 to R273 with R206 and R211. -/
theorem encodes_multiply :
    encodes 0x10 (fun w => .fmul8 (fieldRd w) (fieldRs1 w) (fieldRs2 w)) ∧
    encodes 0x11 (fun w => .fmul16 (fieldRd w) (fieldRs1 w) (fieldRs2 w)) ∧
    encodes 0x12 (fun w => .fmul24 (fieldRd w) (fieldRs1 w) (fieldRs2 w)) ∧
    encodes 0x13 (fun w => .fmul28 (fieldRd w) (fieldRs1 w) (fieldRs2 w)) := by
  refine ⟨?_, ?_, ?_, ?_⟩ <;> (intro w hop; simp only [decode, hop])

/-- R280 to R283 with R206 and R211. -/
theorem encodes_divide :
    encodes 0x14 (fun w => .fdiv8 (fieldRd w) (fieldRs1 w) (fieldRs2 w)) ∧
    encodes 0x15 (fun w => .fdiv16 (fieldRd w) (fieldRs1 w) (fieldRs2 w)) ∧
    encodes 0x16 (fun w => .fdiv24 (fieldRd w) (fieldRs1 w) (fieldRs2 w)) ∧
    encodes 0x17 (fun w => .fdiv28 (fieldRd w) (fieldRs1 w) (fieldRs2 w)) := by
  refine ⟨?_, ?_, ?_, ?_⟩ <;> (intro w hop; simp only [decode, hop])

/-! ### The shape of an arithmetic command -/

section Arithmetic

variable {op : Int → Int → Cmd Int} {rd rs1 rs2 : Nat} {s t : State} {v : Int}

/-- An arithmetic command stores what its operation answers and completes in the state the operation leaves. -/
theorem runCmd_arithmetic (h : op (s.reg rs1).toInt (s.reg rs2).toInt s = .ok v t) :
    runCmd (arithmetic op rd rs1 rs2) s = .next (completeCommand (t.withReg rd (wordOf v))) := by
  apply runCmd_of_ok
  unfold arithmetic
  rw [bind_of_ok (readRegS_run _ _), bind_of_ok (readRegS_run _ _), bind_of_ok h, writeReg_run]

/-- An operation that narrows one exact number `v` makes its command store the narrowed number, set SAT if `v` did
not fit and change nothing else but CMD_SEQ. -/
theorem runCmd_arithmetic_narrowed
    (h : op (s.reg rs1).toInt (s.reg rs2).toInt s = .ok (narrow v) (s.narrowed [v])) :
    runCmd (arithmetic op rd rs1 rs2) s = .next { s with
      regs := s.regs.setIfInBounds rd (BitVec.ofInt 32 (narrow v)),
      status := satIf [v] s.status, cmdSeq := s.cmdSeq + 1 } :=
  runCmd_arithmetic h

end Arithmetic

/-! ### Moves -/

/-- R204: the 22-bit immediate fills the upper bits of the register. -/
theorem ofNat_mul_eq_shiftLeft (imm : Nat) : BitVec.ofNat 32 (imm * 2 ^ 10) = BitVec.ofNat 32 imm <<< 10 := by
  apply BitVec.eq_of_toNat_eq
  rw [BitVec.toNat_shiftLeft, BitVec.toNat_ofNat, BitVec.toNat_ofNat, Nat.shiftLeft_eq, Nat.mod_mul_mod]

theorem exec_nop (s : State) : exec .nop s = .next { s with cmdSeq := s.cmdSeq + 1 } :=
  runCmd_of_ok (pure_run () s)

theorem exec_lui (rd imm : Nat) (s : State) : exec (.lui rd imm) s = .next { s with
    regs := s.regs.setIfInBounds rd (BitVec.ofNat 32 imm <<< 10), cmdSeq := s.cmdSeq + 1 } := by
  rw [← ofNat_mul_eq_shiftLeft]
  exact runCmd_of_ok (writeReg_run rd _ s)

theorem exec_ori (rd rs1 imm : Nat) (s : State) : exec (.ori rd rs1 imm) s = .next { s with
    regs := s.regs.setIfInBounds rd (s.reg rs1 ||| BitVec.ofNat 32 imm), cmdSeq := s.cmdSeq + 1 } := by
  have body : (do writeReg rd ((← readReg rs1) ||| BitVec.ofNat 32 imm) : Cmd Unit) s =
      .ok () (s.withReg rd (s.reg rs1 ||| BitVec.ofNat 32 imm)) := by
    rw [bind_of_ok (readReg_run rs1 s), writeReg_run]
  exact runCmd_of_ok body

/-! ### Division -/

theorem fdiv_ok_of_ne_zero (q : Nat) (a : Int) {b : Int} (hb : b ≠ 0) (s : State) :
    fdiv q a b s = .ok (narrow (Int.tdiv (a * 2 ^ q) b)) (s.narrowed [Int.tdiv (a * 2 ^ q) b]) := by
  rw [fdiv_run, if_neg hb, narrow_eq, afterSat_eq]
  rfl

theorem fdiv_ok_of_eq_zero (q : Nat) (a : Int) {b : Int} (hb : b = 0) (s : State) :
    fdiv q a b s = .ok (divZeroValue a) (s.withFlag .dz) := by
  rw [fdiv_run, if_pos hb]

/-- A division command at any scaling (R253, R258). -/
theorem runCmd_arithmetic_fdiv (q rd rs1 rs2 : Nat) (s : State) :
    let a := (s.reg rs1).toInt
    let b := (s.reg rs2).toInt
    let quotient := Int.tdiv (a * 2 ^ q) b
    runCmd (arithmetic (fdiv q) rd rs1 rs2) s = .next { s with
      regs := s.regs.setIfInBounds rd (BitVec.ofInt 32 (if b = 0 then divZeroValue a else narrow quotient)),
      status := if b = 0 then s.status ||| 2 else satIf [quotient] s.status, cmdSeq := s.cmdSeq + 1 } := by
  intro a b quotient
  by_cases hb : b = 0
  · rw [if_pos hb, if_pos hb]
    exact runCmd_arithmetic (fdiv_ok_of_eq_zero q a hb s)
  · rw [if_neg hb, if_neg hb]
    exact runCmd_arithmetic_narrowed (fdiv_ok_of_ne_zero q a hb s)

/-! ### The obligations -/

/-- Settles O17: the words by the decoder's equations, the moves each by its own equation, ADDS and SUBS as
arithmetic commands that narrow the exact sum and difference. -/
theorem moveAndAddResults : Obligations.MoveAndAddResults := by
  obtain ⟨hnop, hlui, hori, hadds, hsubs⟩ := encodes_moveAndAdd
  refine ⟨hnop, hlui, hori, hadds, hsubs, ?moves, ?sums⟩
  case moves => exact fun s rd rs1 imm => ⟨exec_nop s, exec_lui rd imm s, exec_ori rd rs1 imm s⟩
  case sums =>
    exact fun s rd rs1 rs2 =>
      ⟨runCmd_arithmetic_narrowed (adds_ok _ _ s), runCmd_arithmetic_narrowed (subs_ok _ _ s)⟩

/-- Settles O18: each scaling is an arithmetic command that narrows the floor of the exact product. -/
theorem multiplyResults : Obligations.MultiplyResults := by
  obtain ⟨h8, h16, h24, h28⟩ := encodes_multiply
  refine ⟨h8, h16, h24, h28, fun s rd rs1 rs2 => ?_⟩
  have product (q : Nat) := runCmd_arithmetic_narrowed (rd := rd)
    (fmul_ok q (s.reg rs1).toInt (s.reg rs2).toInt s)
  exact ⟨product 8, product 16, product 24, product 28⟩

/-- Settles O19: each scaling is the division command, whose divisor is 0 or not. -/
theorem divideResults : Obligations.DivideResults := by
  obtain ⟨h8, h16, h24, h28⟩ := encodes_divide
  refine ⟨h8, h16, h24, h28, fun s rd rs1 rs2 => ?_⟩
  have quotient (q : Nat) := runCmd_arithmetic_fdiv q rd rs1 rs2 s
  exact ⟨quotient 8, quotient 16, quotient 24, quotient 28⟩

end Sys2Proof.Proofs
end

section
/-! Delay lines (41_delayline.md): the commands on a unit that is not configured, and the prime line length of the
reverbs. -/

namespace Sys2Proof.Proofs

open Sys2Proof.Machine Sys2Proof.Claims

/-! ### Commands on an unconfigured unit -/

/-- R352: whatever a command does on a configured unit, elsewhere it completes with RANGE set. -/
theorem runCmd_withDelay_unconfigured {s : State} {u : Nat}
    (h : ∀ d, s.delays[u]? = some d → d.valid = false) (body : DelayUnit → Cmd Unit) :
    runCmd (withDelay u body) s = .next { s with status := s.status ||| 4, cmdSeq := s.cmdSeq + 1 } :=
  runCmd_of_ok (withDelay_unconfigured h)

/-- Settles O29: each of the five commands is a body run through `withDelay`. -/
theorem unconfiguredDelaySetsRange : Obligations.UnconfiguredDelaySetsRange := by
  intro s rd rs1 rs2 u h
  have range := runCmd_withDelay_unconfigured h
  exact ⟨range _, range _, range _, range _, range _⟩

/-! ### Prime line lengths -/

/-- Trial division finds a divisor exactly if there is one from `d` on up to the square root, given fuel enough to
reach the square root. -/
theorem hasDivisorFrom_iff {fuel d n : Nat} (enough : n < (d + fuel) * (d + fuel)) :
    hasDivisorFrom fuel d n = true ↔ ∃ m, d ≤ m ∧ m * m ≤ n ∧ m ∣ n := by
  induction fuel generalizing d with
  | zero =>
    have past : ∀ m, d ≤ m → n < m * m := fun m hm => enough.trans_le (Nat.mul_le_mul hm hm)
    simp only [hasDivisorFrom, Bool.false_eq_true, false_iff]
    rintro ⟨m, hdm, hmn, -⟩
    exact absurd (past m hdm) (by omega)
  | succ fuel ih =>
    unfold hasDivisorFrom
    split_ifs with past divides
    · simp only [false_iff]
      rintro ⟨m, hdm, hmn, -⟩
      exact absurd (Nat.mul_le_mul hdm hdm) (by omega)
    · exact ⟨fun _ => ⟨d, le_rfl, by omega, Nat.dvd_of_mod_eq_zero divides⟩, fun _ => rfl⟩
    · rw [ih (by rwa [Nat.add_right_comm, Nat.add_assoc])]
      constructor
      · rintro ⟨m, hdm, hm⟩
        exact ⟨m, by omega, hm⟩
      · rintro ⟨m, hdm, hmn, hm⟩
        have hne : m ≠ d := by
          rintro rfl
          exact divides (Nat.mod_eq_zero_of_dvd hm)
        exact ⟨m, by omega, hmn, hm⟩

theorem isPrime_iff (n : Nat) : isPrime n = true ↔ Nat.Prime n := by
  have enough : n < (2 + n) * (2 + n) := by nlinarith
  have divisor := hasDivisorFrom_iff enough
  rw [Nat.prime_def_le_sqrt, isPrime, Bool.and_eq_true, decide_eq_true_eq, Bool.not_eq_true',
    ← Bool.not_eq_true, divisor]
  simp only [Nat.le_sqrt, not_exists, not_and]

theorem le_firstPrimeFrom (fuel n : Nat) : n ≤ firstPrimeFrom fuel n := by
  induction fuel generalizing n with
  | zero => exact le_rfl
  | succ fuel ih =>
    unfold firstPrimeFrom
    split_ifs
    · exact le_rfl
    · exact (Nat.le_succ n).trans (ih (n + 1))

/-- A prime that is not `n` itself lies after `n`: the step of the search over a composite `n`. -/
theorem succ_le_of_prime_of_not_isPrime {n p : Nat} (hp : Nat.Prime p) (hnp : n ≤ p) (hn : ¬ isPrime n = true) :
    n + 1 ≤ p := by
  have hne : n ≠ p := by
    rintro rfl
    exact hn ((isPrime_iff n).2 hp)
  omega

/-- The search never passes a prime, with whatever fuel. -/
theorem firstPrimeFrom_le {fuel n p : Nat} (hp : Nat.Prime p) (hnp : n ≤ p) : firstPrimeFrom fuel n ≤ p := by
  induction fuel generalizing n with
  | zero => exact hnp
  | succ fuel ih =>
    unfold firstPrimeFrom
    split_ifs with hn
    · exact hnp
    · exact ih (succ_le_of_prime_of_not_isPrime hp hnp hn)

/-- The search answers a prime if its fuel reaches one. -/
theorem firstPrimeFrom_prime {fuel n p : Nat} (hp : Nat.Prime p) (hnp : n ≤ p) (reach : p ≤ n + fuel) :
    Nat.Prime (firstPrimeFrom fuel n) := by
  induction fuel generalizing n with
  | zero =>
    obtain rfl : n = p := by omega
    exact hp
  | succ fuel ih =>
    unfold firstPrimeFrom
    split_ifs with hn
    · exact (isPrime_iff n).1 hn
    · exact ih (succ_le_of_prime_of_not_isPrime hp hnp hn) (by omega)

/-- R357: Bertrand's postulate puts a prime within the fuel of the search. -/
theorem nextPrimeGe_prime (n : Nat) : Nat.Prime (nextPrimeGe n) := by
  obtain ⟨p, hp, hlt, hle⟩ := Nat.exists_prime_lt_and_le_two_mul (max n 2) (by omega)
  exact firstPrimeFrom_prime hp hlt.le (by omega)

/-- Settles O35: the search from `max n 2` answers a prime, starts at `max n 2` and passes no prime. -/
theorem nextPrimeIsSmallest : Obligations.NextPrimeIsSmallest :=
  fun n => ⟨nextPrimeGe_prime n, le_firstPrimeFrom _ _, fun _ hp hle => firstPrimeFrom_le hp hle⟩

end Sys2Proof.Proofs
end

section
/-! Command words (30_encoding.md): the fields of a masked word, and the obligations about the encoder and the decoder. -/

namespace Sys2Proof.Proofs

open Sys2Proof.Machine Sys2Proof.Claims

/-! ### The fields of a masked word -/

/-- A bit field of a masked word is the masked field. -/
theorem and_div_mod_two_pow (a b k j : Nat) :
    (a &&& b) / 2 ^ k % 2 ^ j = (a / 2 ^ k % 2 ^ j) &&& (b / 2 ^ k % 2 ^ j) := by
  rw [← Nat.shiftRight_eq_div_pow, ← Nat.shiftRight_eq_div_pow, ← Nat.shiftRight_eq_div_pow,
    Nat.shiftRight_and_distrib, Nat.and_mod_two_pow]

theorem fieldOp_and (w m : Word) : fieldOp (w &&& m) = fieldOp w &&& fieldOp m := by
  unfold fieldOp
  rw [BitVec.toNat_and, ← Nat.shiftRight_eq_div_pow, ← Nat.shiftRight_eq_div_pow, ← Nat.shiftRight_eq_div_pow,
    Nat.shiftRight_and_distrib]

theorem fieldRd_and (w m : Word) : fieldRd (w &&& m) = fieldRd w &&& fieldRd m := by
  unfold fieldRd
  rw [BitVec.toNat_and]
  exact and_div_mod_two_pow _ _ 22 4

theorem fieldRs1_and (w m : Word) : fieldRs1 (w &&& m) = fieldRs1 w &&& fieldRs1 m := by
  unfold fieldRs1
  rw [BitVec.toNat_and]
  exact and_div_mod_two_pow _ _ 18 4

theorem fieldRs2_and (w m : Word) : fieldRs2 (w &&& m) = fieldRs2 w &&& fieldRs2 m := by
  unfold fieldRs2
  rw [BitVec.toNat_and]
  exact and_div_mod_two_pow _ _ 14 4

theorem fieldImm_and (w m : Word) : fieldImm (w &&& m) = fieldImm w &&& fieldImm m := by
  unfold fieldImm
  rw [BitVec.toNat_and, Nat.and_mod_two_pow]

theorem fieldOp_and_full (w : Word) : fieldOp w &&& 63 = fieldOp w :=
  Nat.and_two_pow_sub_one_of_lt_two_pow (n := 6) (word_fields w).1

theorem fieldRd_and_full (w : Word) : fieldRd w &&& 15 = fieldRd w :=
  Nat.and_two_pow_sub_one_of_lt_two_pow (n := 4) (word_fields w).2.1

theorem fieldRs1_and_full (w : Word) : fieldRs1 w &&& 15 = fieldRs1 w :=
  Nat.and_two_pow_sub_one_of_lt_two_pow (n := 4) (word_fields w).2.2.1

theorem fieldRs2_and_full (w : Word) : fieldRs2 w &&& 15 = fieldRs2 w :=
  Nat.and_two_pow_sub_one_of_lt_two_pow (n := 4) (word_fields w).2.2.2.1

theorem fieldImm_and_full (w : Word) : fieldImm w &&& 16383 = fieldImm w :=
  Nat.and_two_pow_sub_one_of_lt_two_pow (n := 14) (word_fields w).2.2.2.2.1

/-- The low 22 bits are the three fields of format R that stand there (30_encoding.md R201, R202). -/
theorem fieldImm22_eq (w : Word) :
    fieldImm22 w = fieldRs1 w * 2 ^ 18 + fieldRs2 w * 2 ^ 14 + fieldImm w := by
  have h := word_fields w
  omega

theorem fieldOp_ofNat (n : Nat) : fieldOp (BitVec.ofNat 32 n) = n % 2 ^ 32 / 2 ^ 26 := by
  rw [fieldOp, BitVec.toNat_ofNat]
theorem fieldRd_ofNat (n : Nat) : fieldRd (BitVec.ofNat 32 n) = n % 2 ^ 32 / 2 ^ 22 % 16 := by
  rw [fieldRd, BitVec.toNat_ofNat]
theorem fieldRs1_ofNat (n : Nat) : fieldRs1 (BitVec.ofNat 32 n) = n % 2 ^ 32 / 2 ^ 18 % 16 := by
  rw [fieldRs1, BitVec.toNat_ofNat]
theorem fieldRs2_ofNat (n : Nat) : fieldRs2 (BitVec.ofNat 32 n) = n % 2 ^ 32 / 2 ^ 14 % 16 := by
  rw [fieldRs2, BitVec.toNat_ofNat]
theorem fieldImm_ofNat (n : Nat) : fieldImm (BitVec.ofNat 32 n) = n % 2 ^ 32 % 2 ^ 14 := by
  rw [fieldImm, BitVec.toNat_ofNat]

/-- Two words that agree under a mask agree on their fields under the mask's fields. -/
theorem fields_of_and_eq {w w' m : Word} (h : w' &&& m = w &&& m) :
    fieldOp w' &&& fieldOp m = fieldOp w &&& fieldOp m ∧ fieldRd w' &&& fieldRd m = fieldRd w &&& fieldRd m ∧
      fieldRs1 w' &&& fieldRs1 m = fieldRs1 w &&& fieldRs1 m ∧ fieldRs2 w' &&& fieldRs2 m = fieldRs2 w &&& fieldRs2 m ∧
      fieldImm w' &&& fieldImm m = fieldImm w &&& fieldImm m := by
  simp only [← fieldOp_and, ← fieldRd_and, ← fieldRs1_and, ← fieldRs2_and, ← fieldImm_and, h, and_self]

/-- A word is the word of format R over its fields (30_encoding.md R201). -/
theorem eq_encodeR (w : Word) : w = encodeR (fieldOp w) (fieldRd w) (fieldRs1 w) (fieldRs2 w) (fieldImm w) := by
  obtain ⟨hop, hrd, hrs1, hrs2, himm, -, hsum, -⟩ := word_fields w
  apply BitVec.eq_of_toNat_eq
  rw [encodeR_toNat hop hrd hrs1 hrs2 himm, hsum]

/-- A masked word is the word of format R over the masked fields. -/
theorem and_eq_encodeR (w m : Word) : w &&& m = encodeR (fieldOp w &&& fieldOp m) (fieldRd w &&& fieldRd m)
    (fieldRs1 w &&& fieldRs1 m) (fieldRs2 w &&& fieldRs2 m) (fieldImm w &&& fieldImm m) := by
  rw [← fieldOp_and, ← fieldRd_and, ← fieldRs1_and, ← fieldRs2_and, ← fieldImm_and]
  exact eq_encodeR _

/-- Format U is format R with the low 22 bits cut into the fields of format R. -/
theorem encodeU_eq (op rd imm22 : Nat) :
    encodeU op rd imm22 = encodeR op rd (imm22 / 2 ^ 18) (imm22 / 2 ^ 14 % 16) (imm22 % 2 ^ 14) := by
  unfold encodeU encodeR
  refine congrArg (BitVec.ofNat 32) ?_
  omega

/-! ### The obligations -/

/-- LUI is the one command of format U (30_encoding.md R202). -/
theorem decode_encodeU_lui {rd imm22 : Nat} (hrd : rd < 16) (himm : imm22 < 2 ^ 22) :
    decode (encodeU 0x01 rd imm22) = .ok (.lui rd imm22) := by
  have h1 : imm22 / 2 ^ 18 < 16 := by omega
  have h2 : imm22 / 2 ^ 14 % 16 < 16 := by omega
  have h3 : imm22 % 2 ^ 14 < 2 ^ 14 := by omega
  have low : imm22 / 2 ^ 18 * 2 ^ 18 + imm22 / 2 ^ 14 % 16 * 2 ^ 14 + imm22 % 2 ^ 14 = imm22 := by omega
  rw [encodeU_eq]
  simp (disch := first | assumption | decide) only [decode, fieldImm22_eq, fieldOp_encodeR, fieldRd_encodeR,
    fieldRs1_encodeR, fieldRs2_encodeR, fieldImm_encodeR, low]

/-- Settles O1: the fields of an encoded word are those it was encoded from, and the opcode selects the command. -/
theorem decodeOfEncode : Obligations.DecodeOfEncode := by
  intro i h
  cases i <;> simp only [Instr.wf, regOk, immOk, imm22Ok, Bool.and_eq_true, decide_eq_true_eq] at h
  case lui => exact decode_encodeU_lui h.1 h.2
  all_goals
    simp (disch := omega) only [encode, decode, fieldOp_encodeR, fieldRd_encodeR, fieldRs1_encodeR, fieldRs2_encodeR,
      fieldImm_encodeR]

/-- The fields of a word fit the bits that their format gives them. -/
theorem wf_of_decode {w : Word} {i : Instr} (h : decode w = .ok i) : i.wf = true := by
  obtain ⟨-, hrd, hrs1, hrs2, himm, himm22, -⟩ := word_fields w
  unfold decode at h
  split at h <;> cases h <;>
    simp only [Instr.wf, regOk, immOk, imm22Ok, hrd, hrs1, hrs2, himm, himm22, decide_true, Bool.and_self]

theorem allOnes_eq : (0xFFFFFFFF : Word) = BitVec.allOnes 32 := by decide

/-- The word of LUI is made of its three fields, all of them used (30_encoding.md R202). -/
theorem encodeU_of_fields {w : Word} {op : Nat} (hop : fieldOp w = op) : encodeU op (fieldRd w) (fieldImm22 w) = w := by
  obtain ⟨hlt, hrd, -, -, -, himm, -, hsum⟩ := word_fields w
  subst hop
  apply BitVec.eq_of_toNat_eq
  unfold encodeU
  rw [BitVec.toNat_ofNat, ← hsum]
  exact Nat.mod_eq_of_lt w.isLt

/-- A word that decodes is the word of its command on the bits the command's row uses. -/
theorem encode_of_decode {w : Word} {i : Instr} (h : decode w = .ok i) : encode i = w &&& usedBits i := by
  unfold decode at h
  split at h <;> rename_i hop <;> cases h
  case h_2 => rw [encode, encodeU_of_fields hop, usedBits, allOnes_eq, BitVec.and_allOnes]
  all_goals
    rw [and_eq_encodeR]
    simp only [encode, usedBits, BitVec.ofNat_eq_ofNat, fieldOp_ofNat, fieldRd_ofNat, fieldRs1_ofNat, fieldRs2_ofNat,
      fieldImm_ofNat, Nat.reducePow, Nat.reduceMod, Nat.reduceDiv, Nat.reduceAnd, fieldRd_and_full,
      fieldRs1_and_full, fieldRs2_and_full, fieldImm_and_full, Nat.and_zero, hop]

/-- The opcode field is used by every command. -/
theorem fieldOp_usedBits (i : Instr) : fieldOp (usedBits i) = 63 := by
  cases i <;> simp only [usedBits, BitVec.ofNat_eq_ofNat, fieldOp_ofNat, Nat.reducePow, Nat.reduceMod, Nat.reduceDiv]

/-- The opcode alone decides which command a word stands for, and so which bits it uses. -/
theorem decode_of_fieldOp_eq {w w' : Word} {i : Instr} (h : decode w = .ok i) (hop : fieldOp w' = fieldOp w) :
    ∃ i', decode w' = .ok i' ∧ usedBits i' = usedBits i := by
  unfold decode at h ⊢
  rw [hop]
  split at h <;> cases h <;> exact ⟨_, rfl, rfl⟩

/-- A word with the same used bits decodes to the same command (30_encoding.md R206): both commands encode to them. -/
theorem decode_of_and_eq {w w' : Word} {i : Instr} (h : decode w = .ok i)
    (hm : w' &&& usedBits i = w &&& usedBits i) : decode w' = .ok i := by
  have hop : fieldOp w' = fieldOp w := by
    have := (fields_of_and_eq hm).1
    rwa [fieldOp_usedBits, fieldOp_and_full, fieldOp_and_full] at this
  obtain ⟨i', h', used⟩ := decode_of_fieldOp_eq h hop
  have same : encode i' = encode i := by rw [encode_of_decode h', encode_of_decode h, used, hm]
  have both : decode (encode i') = decode (encode i) := congrArg decode same
  rw [decodeOfEncode i' (wf_of_decode h'), decodeOfEncode i (wf_of_decode h)] at both
  rw [h', both]

/-- Settles O2: a decoded word is its command's word on the used bits, and only those bits decide. -/
theorem encodeOfDecode : Obligations.EncodeOfDecode :=
  ⟨fun _ _ h => ⟨wf_of_decode h, encode_of_decode h⟩, fun _ _ _ h hm => decode_of_and_eq h hm⟩

/-- Settles O3: five decodings, each computed. -/
theorem sampleWordsDecode : Obligations.SampleWordsDecode := by
  refine ⟨?_, ?_, ?_, ?_, ?_⟩ <;> decide

end Sys2Proof.Proofs
end

section
/-! What every command but WRREG keeps: its count, the flags, its frame and the form of memory. -/

namespace Sys2Proof.Proofs

open Sys2Proof.Machine Sys2Proof.Claims

/-! ### The bits of STATUS -/

theorem and_twoPow_ne_zero (w : Word) {k : Nat} (hk : k < 32) : (w &&& BitVec.twoPow 32 k != 0) = w.getLsbD k := by
  rw [BitVec.and_twoPow]
  cases w.getLsbD k with
  | false => rfl
  | true =>
    have : BitVec.twoPow 32 k ≠ 0#32 := by
      intro h
      have := congrArg (fun v : Word => v.getLsbD k) h
      simp [hk] at this
    simpa using this

theorem fatal_eq (s : State) : s.fatal = s.status.getLsbD 4 :=
  and_twoPow_ne_zero s.status (k := 4) (by decide)

/-- The position of a flag in STATUS. -/
def flagBit : Flag → Nat
  | .sat => 0
  | .dz => 1
  | .range => 2
  | .ill => 3

theorem flagMask_eq (f : Flag) : flagMask f = BitVec.twoPow 32 (flagBit f) := by cases f <;> rfl

theorem flagBit_lt (f : Flag) : flagBit f < 4 := by cases f <;> decide

theorem flag_eq (s : State) (f : Flag) : s.flag f = s.status.getLsbD (flagBit f) := by
  unfold State.flag
  rw [flagMask_eq, and_twoPow_ne_zero _ (by have := flagBit_lt f; omega)]

theorem getLsbD_or_twoPow (w : Word) {j k : Nat} (hk : k < 32) :
    (w ||| BitVec.twoPow 32 j).getLsbD k = (w.getLsbD k || decide (j = k)) := by
  rw [BitVec.getLsbD_or, BitVec.getLsbD_twoPow]
  by_cases h : j = k
  · simp [h, hk]
  · simp [h]

theorem withFlag_fatal (f : Flag) (s : State) : (State.withFlag f s).fatal = s.fatal := by
  have hf := flagBit_lt f
  rw [fatal_eq, fatal_eq, State.withFlag_status, flagMask_eq, getLsbD_or_twoPow _ (by decide),
    decide_eq_false (by omega), Bool.or_false]

theorem takeFatal_fatal (f : Fault) (s : State) : (takeFatal f s).fatal = true := by
  rw [fatal_eq, takeFatal_status, show fatalMask = BitVec.twoPow 32 4 from rfl, getLsbD_or_twoPow _ (by decide)]
  simp

theorem withFlag_flag {f : Flag} {s : State} (g : Flag) (h : s.flag f = true) : (State.withFlag g s).flag f = true := by
  have hf := flagBit_lt f
  rw [flag_eq] at h
  rw [flag_eq, State.withFlag_status, flagMask_eq, getLsbD_or_twoPow _ (by omega), h, Bool.true_or]

theorem takeFatal_flag {f : Flag} {s : State} (e : Fault) (h : s.flag f = true) : (takeFatal e s).flag f = true := by
  have hf := flagBit_lt f
  rw [flag_eq] at h
  rw [flag_eq, takeFatal_status, show fatalMask = BitVec.twoPow 32 4 from rfl, getLsbD_or_twoPow _ (by omega), h,
    Bool.true_or]

/-! ### Registers -/

theorem reg_withReg_of_ne {i r : Nat} (v : Word) (s : State) (h : i ≠ r) : (State.withReg i v s).reg r = s.reg r := by
  unfold State.reg State.withReg
  rw [Vector.getElem?_setIfInBounds_ne h]

theorem reg_withReg_self {i : Nat} (v : Word) (s : State) (h : i < 16) : (State.withReg i v s).reg i = v := by
  unfold State.reg State.withReg
  rw [Vector.getElem?_setIfInBounds_self_of_lt h, Option.getD_some]

/-! ### Every command but WRREG -/

/-- A command ends in a state that keeps each stable property, and is then counted or halted. -/
theorem exec_stable {P : State → Prop} {i : Instr} {s t : State} (S : Stable P (destination i))
    (hi : controlWrite s i = none) (hs : P s) (he : exec i s = .next t) :
    (∃ t', P t' ∧ t = completeCommand t') ∨ ∃ f t', P t' ∧ t = takeFatal f t' := by
  obtain ⟨c, run, keeps⟩ := exec_keeps i s hi
  have kept := keeps P S s hs
  rw [run] at he
  rcases runCmd_cases c s with ⟨u, hu, hn⟩ | ⟨e, u, hu, hn⟩ <;> rw [hu] at kept <;> rw [hn] at he
  · exact .inl ⟨u, kept, (Host.Outcome.next.inj he).symm⟩
  · obtain ⟨u', hu', rfl⟩ := kept
    exact .inr ⟨e, u', hu', (Host.Outcome.next.inj he).symm⟩

/-- A property that completing and halting keep too holds after a command. -/
theorem exec_preserves {P : State → Prop} {i : Instr} {s t : State} (S : Stable P (destination i))
    (complete : ∀ u, P u → P (completeCommand u)) (halt : ∀ f u, P u → P (takeFatal f u))
    (hi : controlWrite s i = none) (hs : P s) (he : exec i s = .next t) : P t := by
  rcases exec_stable S hi hs he with ⟨u, hu, rfl⟩ | ⟨f, u, hu, rfl⟩
  · exact complete u hu
  · exact halt f u hu

/-- A command still runs: the block is not halted, and the count and the recorded word are those it began with. -/
def Running (s t : State) : Prop := t.fatal = false ∧ t.cmdSeq = s.cmdSeq ∧ t.cmd = s.cmd

theorem running_stable (s : State) (rd : Option Nat) : Stable (Running s) rd where
  flag f t h := ⟨(withFlag_fatal f t).trans h.1, h.2⟩
  reg _ _ _ _ h := h
  sram _ _ h := h
  voices _ _ _ h := h
  delays _ _ _ h := h
  lfos _ _ _ h := h
  filters _ _ _ h := h
  slots _ _ _ h := h

/-- Settles O10: a command runs unhalted and uncounted up to its end, which counts it or halts. -/
theorem commandsAreCounted : Obligations.CommandsAreCounted := by
  intro i s t hs hi he
  have start : Running s s := ⟨hs, rfl, rfl⟩
  rcases exec_stable (running_stable s _) hi start he with ⟨u, ⟨hf, hseq, -⟩, rfl⟩ | ⟨f, u, ⟨-, hseq, hcmd⟩, rfl⟩
  · have running : (completeCommand u).fatal = false := hf
    refine ⟨fun _ => ?_, fun h => ?_⟩
    · rw [completeCommand_cmdSeq, hseq]
    · rw [running] at h
      cases h
  · refine ⟨fun h => ?_, fun _ => ⟨hseq, hcmd, ?_⟩⟩
    · rw [takeFatal_fatal] at h
      cases h
    · rw [takeFatal_fatalCause]
      cases f <;> simp [Fault.cause]

theorem flag_stable (f : Flag) (rd : Option Nat) : Stable (fun t => t.flag f = true) rd where
  flag g _ h := withFlag_flag g h
  reg _ _ _ _ h := h
  sram _ _ h := h
  voices _ _ _ h := h
  delays _ _ _ h := h
  lfos _ _ _ h := h
  filters _ _ _ h := h
  slots _ _ _ h := h

/-- Settles O11: a command only sets bits of STATUS. -/
theorem flagsAreSticky : Obligations.FlagsAreSticky := by
  intro i s t f hi he hs
  exact exec_preserves (flag_stable f _) (fun _ h => h) (fun e _ h => takeFatal_flag e h) hi hs he

/-- What a command with this destination leaves as it was (10_state.md R50, R52; 20_memory.md R155). -/
def FrameKept (rd : Option Nat) (s t : State) : Prop :=
  (∀ r : Nat, rd ≠ some r → t.reg r = s.reg r) ∧
  t.ctrl = s.ctrl ∧ t.sampleRate = s.sampleRate ∧ t.controlRatio = s.controlRatio ∧
  t.minSustainTime = s.minSustainTime ∧ t.mixWindow = s.mixWindow ∧ t.maxDieTime = s.maxDieTime ∧
  t.outBase = s.outBase ∧ t.busRevBase = s.busRevBase ∧ t.busChoBase = s.busChoBase ∧
  t.busDlyBase = s.busDlyBase ∧ t.chState = s.chState ∧ t.tram = s.tram ∧ t.params = s.params ∧
  t.cmd = s.cmd ∧ t.port = s.port ∧ t.hostData = s.hostData ∧ t.freeCount = s.freeCount

theorem FrameKept.trans {rd : Option Nat} {s t u : State} (h : FrameKept rd s t) (h' : FrameKept rd t u) :
    FrameKept rd s u := by
  obtain ⟨hr, h1, h2, h3, h4, h5, h6, h7, h8, h9, h10, h11, h12, h13, h14, h15, h16, h17⟩ := h
  obtain ⟨hr', h1', h2', h3', h4', h5', h6', h7', h8', h9', h10', h11', h12', h13', h14', h15', h16', h17'⟩ := h'
  exact ⟨fun r n => (hr' r n).trans (hr r n), h1'.trans h1, h2'.trans h2, h3'.trans h3, h4'.trans h4, h5'.trans h5,
    h6'.trans h6, h7'.trans h7, h8'.trans h8, h9'.trans h9, h10'.trans h10, h11'.trans h11, h12'.trans h12,
    h13'.trans h13, h14'.trans h14, h15'.trans h15, h16'.trans h16, h17'.trans h17⟩

/-- Lists of the same lengths are a build of the same parameters. -/
theorem params_congr {s t : State} (h1 : t.voices.length = s.voices.length) (h2 : t.delays.length = s.delays.length)
    (h3 : t.lfos.length = s.lfos.length) (h4 : t.filters.length = s.filters.length)
    (h5 : t.slots.length = s.slots.length) (h6 : t.sramWords = s.sramWords) : t.params = s.params := by
  unfold State.params
  rw [h1, h2, h3, h4, h5, h6]

theorem frameKept_stable (rd : Option Nat) (s : State) : Stable (FrameKept rd s) rd where
  flag _ _ h := h
  reg i v t hrd h := ⟨fun r hr => (reg_withReg_of_ne v t (by rintro rfl; exact hr hrd)).trans (h.1 r hr), h.2⟩
  sram _ _ h := h
  voices _ _ hl h := h.trans ⟨fun _ _ => rfl, rfl, rfl, rfl, rfl, rfl, rfl, rfl, rfl, rfl, rfl, rfl, rfl,
    params_congr hl rfl rfl rfl rfl rfl, rfl, rfl, rfl, rfl⟩
  delays _ _ hl h := h.trans ⟨fun _ _ => rfl, rfl, rfl, rfl, rfl, rfl, rfl, rfl, rfl, rfl, rfl, rfl, rfl,
    params_congr rfl hl rfl rfl rfl rfl, rfl, rfl, rfl, rfl⟩
  lfos _ _ hl h := h.trans ⟨fun _ _ => rfl, rfl, rfl, rfl, rfl, rfl, rfl, rfl, rfl, rfl, rfl, rfl, rfl,
    params_congr rfl rfl hl rfl rfl rfl, rfl, rfl, rfl, rfl⟩
  filters _ _ hl h := h.trans ⟨fun _ _ => rfl, rfl, rfl, rfl, rfl, rfl, rfl, rfl, rfl, rfl, rfl, rfl, rfl,
    params_congr rfl rfl rfl hl rfl rfl, rfl, rfl, rfl, rfl⟩
  slots _ _ hl h := h.trans ⟨fun _ _ => rfl, rfl, rfl, rfl, rfl, rfl, rfl, rfl, rfl, rfl, rfl, rfl, rfl,
    params_congr rfl rfl rfl rfl hl rfl, rfl, rfl, rfl, rfl⟩

/-- Settles O12: no operation that a command is made of leaves its frame. -/
theorem commandFrame : Obligations.CommandFrame := by
  intro i s t hi he
  have start : FrameKept (destination i) s s := ⟨fun _ _ => rfl, rfl, rfl, rfl, rfl, rfl, rfl, rfl, rfl, rfl, rfl, rfl,
    rfl, rfl, rfl, rfl, rfl, rfl⟩
  exact exec_preserves (frameKept_stable _ s) (fun _ h => h) (fun _ _ h => h) hi start he

end Sys2Proof.Proofs
end

section
/-! What the operations of the commands keep of a property that memory writes keep only word by word: `Stable` asks it
of every memory, so the form of the memories, and what units and lines hold, needs rules of its own. -/

namespace Sys2Proof.Proofs

open Sys2Proof.Machine Sys2Proof.Claims

/-! ### Commands that keep a property -/

variable {P : State → Prop} {α β : Type}

/-- A piece of a command keeps a property: when it completes, and at the point where it raised Fatal, whose halt is
then all that was done; a halt on a bad address names an address outside sample RAM (60_exceptions.md R806, R807). -/
def Upholds (P : State → Prop) (c : Cmd α) : Prop :=
  ∀ s, P s → match c s with
    | .ok _ t => P t
    | .error f t => ∃ t', P t' ∧ t = takeFatal f t' ∧ ∀ a, f = .badAddr a → t'.sramWords ≤ a.toNat

theorem upholds_pure (a : α) : Upholds P (pure a : Cmd α) := fun _ h => h

theorem upholds_bind {c : Cmd α} {k : α → Cmd β} (hc : Upholds P c) (hk : ∀ a, Upholds P (k a)) :
    Upholds P (c >>= k) := by
  intro s hs
  have h := hc s hs
  rw [bind_run]
  cases e : c s with
  | ok a t =>
    rw [e] at h
    exact hk a t h
  | error f t =>
    rw [e] at h
    exact h

theorem upholds_ite {p : Prop} [Decidable p] {c d : Cmd α} (hc : Upholds P c) (hd : Upholds P d) :
    Upholds P (if p then c else d) := by
  split
  · exact hc
  · exact hd

theorem upholds_getState : Upholds P getState := fun _ h => h

theorem upholds_alloc (l : Word) : Upholds P (raiseFatal (.alloc l) : Cmd α) := fun s h => ⟨s, h, rfl, nofun⟩

theorem upholds_badAddr {a : Word} {s : State} (hs : P s) (h : s.sramWords ≤ a.toNat) :
    ∃ t', P t' ∧ takeFatal (.badAddr a) s = takeFatal (.badAddr a) t' ∧
      ∀ b, Fault.badAddr a = .badAddr b → t'.sramWords ≤ b.toNat :=
  ⟨s, hs, rfl, fun _ e => Fault.badAddr.inj e ▸ h⟩

theorem upholds_readReg (i : Nat) : Upholds P (readReg i) := fun _ h => h

theorem upholds_readRegS (i : Nat) : Upholds P (readRegS i) := fun _ h => h

theorem upholds_readVoice (n : Nat) : Upholds P (readVoice n) := fun _ h => h

theorem upholds_tabRead (a : Nat) : Upholds P (tabRead a) := fun _ h => h

theorem upholds_memRead (a : Word) : Upholds P (memRead a) := by
  intro s hs
  by_cases h : a.toNat < s.sramWords
  · rw [memRead_run_of_lt h]
    exact hs
  · have outside : s.sramWords ≤ a.toNat := by omega
    rw [memRead_run_of_ge outside]
    exact upholds_badAddr hs outside

/-- A property that flags, filter units and stores of words to sample RAM keep. -/
structure Tidy (P : State → Prop) : Prop where
  flag : ∀ f s, P s → P (State.withFlag f s)
  word : ∀ a v s, P s → P (State.withSramWord a v s)
  zero : ∀ a n s, P s → P { s with sram := memZeroWords s.sram a n }
  filter : ∀ u f s, P s → P (State.setFilter u f s)

/-- Such a property that writes of voices keep too. -/
structure TidyVoices (P : State → Prop) : Prop extends Tidy P where
  voice : ∀ n f s, P s → P (State.modifyVoice n f s)

/-- Such a property that writes of slots keep too. -/
structure TidySlots (P : State → Prop) : Prop extends Tidy P where
  slot : ∀ i x s, P s → P (State.setSlot i x s)
  modify : ∀ i f s, P s → P { s with slots := s.slots.modify i f }

namespace Tidy

variable (S : Tidy P)
include S

theorem raiseFlag (f : Flag) : Upholds P (raiseFlag f) := S.flag f

theorem memWrite (a v : Word) : Upholds P (memWrite a v) := by
  intro s hs
  by_cases h : a.toNat < s.sramWords
  · rw [memWrite_run_of_lt h]
    exact S.word _ _ s hs
  · have outside : s.sramWords ≤ a.toNat := by omega
    rw [memWrite_run_of_ge outside]
    exact upholds_badAddr hs outside

theorem memClear (count : Nat) : ∀ base, Upholds P (memClear count base) := by
  induction count with
  | zero => exact fun _ => upholds_pure _
  | succ n ih => exact fun _ => upholds_bind (S.memWrite _ _) fun _ => ih _

theorem clearWords (a n : Nat) : Upholds P (update fun t => { t with sram := memZeroWords t.sram a n }) := S.zero a n

theorem setFilter (u : Nat) (f : FilterUnit) : Upholds P (update (State.setFilter u f)) := S.filter u f

theorem raiseFlagIf (b : Bool) (f : Flag) : Upholds P (raiseFlagIf b f) := by
  cases b
  · exact upholds_pure _
  · exact S.raiseFlag f

theorem sat32 (v : Int) : Upholds P (sat32 v) := upholds_bind (S.raiseFlagIf _ _) fun _ => upholds_pure _

theorem fmul (q : Nat) (a b : Int) : Upholds P (fmul q a b) := S.sat32 _

theorem fdiv (q : Nat) (a b : Int) : Upholds P (fdiv q a b) :=
  upholds_ite (upholds_bind (S.raiseFlag _) fun _ => upholds_pure _) (S.sat32 _)

theorem adds (a b : Int) : Upholds P (adds a b) := S.sat32 _

theorem subs (a b : Int) : Upholds P (subs a b) := S.sat32 _

theorem memAccumulate (a : Word) (c : Int) : Upholds P (memAccumulate a c) :=
  upholds_bind (upholds_memRead _) fun _ => upholds_bind (S.sat32 _) fun _ => S.memWrite _ _

theorem lineTap (l : Line) (d : Int) : Upholds P (lineTap l d) :=
  upholds_bind (S.raiseFlagIf _ _) fun _ => upholds_bind (upholds_memRead _) fun _ => upholds_pure _

theorem linePush (l : Line) (x : Int) : Upholds P (linePush l x) :=
  upholds_bind (S.memWrite _ _) fun _ => upholds_pure _

theorem lineDelay (l : Line) (x : Int) : Upholds P (lineDelay l x) :=
  upholds_bind (upholds_memRead _) fun _ => upholds_bind (S.linePush _ _) fun _ => upholds_pure _

theorem lineInterp (l : Line) (m f h : Int) : Upholds P (lineInterp l m f h) :=
  upholds_bind (S.raiseFlagIf _ _) fun _ => upholds_bind (S.raiseFlagIf _ _) fun _ => upholds_bind (S.lineTap _ _) fun _ =>
    upholds_bind (S.lineTap _ _) fun _ => upholds_bind (S.sat32 _) fun _ => upholds_bind (S.fmul _ _ _) fun _ => S.sat32 _

theorem lineInterpQ16 (l : Line) (dq h : Int) : Upholds P (lineInterpQ16 l dq h) := S.lineInterp _ _ _ _

theorem lowPass (st x damp : Int) : Upholds P (lowPass st x damp) :=
  upholds_bind (S.fmul _ _ _) fun _ => upholds_bind (S.fmul _ _ _) fun _ => S.sat32 _

theorem combStep (l : Line) (st x fb damp : Int) : Upholds P (combStep l st x fb damp) :=
  upholds_bind (upholds_memRead _) fun _ => upholds_bind (S.lowPass _ _ _) fun _ => upholds_bind (S.fmul _ _ _) fun _ =>
    upholds_bind (S.sat32 _) fun _ => upholds_bind (S.linePush _ _) fun _ => upholds_pure _

theorem apfStep (l : Line) (x g : Int) : Upholds P (apfStep l x g) :=
  upholds_bind (upholds_memRead _) fun _ => upholds_bind (S.sat32 _) fun _ => upholds_bind (S.fmul _ _ _) fun _ =>
    upholds_bind (S.sat32 _) fun _ => upholds_bind (S.linePush _ _) fun _ => upholds_pure _

theorem latticeWith (l : Line) (d x g : Int) : Upholds P (latticeWith l d x g) :=
  upholds_bind (S.fmul _ _ _) fun _ => upholds_bind (S.sat32 _) fun _ => upholds_bind (S.linePush _ _) fun _ =>
    upholds_bind (S.fmul _ _ _) fun _ => upholds_bind (S.sat32 _) fun _ => upholds_pure _

theorem latStep (l : Line) (x g : Int) : Upholds P (latStep l x g) :=
  upholds_bind (upholds_memRead _) fun _ => S.latticeWith _ _ _ _

theorem waveAt (w : Waveform) (i : Nat) : Upholds P (waveAt w i) := by
  have _ := S
  cases w
  · exact upholds_bind (upholds_tabRead _) fun _ => upholds_pure _
  · exact upholds_pure _

theorem lfoPhase (w : Waveform) (p : Word) : Upholds P (lfoPhase w p) := S.waveAt _ _

theorem svfStep (f q : Int) (h : Hist) (x : Int) : Upholds P (svfStep f q h x) :=
  upholds_bind (S.fmul _ _ _) fun _ => upholds_bind (S.sat32 _) fun _ => upholds_bind (S.sat32 _) fun _ =>
    upholds_bind (S.fmul _ _ _) fun _ => upholds_bind (S.sat32 _) fun _ => upholds_bind (S.fmul _ _ _) fun _ =>
      upholds_bind (S.sat32 _) fun _ => upholds_pure _

theorem ladderPole (f p a b old : Int) : Upholds P (ladderPole f p a b old) :=
  upholds_bind (S.sat32 _) fun _ => upholds_bind (S.fmul _ _ _) fun _ => upholds_bind (S.fmul _ _ _) fun _ => S.sat32 _

theorem moogStep (f p q : Int) (h : Hist) (x : Int) : Upholds P (moogStep f p q h x) :=
  upholds_bind (S.fmul _ _ _) fun _ => upholds_bind (S.sat32 _) fun _ => upholds_bind (S.ladderPole _ _ _ _ _) fun _ =>
    upholds_bind (S.ladderPole _ _ _ _ _) fun _ => upholds_bind (S.ladderPole _ _ _ _ _) fun _ =>
      upholds_bind (S.ladderPole _ _ _ _ _) fun _ => upholds_pure _

theorem tremSum (quiet : Bool) (sum : Int) : Upholds P (tremSum quiet sum) :=
  upholds_ite (upholds_pure _) (S.sat32 _)

theorem sweep (quiet : Bool) (t : Tremolo) : Upholds P (t.sweep quiet) :=
  upholds_ite (upholds_pure _) (upholds_bind (S.tremSum _ _) fun _ => upholds_pure _)

theorem envTable (b : Nat) (e : Int) : Upholds P (envTable b e) :=
  have _ := S
  upholds_bind (upholds_tabRead _) fun _ => upholds_pure _

theorem envLevel (v : Voice) : Upholds P (envLevel v) :=
  upholds_ite (S.envTable _ _) <| upholds_ite (S.envTable _ _) <| upholds_bind (S.fmul _ _ _) fun _ =>
    upholds_bind (S.envTable _ _) fun _ => S.fmul _ _ _

theorem modulate {body : Cmd Unit} (h : Upholds P body) : Upholds P (modulate body) :=
  have _ := S
  upholds_bind upholds_getState fun _ => upholds_ite h (upholds_pure _)

theorem sendTo (base f : Word) (side : Side) (send c : Int) : Upholds P (sendTo base f side send c) :=
  upholds_ite (upholds_pure _) <| upholds_bind (S.fmul _ _ _) fun _ => S.memAccumulate _ _

theorem contribute (v : Voice) (f : Word) (side : Side) (c : Int) : Upholds P (contribute v f side c) :=
  upholds_bind upholds_getState fun _ => upholds_bind (S.memAccumulate _ _) fun _ => upholds_bind (S.sendTo _ _ _ _ _) fun _ =>
    upholds_bind (S.sendTo _ _ _ _ _) fun _ => S.sendTo _ _ _ _ _

theorem mixSide (v : Voice) (f : Word) (side : Side) (x l : Int) : Upholds P (mixSide v f side x l) :=
  upholds_bind (S.sat32 _) fun _ => S.contribute _ _ _ _

theorem rampAdvance (o i : Word) : Upholds P (rampAdvance o i) :=
  upholds_ite (upholds_pure _) <| upholds_bind (S.sat32 _) fun _ => upholds_pure _

theorem fxLfo (c cycle : Nat) : Upholds P (fxLfo c cycle) := S.waveAt _ _

theorem combBank (x fb damp : Int) (cs : List CombLine) : ∀ acc, Upholds P (combBank x fb damp cs acc) := by
  induction cs with
  | nil => exact fun _ => upholds_pure _
  | cons c cs ih =>
    exact fun _ => upholds_bind (S.combStep _ _ _ _ _) fun _ => upholds_bind (S.sat32 _) fun _ =>
      upholds_bind (ih _) fun _ => upholds_pure _

theorem apfChain (g : Int) (ls : List Line) : ∀ x, Upholds P (apfChain g ls x) := by
  induction ls with
  | nil => exact fun _ => upholds_pure _
  | cons l ls ih => exact fun _ => upholds_bind (S.apfStep _ _ _) fun _ => upholds_bind (ih _) fun _ => upholds_pure _

theorem freeverbFrame (r : FreeverbRec) (xL xR : Int) : Upholds P (freeverbFrame r xL xR) :=
  upholds_bind (S.sat32 _) fun _ => upholds_bind (S.fmul _ _ _) fun _ => upholds_bind (S.combBank _ _ _ _ _) fun _ =>
    upholds_bind (S.combBank _ _ _ _ _) fun _ => upholds_bind (S.apfChain _ _ _) fun _ =>
      upholds_bind (S.apfChain _ _ _) fun _ => upholds_bind (S.fmul _ _ _) fun _ => upholds_bind (S.fmul _ _ _) fun _ =>
        upholds_bind (S.sat32 _) fun _ => upholds_bind (S.fmul _ _ _) fun _ => upholds_bind (S.fmul _ _ _) fun _ =>
          upholds_bind (S.sat32 _) fun _ => upholds_pure _

theorem modLat (sr : Nat) (p : FxParams) (l : Line) (x g v h : Int) (n : Nat) : Upholds P (modLat sr p l x g v h n) :=
  upholds_bind (S.lineInterpQ16 _ _ _) fun _ => upholds_bind (S.latticeWith _ _ _ _) fun _ => upholds_pure _

theorem preDelay (pd : Option Line) (x : Int) : Upholds P (preDelay pd x) := by
  cases pd
  · exact upholds_pure _
  · exact upholds_bind (S.lineDelay _ _) fun _ => upholds_pure _

theorem plateHalf (sr : Nat) (p : FxParams) (m d1 a2 d2 : Line) (st h u v : Int) (n : Nat) :
    Upholds P (plateHalf sr p m d1 a2 d2 st h u v n) :=
  upholds_bind (S.sat32 _) fun _ => upholds_bind (S.modLat _ _ _ _ _ _ _ _) fun _ => upholds_bind (S.lineDelay _ _) fun _ =>
    upholds_bind (S.lowPass _ _ _) fun _ => upholds_bind (S.fmul _ _ _) fun _ => upholds_bind (S.latStep _ _ _) fun _ =>
      upholds_bind (S.lineDelay _ _) fun _ => upholds_pure _

theorem plateNetwork (sr : Nat) (r : PlateRec) (xL xR : Int) : Upholds P (plateNetwork sr r xL xR) :=
  upholds_bind (S.sat32 _) fun _ => upholds_bind (S.fmul _ _ _) fun _ => upholds_bind (S.preDelay _ _) fun _ =>
    upholds_bind (S.latStep _ _ _) fun _ => upholds_bind (S.latStep _ _ _) fun _ => upholds_bind (S.latStep _ _ _) fun _ =>
      upholds_bind (S.latStep _ _ _) fun _ => upholds_bind (S.fxLfo _ _) fun _ => upholds_bind (S.fxLfo _ _) fun _ =>
        upholds_bind (S.fmul _ _ _) fun _ => upholds_bind (S.sat32 _) fun _ => upholds_bind (S.fmul _ _ _) fun _ =>
          upholds_bind (S.sat32 _) fun _ => upholds_bind (S.plateHalf _ _ _ _ _ _ _ _ _ _ _) fun _ =>
            upholds_bind (S.plateHalf _ _ _ _ _ _ _ _ _ _ _) fun _ => upholds_pure _

theorem plateTap (sr : Nat) (l : Line) (n : Nat) : Upholds P (plateTap sr l n) := S.lineTap _ _

theorem plateTaps (sr : Nat) (r : PlateRec) : Upholds P (plateTaps sr r) :=
  upholds_bind (S.plateTap _ _ _) fun _ => upholds_bind (S.plateTap _ _ _) fun _ => upholds_bind (S.plateTap _ _ _) fun _ =>
    upholds_bind (S.plateTap _ _ _) fun _ => upholds_bind (S.plateTap _ _ _) fun _ => upholds_bind (S.plateTap _ _ _) fun _ =>
      upholds_bind (S.plateTap _ _ _) fun _ => upholds_bind (S.plateTap _ _ _) fun _ =>
        upholds_bind (S.plateTap _ _ _) fun _ => upholds_bind (S.plateTap _ _ _) fun _ =>
          upholds_bind (S.plateTap _ _ _) fun _ => upholds_bind (S.plateTap _ _ _) fun _ =>
            upholds_bind (S.plateTap _ _ _) fun _ => upholds_bind (S.plateTap _ _ _) fun _ =>
              upholds_bind (S.sat32 _) fun _ => upholds_bind (S.sat32 _) fun _ => upholds_bind (S.fmul _ _ _) fun _ =>
                upholds_bind (S.fmul _ _ _) fun _ => upholds_pure _

theorem plateFrame (r : PlateRec) (xL xR : Int) : Upholds P (plateFrame r xL xR) :=
  upholds_bind upholds_getState fun _ => upholds_bind (S.plateNetwork _ _ _ _) fun _ =>
    upholds_bind (S.plateTaps _ _) fun _ => upholds_pure _

theorem chorusChannel (p : FxParams) (l : Line) (h : Word) (x : Int) (c : Nat) : Upholds P (chorusChannel p l h x c) :=
  upholds_bind (S.fxLfo _ _) fun _ => upholds_bind (S.fmul _ _ _) fun _ => upholds_bind (S.lineInterpQ16 _ _ _) fun _ =>
    upholds_bind (S.fmul _ _ _) fun _ => upholds_bind (S.sat32 _) fun _ => upholds_bind (S.linePush _ _) fun _ =>
      upholds_pure _

theorem chorusFrame (r : ChorusRec) (xL xR : Int) : Upholds P (chorusFrame r xL xR) :=
  upholds_bind (S.chorusChannel _ _ _ _ _) fun _ => upholds_bind (S.chorusChannel _ _ _ _ _) fun _ => upholds_pure _

theorem hexaTaps (p : FxParams) (l : Line) (c count : Nat) :
    ∀ i acc wL wR h, Upholds P (hexaTaps p l c count i acc wL wR h) := by
  induction count with
  | zero => exact fun _ _ _ _ _ => upholds_pure _
  | succ m ih =>
    exact fun _ _ _ _ _ => upholds_bind (S.fxLfo _ _) fun _ => upholds_bind (S.fmul _ _ _) fun _ =>
      upholds_bind (S.lineInterpQ16 _ _ _) fun _ => upholds_bind (S.sat32 _) fun _ => upholds_bind (S.fmul _ _ _) fun _ =>
        upholds_bind (S.sat32 _) fun _ => upholds_bind (S.fmul _ _ _) fun _ => upholds_bind (S.sat32 _) fun _ =>
          ih _ _ _ _ _

theorem hexaFrame (r : HexaRec) (xL xR : Int) : Upholds P (hexaFrame r xL xR) :=
  upholds_bind (S.sat32 _) fun _ => upholds_bind (S.hexaTaps _ _ _ _ _ _ _ _ _) fun _ =>
    upholds_bind (S.fmul _ _ _) fun _ => upholds_bind (S.sat32 _) fun _ => upholds_bind (S.linePush _ _) fun _ =>
      upholds_pure _

theorem dryWet (p : FxParams) (x w : Int) : Upholds P (dryWet p x w) :=
  upholds_bind (S.fmul _ _ _) fun _ => upholds_bind (S.fmul _ _ _) fun _ => S.sat32 _

theorem deliver (bus : FxBus) (f : Word) (yL yR : Int) : Upholds P (deliver bus f yL yR) :=
  upholds_bind upholds_getState fun _ => upholds_ite (upholds_bind (S.memWrite _ _) fun _ => S.memWrite _ _)
    (upholds_bind (S.memAccumulate _ _) fun _ => upholds_bind (S.memAccumulate _ _) fun _ =>
      upholds_bind (S.memWrite _ _) fun _ => S.memWrite _ _)

theorem clearIf (b : Bool) (base off : Word) (n : Nat) : Upholds P (clearIf b base off n) :=
  upholds_ite (S.memClear _ _) (upholds_pure _)

end Tidy

namespace TidyVoices

variable (S : TidyVoices P)
include S

theorem writeVoice (n : Nat) (f : Voice → Voice) : Upholds P (writeVoice n f) := S.voice n f

theorem freeVoice (n : Nat) : Upholds P (freeVoice n) := upholds_bind (S.writeVoice _ _) fun _ => upholds_pure _

theorem releaseRescale (n : Nat) (r : Int) : Upholds P (releaseRescale n r) :=
  upholds_bind (upholds_readVoice _) fun _ => upholds_bind (S.writeVoice _ _) fun _ =>
    upholds_bind (S.fmul _ _ _) fun _ => upholds_pure _

theorem envNextStage {again : Cmd Bool} (h : Upholds P again) (n : Nat) : Upholds P (envNextStage again n) :=
  upholds_bind upholds_getState fun _ => upholds_bind (upholds_readVoice _) fun _ => upholds_ite (S.freeVoice _) <|
    upholds_bind (S.writeVoice _ _) fun _ => upholds_bind (S.fmul _ _ _) fun _ =>
      upholds_bind (upholds_ite (S.releaseRescale _ _) (upholds_pure _)) fun _ =>
        upholds_ite h (upholds_bind (S.writeVoice _ _) fun _ => upholds_pure _)

theorem sustainDecay (n : Nat) : Upholds P (sustainDecay n) :=
  upholds_bind upholds_getState fun _ => upholds_bind (upholds_readVoice _) fun _ => upholds_ite (upholds_pure _) <| by
    split
    · exact upholds_bind (S.writeVoice _ _) fun _ => upholds_pure _
    · exact upholds_bind (S.writeVoice _ _) fun _ => upholds_pure _

theorem envRecompute (fuel n : Nat) : Upholds P (envRecompute fuel n) := by
  induction fuel with
  | zero => exact upholds_pure _
  | succ fuel ih =>
    exact upholds_bind (upholds_readVoice _) fun _ => upholds_ite (S.freeVoice _) <| upholds_ite (S.freeVoice _) <|
      upholds_ite (upholds_bind (S.sustainDecay _) fun _ => upholds_ite (S.envNextStage ih _) (upholds_pure _))
        (S.envNextStage ih _)

theorem envUpdate (n : Nat) : Upholds P (envUpdate n) :=
  upholds_bind (upholds_readVoice _) fun _ => upholds_ite (upholds_pure _) <| upholds_bind (S.writeVoice _ _) fun _ =>
    upholds_ite (upholds_bind (S.writeVoice _ _) fun _ => S.envRecompute _ _) (upholds_pure _)

theorem tremUpdate (quiet : Bool) (n : Nat) : Upholds P (tremUpdate quiet n) :=
  upholds_bind (upholds_readVoice _) fun _ => upholds_bind (S.sweep _ _) fun _ => upholds_bind (S.fmul _ _ _) fun _ => upholds_bind (S.lfoPhase _ _) fun _ =>
    upholds_bind (S.fmul _ _ _) fun _ => upholds_bind (S.tremSum _ _) fun _ => S.writeVoice _ _

theorem menvRecompute (fuel n : Nat) : Upholds P (menvRecompute fuel n) := by
  induction fuel with
  | zero => exact upholds_pure _
  | succ fuel ih =>
    exact upholds_bind (upholds_readVoice _) fun _ => upholds_ite (S.writeVoice _ _) <| upholds_ite (S.writeVoice _ _) <|
      upholds_bind (S.writeVoice _ _) fun _ => upholds_bind (S.fmul _ _ _) fun _ => upholds_ite ih (S.writeVoice _ _)

theorem menvUpdate (n : Nat) : Upholds P (menvUpdate n) :=
  upholds_bind (upholds_readVoice _) fun _ => upholds_ite (upholds_pure _) <| upholds_bind (S.writeVoice _ _) fun _ =>
    upholds_ite (upholds_bind (S.writeVoice _ _) fun _ => S.menvRecompute _ _) (upholds_pure _)

theorem menvApply (n : Nat) : Upholds P (menvApply n) :=
  upholds_bind (upholds_readVoice _) fun _ => upholds_ite (S.writeVoice _ _) (upholds_pure _)

theorem envAmp (n : Nat) : Upholds P (envAmp n) :=
  upholds_bind (upholds_readVoice _) fun _ => upholds_bind (S.envLevel _) fun _ =>
    upholds_bind (upholds_ite (S.fmul _ _ _) (upholds_pure _)) fun _ => upholds_bind (S.fmul _ _ _) fun _ =>
      upholds_bind (S.fmul _ _ _) fun _ => upholds_bind (S.writeVoice _ _) fun _ => upholds_ite (S.freeVoice _) (upholds_pure _)

theorem menvStep (n : Nat) : Upholds P (do
    Machine.menvUpdate n
    Machine.menvApply n) := upholds_bind (S.menvUpdate _) fun _ => S.menvApply _

theorem updateSignal (quiet : Bool) (n : Nat) : Upholds P (updateSignal quiet n) :=
  upholds_bind (S.envUpdate _) fun _ => upholds_ite (upholds_pure _) <| upholds_bind (upholds_readVoice _) fun _ =>
    upholds_bind (upholds_ite (S.tremUpdate _ _) (upholds_pure _)) fun _ =>
      upholds_bind (S.modulate (S.menvStep _)) fun _ => S.envAmp _

theorem mixSmooth (n : Nat) : Upholds P (mixSmooth n) :=
  upholds_bind upholds_getState fun _ => upholds_bind (upholds_readVoice _) fun _ => upholds_bind (S.sat32 _) fun _ =>
    upholds_bind (S.sat32 _) fun _ => upholds_bind (S.sat32 _) fun _ => upholds_bind (S.sat32 _) fun _ => S.writeVoice _ _

theorem mixDelayed (n : Nat) (v : Voice) (f : Word) (side : Side) (x l : Int) :
    Upholds P (mixDelayed n v f side x l) :=
  upholds_bind (S.sat32 _) fun _ => upholds_bind (upholds_memRead _) fun _ => upholds_bind (S.contribute _ _ _ _) fun _ =>
    upholds_bind (S.memWrite _ _) fun _ => S.writeVoice _ _

theorem mixSlots (n : Nat) (f : Word) (x lL lR : Int) : Upholds P (mixSlots n f x lL lR) :=
  upholds_bind upholds_getState fun _ => upholds_bind (upholds_readVoice _) fun _ => by
    split
    · exact upholds_ite
        (upholds_ite (upholds_bind (S.mixSide _ _ _ _ _) fun _ => S.mixDelayed _ _ _ _ _ _)
          (upholds_bind (S.mixDelayed _ _ _ _ _ _) fun _ => S.mixSide _ _ _ _ _))
        (upholds_bind (S.mixSide _ _ _ _ _) fun _ => S.mixSide _ _ _ _ _)
    · exact upholds_bind (S.mixSide _ _ _ _ _) fun _ => S.mixSide _ _ _ _ _
    · exact S.mixSide _ _ _ _ _
    · exact S.mixSide _ _ _ _ _

theorem nextSample (n : Nat) : Upholds P (nextSample n) :=
  upholds_bind (upholds_readVoice _) fun _ => upholds_bind (upholds_memRead _) fun _ => upholds_bind (S.writeVoice _ _) fun _ =>
    upholds_pure _

theorem voiceFilter (n : Nat) (x : Int) : Upholds P (voiceFilter n x) :=
  upholds_bind (upholds_readVoice _) fun _ => by
    split
    · exact upholds_bind (S.svfStep _ _ _ _) fun _ => upholds_bind (S.writeVoice _ _) fun _ => upholds_pure _
    · exact upholds_bind (S.moogStep _ _ _ _ _) fun _ => upholds_bind (S.writeVoice _ _) fun _ => upholds_pure _
    · exact upholds_pure _

theorem mixFrame (n : Nat) (f : Word) : Upholds P (mixFrame n f) :=
  upholds_bind (S.nextSample _) fun _ => upholds_bind (S.voiceFilter _ _) fun _ => upholds_bind (upholds_readVoice _) fun _ =>
    upholds_bind (S.sat32 _) fun _ => upholds_bind (S.sat32 _) fun _ => upholds_bind (S.rampAdvance _ _) fun _ =>
      upholds_bind (S.rampAdvance _ _) fun _ => upholds_bind (S.writeVoice _ _) fun _ => S.mixSlots _ _ _ _ _

theorem mixFrames (n count : Nat) : ∀ f, Upholds P (mixFrames n count f) := by
  induction count with
  | zero => exact fun _ => upholds_pure _
  | succ m ih => exact fun _ => upholds_bind (S.mixFrame _ _) fun _ => ih _

theorem controlUpdate (n : Nat) : Upholds P (controlUpdate n) :=
  upholds_bind upholds_getState fun _ => upholds_bind (upholds_readVoice _) fun _ => upholds_ite
    (upholds_bind (S.writeVoice _ _) fun _ => upholds_bind (S.updateSignal _ _) fun _ => upholds_ite (upholds_pure _)
      (upholds_bind (S.mixSmooth _) fun _ => upholds_pure _))
    (upholds_pure _)

theorem signalVariant (n fuel : Nat) : ∀ left f, Upholds P (signalVariant n fuel left f) := by
  induction fuel with
  | zero => exact fun _ _ => upholds_pure _
  | succ m ih =>
    exact fun _ _ => upholds_ite (upholds_pure _) <| upholds_bind (S.controlUpdate _) fun _ => upholds_ite (upholds_pure _) <|
      upholds_bind (upholds_readVoice _) fun _ => upholds_bind (S.mixFrames _ _ _) fun _ =>
        upholds_bind (S.writeVoice _ _) fun _ => ih _ _

theorem dieFrames (n : Nat) (iL iR : Int) (count : Nat) : ∀ f lL lR, Upholds P (dieFrames n iL iR count f lL lR) := by
  induction count with
  | zero => exact fun _ _ _ => upholds_pure _
  | succ m ih =>
    exact fun _ _ _ => upholds_bind (S.sat32 _) fun _ => upholds_bind (S.sat32 _) fun _ =>
      upholds_bind (upholds_readVoice _) fun _ => upholds_ite
        (upholds_bind (S.nextSample _) fun _ => upholds_bind (S.voiceFilter _ _) fun _ =>
          upholds_bind (S.mixSlots _ _ _ _ _) fun _ => ih _ _ _)
        (upholds_ite (upholds_pure _) (upholds_bind (S.nextSample _) fun _ => upholds_bind (S.voiceFilter _ _) fun _ =>
          upholds_bind (S.mixSlots _ _ _ _ _) fun _ => ih _ _ _))

theorem dieRamp (n count : Nat) (f : Word) : Upholds P (dieRamp n count f) :=
  upholds_bind upholds_getState fun _ => upholds_bind (upholds_readVoice _) fun _ => upholds_bind (S.sat32 _) fun _ =>
    upholds_bind (S.sat32 _) fun _ => upholds_bind (S.dieFrames _ _ _ _ _ _ _) fun _ => S.freeVoice _

theorem mixRoutine (n count : Nat) (f : Word) : Upholds P (mixRoutine n count f) :=
  upholds_bind (upholds_readVoice _) fun _ => upholds_ite (S.signalVariant _ _ _ _)
    (upholds_bind (S.mixFrames _ _ _) fun _ => upholds_pure _)

theorem mixLive (n count : Nat) (f : Word) : Upholds P (mixLive n count f) :=
  upholds_bind (upholds_readVoice _) fun _ => upholds_ite (upholds_bind (S.writeVoice _ _) fun _ => upholds_pure _)
    (upholds_bind (S.writeVoice _ _) fun _ => S.mixRoutine _ _ _)

end TidyVoices

namespace TidySlots

variable (S : TidySlots P)
include S

theorem setSlot (i : Nat) (x : Slot) : Upholds P (update (State.setSlot i x)) := S.slot i x

theorem modifySlot (i : Nat) (f : Slot → Slot) :
    Upholds P (update fun t => { t with slots := t.slots.modify i f }) := S.modify i f

theorem buildSlot (i : Nat) : Upholds P (buildSlot i) :=
  upholds_bind (S.modifySlot _ _) fun _ => upholds_bind upholds_getState fun _ => upholds_ite (upholds_pure _) <|
    upholds_ite (S.setSlot _ _) <| upholds_ite (upholds_bind (S.clearWords _ _) fun _ => S.setSlot _ _)
      (upholds_alloc _)

theorem finishFrame (i : Nat) (p : FxParams) (xL xR wL wR : Int) (r : FxRecord) :
    Upholds P (finishFrame i p xL xR wL wR r) :=
  upholds_bind (S.modifySlot _ _) fun _ => upholds_bind (S.dryWet _ _ _) fun _ => upholds_bind (S.dryWet _ _ _) fun _ =>
    upholds_pure _

theorem slotFrame (i : Nat) (xL xR : Int) : Upholds P (slotFrame i xL xR) :=
  upholds_bind upholds_getState fun _ => upholds_ite (upholds_pure _) <| by
    split
    · exact upholds_pure _
    · exact upholds_pure _
    · exact upholds_bind (S.freeverbFrame _ _ _) fun _ => S.finishFrame _ _ _ _ _ _ _
    · exact upholds_bind (S.plateFrame _ _ _) fun _ => S.finishFrame _ _ _ _ _ _ _
    · exact upholds_bind (S.chorusFrame _ _ _) fun _ => S.finishFrame _ _ _ _ _ _ _
    · exact upholds_bind (S.hexaFrame _ _ _) fun _ => S.finishFrame _ _ _ _ _ _ _

theorem processFrame (i : Nat) (f : Word) : Upholds P (processFrame i f) :=
  upholds_bind upholds_getState fun _ => upholds_bind (upholds_memRead _) fun _ => upholds_bind (upholds_memRead _) fun _ =>
    upholds_bind (S.slotFrame _ _ _) fun _ => S.deliver _ _ _ _

theorem processFrames (i count : Nat) : ∀ f, Upholds P (processFrames i count f) := by
  induction count with
  | zero => exact fun _ => upholds_pure _
  | succ m ih => exact fun _ => upholds_bind (S.processFrame _ _) fun _ => ih _

theorem lazyInit (i : Nat) : Upholds P (lazyInit i) :=
  upholds_bind upholds_getState fun _ => upholds_ite (S.buildSlot _) (upholds_pure _)

end TidySlots

/-! ### Whole commands -/

/-- A whole command keeps a property: up to its end, where it may write an operand register, or to its halt. -/
def Concludes (P : State → Prop) (c : Cmd Unit) : Prop :=
  ∀ s, P s → match c s with
    | .ok _ t => ∃ t', P t' ∧ (t = t' ∨ ∃ rd v, t = State.withReg rd v t')
    | .error f t => ∃ t', P t' ∧ t = takeFatal f t' ∧ ∀ a, f = .badAddr a → t'.sramWords ≤ a.toNat

theorem Upholds.concludes {c : Cmd Unit} (h : Upholds P c) : Concludes P c := by
  intro s hs
  have kept := h s hs
  cases e : c s with
  | ok a t => exact ⟨t, by rwa [e] at kept, .inl rfl⟩
  | error f t => rwa [e] at kept

theorem concludes_writeReg (rd : Nat) (v : Word) : Concludes P (writeReg rd v) := fun s hs =>
  ⟨s, hs, .inr ⟨rd, v, rfl⟩⟩

theorem concludes_bind {c : Cmd α} {k : α → Cmd Unit} (hc : Upholds P c) (hk : ∀ a, Concludes P (k a)) :
    Concludes P (c >>= k) := by
  intro s hs
  have h := hc s hs
  rw [bind_run]
  cases e : c s with
  | ok a t =>
    rw [e] at h
    exact hk a t h
  | error f t =>
    rw [e] at h
    exact h

theorem concludes_ite {p : Prop} [Decidable p] {c d : Cmd Unit} (hc : Concludes P c) (hd : Concludes P d) :
    Concludes P (if p then c else d) := by
  split
  · exact hc
  · exact hd

/-! ### Guards -/

namespace Tidy

variable (S : Tidy P)
include S

theorem withFilter (u : Nat) {body : FilterUnit → Cmd Unit} (h : ∀ d, Concludes P (body d)) :
    Concludes P (withFilter u body) :=
  concludes_bind upholds_getState fun _ => by
    split
    · exact (S.raiseFlag _).concludes
    · exact h _

theorem withVoice (n : Nat) {free body : Cmd Unit} (hf : Concludes P free) (hb : Concludes P body) :
    Concludes P (withVoice n free body) :=
  concludes_bind upholds_getState fun _ => by
    split
    · exact (S.raiseFlag _).concludes
    · exact concludes_ite hf hb

theorem withSlot (i : Nat) {body : Cmd Unit} (h : Concludes P body) : Concludes P (withSlot i body) :=
  concludes_bind upholds_getState fun _ => concludes_ite h (S.raiseFlag _).concludes

end Tidy

/-! ### The commands, by what they write besides operand registers, filters and sample RAM -/

/-- What part of the state a command may write. -/
inductive Writes where
  | control | delay | lfo | voice | slot | plain

/-- The part a command may write. -/
def writes : Instr → Writes
  | .dlcfg _ _ _ => .delay
  | .dlwr _ _ => .delay
  | .dlrd _ _ _ => .delay
  | .dlmrd _ _ _ _ => .delay
  | .comb _ _ _ => .delay
  | .apf _ _ _ => .delay
  | .lfocfg _ _ _ => .lfo
  | .lfostep _ _ => .lfo
  | .envupd _ _ => .voice
  | .envamp _ _ => .voice
  | .tremupd _ => .voice
  | .menvupd _ => .voice
  | .mixsmooth _ => .voice
  | .mixv _ _ _ _ => .voice
  | .envstart _ => .voice
  | .envrel _ => .voice
  | .fxinit _ => .slot
  | .fxproc _ _ _ => .slot
  | .fxfree _ => .slot
  | .wrreg _ _ _ => .control
  | _ => .plain

theorem arithmetic_tidy {op : Int → Int → Cmd Int} (rd rs1 rs2 : Nat)
    (h : ∀ a b, Upholds P (op a b)) : Concludes P (arithmetic op rd rs1 rs2) :=
  concludes_bind (upholds_readRegS _) fun _ => concludes_bind (upholds_readRegS _) fun _ => concludes_bind (h _ _) fun _ =>
    concludes_writeReg _ _

/-- A command whose body keeps a property. -/
def RunsKeeping (P : State → Prop) (i : Instr) : Prop := ∀ s, ∃ c : Cmd Unit, exec i s = runCmd c s ∧ Concludes P c

/-- A command that writes no unit, voice or slot. -/
theorem plain_keeps (S : Tidy P)
    {i : Instr} (h : writes i = .plain) : RunsKeeping P i := by
  intro s
  cases i with
  | nop =>
    refine ⟨pure (), rfl, ?_⟩
    exact (upholds_pure _).concludes
  | lui rd imm =>
    refine ⟨writeReg rd (BitVec.ofNat 32 (imm * 2 ^ 10)), rfl, ?_⟩
    exact concludes_writeReg _ _
  | ori rd rs1 imm =>
    refine ⟨readReg rs1 >>= fun a => writeReg rd (a ||| BitVec.ofNat 32 imm), rfl, ?_⟩
    exact concludes_bind (upholds_readReg _) fun _ => concludes_writeReg _ _
  | adds rd a b =>
    refine ⟨_, rfl, ?_⟩
    exact arithmetic_tidy _ _ _ S.adds
  | subs rd a b =>
    refine ⟨_, rfl, ?_⟩
    exact arithmetic_tidy _ _ _ S.subs
  | rdreg rd a b =>
    refine ⟨readReg a >>= fun base => getState >>= fun t => writeReg rd (readControl t (controlAddress base b)), rfl, ?_⟩
    exact concludes_bind (upholds_readReg _) fun _ => concludes_bind upholds_getState fun _ =>
      concludes_writeReg _ _
  | lds rd a b =>
    refine ⟨_, rfl, ?_⟩
    exact concludes_bind (upholds_readReg _) fun _ => concludes_bind (upholds_memRead _) fun _ =>
      concludes_writeReg _ _
  | sts a b c =>
    refine ⟨_, rfl, ?_⟩
    exact concludes_bind (upholds_readReg _) fun _ => concludes_bind (upholds_readReg _) fun _ =>
      (S.memWrite _ _).concludes
  | accs a b c =>
    refine ⟨_, rfl, ?_⟩
    exact concludes_bind (upholds_readReg _) fun _ => concludes_bind (upholds_readRegS _) fun _ =>
      (S.memAccumulate _ _).concludes
  | fmul8 rd a b =>
    refine ⟨_, rfl, ?_⟩
    exact arithmetic_tidy _ _ _ (S.fmul 8)
  | fmul16 rd a b =>
    refine ⟨_, rfl, ?_⟩
    exact arithmetic_tidy _ _ _ (S.fmul 16)
  | fmul24 rd a b =>
    refine ⟨_, rfl, ?_⟩
    exact arithmetic_tidy _ _ _ (S.fmul 24)
  | fmul28 rd a b =>
    refine ⟨_, rfl, ?_⟩
    exact arithmetic_tidy _ _ _ (S.fmul 28)
  | fdiv8 rd a b =>
    refine ⟨_, rfl, ?_⟩
    exact arithmetic_tidy _ _ _ (S.fdiv 8)
  | fdiv16 rd a b =>
    refine ⟨_, rfl, ?_⟩
    exact arithmetic_tidy _ _ _ (S.fdiv 16)
  | fdiv24 rd a b =>
    refine ⟨_, rfl, ?_⟩
    exact arithmetic_tidy _ _ _ (S.fdiv 24)
  | fdiv28 rd a b =>
    refine ⟨_, rfl, ?_⟩
    exact arithmetic_tidy _ _ _ (S.fdiv 28)
  | bq rd a u =>
    refine ⟨_, rfl, ?_⟩
    exact S.withFilter u fun _ => concludes_bind (upholds_readRegS _) fun _ =>
      concludes_bind (S.sat32 _) fun _ => concludes_bind (S.setFilter _ _) fun _ => concludes_writeReg _ _
  | svf rd a u =>
    refine ⟨_, rfl, ?_⟩
    exact S.withFilter u fun _ => concludes_bind (upholds_readRegS _) fun _ =>
      concludes_bind (S.svfStep _ _ _ _) fun _ => concludes_bind (S.setFilter _ _) fun _ => concludes_writeReg _ _
  | moog rd a u =>
    refine ⟨_, rfl, ?_⟩
    exact S.withFilter u fun _ => concludes_bind (upholds_readRegS _) fun _ =>
      concludes_bind (S.moogStep _ _ _ _ _) fun _ => concludes_bind (S.setFilter _ _) fun _ => concludes_writeReg _ _
  | fclr u =>
    refine ⟨_, rfl, ?_⟩
    exact S.withFilter u fun _ => (S.setFilter _ _).concludes
  | busclr a b m =>
    refine ⟨_, rfl, ?_⟩
    exact concludes_bind (upholds_readReg _) fun _ => concludes_bind (upholds_readRegS _) fun _ =>
      concludes_bind (S.clearIf _ _ _ _) fun _ => concludes_bind (S.clearIf _ _ _ _) fun _ =>
        concludes_bind (S.clearIf _ _ _ _) fun _ => (S.clearIf _ _ _ _).concludes
  | _ => cases h

/-- A voice command. -/
theorem voice_keeps (S : TidyVoices P)
    {i : Instr} (h : writes i = .voice) : RunsKeeping P i := by
  have done : Concludes P (pure ()) := (upholds_pure _).concludes
  intro s
  cases i with
  | envupd rd n =>
    refine ⟨_, rfl, ?_⟩
    exact S.withVoice n (concludes_writeReg _ _) <| concludes_bind (S.updateSignal _ _) fun _ =>
      concludes_writeReg _ _
  | envamp rd n =>
    refine ⟨_, rfl, ?_⟩
    exact S.withVoice n (concludes_writeReg _ _) <| concludes_bind (S.envAmp _) fun _ =>
      concludes_writeReg _ _
  | tremupd n =>
    refine ⟨_, rfl, ?_⟩
    exact S.withVoice n done (S.tremUpdate _ _).concludes
  | menvupd n =>
    refine ⟨_, rfl, ?_⟩
    exact S.withVoice n done (S.modulate (S.menvStep _)).concludes
  | mixsmooth n =>
    refine ⟨_, rfl, ?_⟩
    exact S.withVoice n done (S.mixSmooth _).concludes
  | mixv rd a b n =>
    refine ⟨_, rfl, ?_⟩
    exact S.withVoice n (concludes_writeReg _ _) <| concludes_bind (upholds_readReg _) fun _ =>
      concludes_bind (upholds_readReg _) fun _ => concludes_bind (upholds_readVoice _) fun _ => concludes_ite (concludes_writeReg _ _) <|
        concludes_bind (upholds_ite (S.dieRamp _ _ _) (S.mixLive _ _ _)) fun _ => concludes_writeReg _ _
  | envstart n =>
    refine ⟨_, rfl, ?_⟩
    exact S.withVoice n done <| concludes_bind (S.writeVoice _ _) fun _ =>
      concludes_bind (S.envRecompute _ _) fun _ => concludes_ite done <|
        concludes_bind (S.modulate (upholds_bind (S.writeVoice _ _) fun _ => upholds_bind (S.menvRecompute _ _) fun _ =>
          S.menvApply _)) fun _ => concludes_bind (S.envAmp _) fun _ => done
  | envrel n =>
    refine ⟨_, rfl, ?_⟩
    exact S.withVoice n done <| concludes_bind (S.writeVoice _ _) fun _ =>
      concludes_bind (S.envRecompute _ _) fun _ => concludes_ite done <|
        concludes_bind (S.modulate (upholds_bind (S.writeVoice _ _) fun _ => upholds_bind (S.menvRecompute _ _) fun _ =>
          S.menvApply _)) fun _ => concludes_bind (S.envAmp _) fun _ => done
  | _ => cases h

/-- An effect command. -/
theorem slot_keeps (S : TidySlots P)
    {i : Instr} (h : writes i = .slot) : RunsKeeping P i := by
  intro s
  cases i with
  | fxinit i =>
    refine ⟨_, rfl, ?_⟩
    exact S.withSlot i (S.buildSlot _).concludes
  | fxproc a b i =>
    refine ⟨_, rfl, ?_⟩
    exact S.withSlot i <| concludes_bind (upholds_readReg _) fun _ =>
      concludes_bind (upholds_readReg _) fun _ => concludes_bind (S.lazyInit _) fun _ => concludes_bind upholds_getState fun _ =>
        concludes_ite (upholds_pure _).concludes (S.processFrames _ _ _).concludes
  | fxfree i =>
    refine ⟨_, rfl, ?_⟩
    exact S.withSlot i (S.modifySlot _ _).concludes
  | _ => cases h

/-- Such a property that writes of delay-line units keep, where the unit written meets a condition `G` that every unit of
the state meets. -/
structure TidyDelays (P : State → Prop) (G : DelayUnit → Prop) : Prop extends Tidy P where
  delay : ∀ u d s, G d → P s → P (State.setDelay u d s)
  known : ∀ (s : State) (u : Nat) d, P s → s.delays[u]? = some d → G d
  change : ∀ d l h x, G d → G { d with line := l, hist := h, store := x }
  configure : ∀ d base len, G d → G (configureDelay d base len)

section Delay

variable {G : DelayUnit → Prop} (S : TidyDelays P G)
include S

theorem TidyDelays.setDelay (u : Nat) {d : DelayUnit} (h : G d) : Upholds P (update (State.setDelay u d)) :=
  fun s => S.delay u d s h

theorem TidyDelays.withDelay (u : Nat) {body : DelayUnit → Cmd Unit} (h : ∀ d, G d → Concludes P (body d)) :
    Concludes P (withDelay u body) := by
  intro s hs
  by_cases configured : ∃ d, s.delays[u]? = some d ∧ d.valid = true
  · obtain ⟨d, hd, hv⟩ := configured
    rw [withDelay_ok hd hv]
    exact h d (S.known s u d hs hd) s hs
  · have off : ∀ d, s.delays[u]? = some d → d.valid = false := fun d hd =>
      Bool.eq_false_iff.2 fun hv => configured ⟨d, hd, hv⟩
    rw [withDelay_unconfigured off]
    exact ⟨_, S.flag .range s hs, .inl rfl⟩

/-- A delay-line command. -/
theorem delay_keeps {i : Instr} (h : writes i = .delay) : RunsKeeping P i := by
  intro s
  cases i with
  | dlcfg a b u =>
    refine ⟨_, rfl, concludes_bind (upholds_readReg _) fun base => concludes_bind (upholds_readReg _) fun len => ?_⟩
    intro t ht
    rw [bind_of_ok (getState_run t)]
    cases hd : t.delays[u]? with
    | none => exact ⟨_, S.flag .range t ht, .inl rfl⟩
    | some d =>
      have keeps : G (configureDelay d base len) := S.configure _ _ _ (S.known t u d ht hd)
      exact (upholds_ite (upholds_bind (S.clearWords _ _) fun _ => S.setDelay u keeps) (upholds_alloc _)).concludes t ht
  | dlwr a u =>
    refine ⟨_, rfl, ?_⟩
    exact S.withDelay u fun _ hd => concludes_bind (upholds_readRegS _) fun _ =>
      concludes_bind (S.linePush _ _) fun _ => (S.setDelay u (S.change _ _ _ _ hd)).concludes
  | dlrd rd a u =>
    refine ⟨_, rfl, ?_⟩
    exact S.withDelay u fun _ _ => concludes_bind (upholds_readRegS _) fun _ =>
      concludes_bind (S.lineTap _ _) fun _ => concludes_writeReg _ _
  | dlmrd rd a b u =>
    refine ⟨_, rfl, ?_⟩
    exact S.withDelay u fun _ hd => concludes_bind (upholds_readRegS _) fun _ =>
      concludes_bind (upholds_readRegS _) fun _ => concludes_bind (S.lineInterp _ _ _ _) fun _ =>
        concludes_bind (S.setDelay u (S.change _ _ _ _ hd)) fun _ => concludes_writeReg _ _
  | comb rd a u =>
    refine ⟨_, rfl, ?_⟩
    exact S.withDelay u fun _ hd => concludes_bind (upholds_readRegS _) fun _ =>
      concludes_bind (S.combStep _ _ _ _ _) fun _ => concludes_bind (S.setDelay u (S.change _ _ _ _ hd)) fun _ =>
        concludes_writeReg _ _
  | apf rd a u =>
    refine ⟨_, rfl, ?_⟩
    exact S.withDelay u fun _ hd => concludes_bind (upholds_readRegS _) fun _ =>
      concludes_bind (S.apfStep _ _ _) fun _ => concludes_bind (S.setDelay u (S.change _ _ _ _ hd)) fun _ =>
        concludes_writeReg _ _
  | _ => cases h

end Delay

/-- An LFO command. -/
theorem lfo_keeps (S : Tidy P) (L : ∀ u l, Upholds P (update (State.setLfo u l)))
    {i : Instr} (h : writes i = .lfo) : RunsKeeping P i := by
  intro s
  cases i with
  | lfocfg a b u =>
    refine ⟨_, rfl, concludes_bind (upholds_readReg _) fun _ => concludes_bind (upholds_readReg _) fun _ =>
      concludes_bind upholds_getState fun _ => ?_⟩
    split
    · exact (S.raiseFlag _).concludes
    · exact concludes_bind (S.raiseFlagIf _ _) fun _ => (L _ _).concludes
  | lfostep rd u =>
    refine ⟨_, rfl, concludes_bind upholds_getState fun _ => ?_⟩
    split
    · exact (S.raiseFlag _).concludes
    · exact concludes_ite (S.raiseFlag _).concludes (concludes_bind (S.waveAt _ _) fun _ => concludes_bind (L _ _) fun _ =>
        concludes_writeReg _ _)
  | _ => cases h

/-! ### What becomes of the state -/

theorem writes_ne_control {s : State} {i : Instr} (h : controlWrite s i = none) : writes i ≠ .control := by
  cases i <;> first | (cases h; done) | exact nofun

/-- A property that every write of a unit, voice or slot keeps is kept by every command but WRREG. -/
theorem runsKeeping_of_tidy {s : State} {i : Instr} (hi : controlWrite s i = none) (S : Tidy P)
    (voices : ∀ vs s, P s → P { s with voices := vs }) (delays : ∀ ds s, P s → P { s with delays := ds })
    (lfos : ∀ ls s, P s → P { s with lfos := ls }) (slots : ∀ xs s, P s → P { s with slots := xs }) :
    RunsKeeping P i := by
  cases hw : writes i with
  | control => exact absurd hw (writes_ne_control hi)
  | delay =>
    have D : TidyDelays P fun _ => True := { S with
      delay := fun _ _ s _ hs => delays _ s hs
      known := fun _ _ _ _ _ => trivial
      change := fun _ _ _ _ _ => trivial
      configure := fun _ _ _ _ => trivial }
    exact delay_keeps D hw
  | lfo => exact lfo_keeps S (fun _ _ s hs => lfos _ s hs) hw
  | voice => exact voice_keeps { S with voice := fun _ _ s hs => voices _ s hs } hw
  | slot => exact slot_keeps { S with slot := fun _ _ s hs => slots _ s hs, modify := fun _ _ s hs => slots _ s hs } hw
  | plain => exact plain_keeps S hw

/-- How a command ends: completed, after it wrote an operand register or none, or halted. -/
theorem RunsKeeping.outcome {i : Instr} (R : RunsKeeping P i) {s t : State} (hs : P s) (he : exec i s = .next t) :
    (∃ u, P u ∧ (t = completeCommand u ∨ ∃ rd v, t = completeCommand (State.withReg rd v u))) ∨
      ∃ f u, P u ∧ t = takeFatal f u ∧ ∀ a, f = .badAddr a → u.sramWords ≤ a.toNat := by
  obtain ⟨c, run, keeps⟩ := R s
  have kept := keeps s hs
  rw [run] at he
  rcases runCmd_cases c s with ⟨u, hu, hn⟩ | ⟨e, u, hu, hn⟩ <;> rw [hu] at kept <;> rw [hn] at he <;>
    rw [← Host.Outcome.next.inj he]
  · obtain ⟨u', hu', rfl | ⟨rd, v, rfl⟩⟩ := kept
    · exact .inl ⟨u, hu', .inl rfl⟩
    · exact .inl ⟨u', hu', .inr ⟨rd, v, rfl⟩⟩
  · obtain ⟨u', hu', rfl, outside⟩ := kept
    exact .inr ⟨e, u', hu', rfl, outside⟩

/-- A command whose body keeps a property keeps it, where its last steps do. -/
theorem RunsKeeping.preserves {i : Instr} (R : RunsKeeping P i) (reg : ∀ rd v u, P u → P (State.withReg rd v u))
    (complete : ∀ u, P u → P (completeCommand u)) (halt : ∀ f u, P u → P (takeFatal f u)) {s t : State} (hs : P s)
    (he : exec i s = .next t) : P t := by
  rcases R.outcome hs he with ⟨u, hu, rfl | ⟨rd, v, rfl⟩⟩ | ⟨f, u, hu, rfl, -⟩
  · exact complete u hu
  · exact complete _ (reg rd v u hu)
  · exact halt f u hu

end Sys2Proof.Proofs
end

section
/-! One step of the machine: the host's accesses, the halt, and what every step keeps. -/

namespace Sys2Proof.Proofs

open Sys2Proof.Machine Sys2Proof.Claims

/-! ### What the oldest access does -/

theorem step_nil {s : State} (h : s.port = []) : step s = .next s := by
  unfold step portStep
  rw [h]

theorem step_read {s : State} {w : Width} {a : Word} {rest : List HostAccess} (h : s.port = .read w a :: rest) :
    step s = .next (hostRead w a { s with port := rest }) := by
  unfold step portStep
  rw [h]

theorem step_write {s : State} {w : Width} {a v : Word} {rest : List HostAccess} (h : s.port = .write w a v :: rest) :
    step s = hostWrite exec w a v { s with port := rest } := by
  unfold step portStep
  rw [h]

theorem performed_iff (w : Width) (a : Word) : performed w a = true ↔ w = .word ∧ a.toNat % 4 = 0 := by
  unfold performed
  simp only [Bool.and_eq_true, beq_iff_eq, decide_eq_true_eq]

theorem hostRead_of_not_performed {w : Width} {a : Word} (h : ¬ (w = .word ∧ a.toNat % 4 = 0)) (s : State) :
    hostRead w a s = { s with hostData := 0 } := by
  unfold hostRead
  rw [if_neg (by rwa [performed_iff])]

theorem hostRead_of_performed {a : Word} (h : a.toNat % 4 = 0) (s : State) :
    hostRead .word a s = { (hostReadWord s a).2 with hostData := (hostReadWord s a).1 } := by
  unfold hostRead
  rw [if_pos ((performed_iff _ _).2 ⟨rfl, h⟩)]

theorem hostWrite_of_not_performed {w : Width} {a : Word} (h : ¬ (w = .word ∧ a.toNat % 4 = 0))
    (run : Instr → State → Host.Outcome State Fault Refusal) (v : Word) (s : State) :
    hostWrite run w a v s = .next s := by
  unfold hostWrite
  rw [if_neg (by rwa [performed_iff])]

/-- A performed write of the host, by what its address selects. -/
theorem hostWrite_of_target {a : Word} {s : State} (h : a.toNat % 4 = 0)
    (run : Instr → State → Host.Outcome State Fault Refusal) (v : Word) :
    hostWrite run .word a v s = match hostTarget s a with
      | .control a => .next (writeControl a v s)
      | .command => runWord run v s
      | .tram a => .next (State.withTramWord a v s)
      | .sram a => .next (State.withSramWord a v s)
      | .nothing => .next s := by
  unfold hostWrite
  exact if_pos ((performed_iff _ _).2 ⟨rfl, h⟩)

theorem hostTarget_commandPort (s : State) : hostTarget s commandPortAddress = .command := rfl

/-- A write of the command port runs the word. -/
theorem step_commandPort {s : State} {w : Word} {rest : List HostAccess}
    (h : s.port = .write .word commandPortAddress w :: rest) : step s = runWord exec w { s with port := rest } := by
  rw [step_write h, hostWrite_of_target (by decide), hostTarget_commandPort]

theorem runWord_of_fatal {s : State} (h : s.fatal = true) (run : Instr → State → Host.Outcome State Fault Refusal)
    (w : Word) : runWord run w s = .next s := by
  unfold runWord
  rw [if_pos h]

theorem runWord_of_decode {s : State} {w : Word} {i : Instr} (h : s.fatal = false) (hd : decode w = .ok i)
    (run : Instr → State → Host.Outcome State Fault Refusal) : runWord run w s = run i { s with cmd := w } := by
  unfold runWord
  rw [h, hd]
  rfl

theorem runWord_of_unassigned {s : State} {w : Word} {e : DecodeError} (h : s.fatal = false) (hd : decode w = .error e)
    (run : Instr → State → Host.Outcome State Fault Refusal) :
    runWord run w s = .next (illegalCommand { s with cmd := w }) := by
  unfold runWord
  rw [h, hd]
  rfl

/-- Settles O4: the command port selects the decoder. -/
theorem stepRunsDecodedCommand : Obligations.StepRunsDecodedCommand := by
  intro s w rest i hp hf hd
  rw [step_commandPort hp]
  exact runWord_of_decode (s := { s with port := rest }) hf hd exec

/-! ### Unassigned opcodes -/

/-- The opcode map: a word decodes exactly when its opcode is assigned (30_encoding.md R210, R220). -/
theorem decode_ok_iff (w : Word) : (∃ i, decode w = .ok i) ↔ unassignedOpcode (fieldOp w) = false := by
  have hlt := (word_fields w).1
  unfold decode
  constructor
  · intro h
    split at h <;> rename_i hop
    case h_43 => obtain ⟨i, hi⟩ := h; cases hi
    all_goals
      rw [hop]
      rfl
  · intro h
    split
    case h_43 =>
      exfalso
      simp only [unassignedOpcode, decide_eq_false_iff_not] at h
      simp only [imp_false] at *
      omega
    all_goals exact ⟨_, rfl⟩

/-- Settles O5: the opcodes of the list are the ones the decoder has no command for. -/
theorem unassignedOpcodeCompletes : Obligations.UnassignedOpcodeCompletes := by
  refine ⟨fun w h => (decode_ok_iff w).2 h, ?_⟩
  intro s w rest hp hf hop
  rw [step_commandPort hp]
  cases hd : decode w with
  | ok i =>
    have := (decode_ok_iff w).1 ⟨i, hd⟩
    rw [hop] at this
    cases this
  | error e => exact runWord_of_unassigned (s := { s with port := rest }) hf hd exec

/-! ### Writes of control registers -/

theorem exec_wrreg (rs1 rs2 imm : Nat) (s : State) : exec (.wrreg rs1 rs2 imm) s =
    .next (completeCommand (writeControl (controlAddress (s.reg rs1) imm) (s.reg rs2) s)) := rfl

/-- What the halt, the count and the operand registers are made of. -/
def HaltKept (s t : State) : Prop :=
  t.fatal = s.fatal ∧ t.fatalCause = s.fatalCause ∧ t.fatalInfo = s.fatalInfo ∧ t.fatalAddr = s.fatalAddr ∧
    t.cmdSeq = s.cmdSeq ∧ t.regs = s.regs

theorem HaltKept.refl (s : State) : HaltKept s s := ⟨rfl, rfl, rfl, rfl, rfl, rfl⟩

/-- The sticky flags are bits 0 to 3, so clearing them leaves FATAL. -/
theorem getLsbD_and_not_sticky (w v : Word) : (w &&& ~~~(v &&& stickyMask)).getLsbD 4 = w.getLsbD 4 := by
  have : stickyMask.getLsbD 4 = false := by decide
  rw [BitVec.getLsbD_and, BitVec.getLsbD_not, BitVec.getLsbD_and, this]
  simp

/-- Only a write of 1 to RESET touches a halt. -/
theorem writeControl_haltKept {a : Nat} {v : Word} (h : ¬ (a = 9 ∧ v = 1)) (s : State) :
    HaltKept s (writeControl a v s) := by
  unfold writeControl
  split
  · unfold writeGlobal
    split
    case h_1 => exact ⟨by rw [fatal_eq, fatal_eq]; exact getLsbD_and_not_sticky _ _, rfl, rfl, rfl, rfl, rfl⟩
    case h_9 =>
      rw [if_neg fun hv => h ⟨rfl, hv⟩]
      exact HaltKept.refl s
    case h_13 => split <;> exact HaltKept.refl s
    all_goals exact HaltKept.refl s
  · split_ifs <;> exact HaltKept.refl s

theorem resetBlock_fatal (s : State) : (resetBlock s).fatal = false := by
  rw [fatal_eq]
  exact BitVec.getLsbD_zero

theorem writeControl_reset (s : State) : writeControl 9 1 s = resetBlock s := rfl

/-- No write of a control register raises a halt. -/
theorem writeControl_fatal {s : State} (h : s.fatal = false) (a : Nat) (v : Word) :
    (writeControl a v s).fatal = false := by
  by_cases ha : a = 9 ∧ v = 1
  · obtain ⟨rfl, rfl⟩ := ha
    exact resetBlock_fatal s
  · exact (writeControl_haltKept ha s).1.trans h

/-! ### Addresses of the host -/

theorem hostTarget_control {s : State} {a : Word} (h : a.toNat < 0x40000) :
    hostTarget s a = .control (a.toNat / 4) := by
  unfold hostTarget
  rw [if_pos h]

theorem ne_commandPort {a : Word} (h : a.toNat ≠ 0x40000) : a ≠ commandPortAddress := by
  rintro rfl
  exact h rfl

theorem hostTarget_tram {s : State} {a : Word} (h : 0x100000 ≤ a.toNat ∧ a.toNat < 0x100000 + 4 * 2560) :
    hostTarget s a = .tram ((a.toNat - 0x100000) / 4) := by
  unfold hostTarget
  exact (if_neg (by omega)).trans ((if_neg (ne_commandPort (by omega))).trans (if_pos h))

theorem hostTarget_sram {s : State} {a : Word}
    (h : 0x1000000 ≤ a.toNat ∧ a.toNat < 0x1000000 + 4 * s.sramWords) :
    hostTarget s a = .sram ((a.toNat - 0x1000000) / 4) := by
  have tram : ¬ (0x100000 ≤ a.toNat ∧ a.toNat < 0x100000 + 4 * Config.tramWords) := by
    unfold Config.tramWords
    omega
  unfold hostTarget
  rw [if_neg (by omega), if_neg (ne_commandPort (by omega)), if_neg tram, if_pos (by omega)]

theorem hostTarget_nothing {s : State} {a : Word} (h0 : ¬ a.toNat < 0x40000) (h1 : a.toNat ≠ 0x40000)
    (h2 : ¬ (0x100000 ≤ a.toNat ∧ a.toNat < 0x100000 + 4 * 2560))
    (h3 : ¬ (0x1000000 ≤ a.toNat ∧ a.toNat < 0x1000000 + 4 * s.sramWords)) : hostTarget s a = .nothing := by
  unfold hostTarget
  exact (if_neg h0).trans ((if_neg (ne_commandPort h1)).trans ((if_neg h2).trans (if_neg (by omega))))

/-- The command port is selected by its own address only. -/
theorem eq_commandPort_of_target {s : State} {a : Word} (h : hostTarget s a = .command) : a = commandPortAddress := by
  unfold hostTarget at h
  simp only at h
  split at h
  · cases h
  · split at h
    · assumption
    · split at h
      · cases h
      · split at h <;> cases h

/-- A host write to a control register is a write of 1 to RESET only by the access that spells it. -/
theorem control_reset_address {s : State} {a : Word} (h4 : a.toNat % 4 = 0)
    (h : hostTarget s a = .control 9) : a = 0x24 := by
  unfold hostTarget at h
  simp only at h
  split at h
  · have := HostTarget.control.inj h
    exact BitVec.eq_of_toNat_eq (by show a.toNat = 36; omega)
  · split at h
    · cases h
    · split at h
      · cases h
      · split at h <;> cases h

theorem hostRead_haltKept (w : Width) (a : Word) (s : State) : HaltKept s (hostRead w a s) := by
  unfold hostRead
  split
  · unfold hostReadWord
    split <;> exact HaltKept.refl s
  · exact HaltKept.refl s

/-- Settles O6: a halted block runs no word, and no other access but the RESET write reaches the halt. -/
theorem haltEndsOnlyByReset : Obligations.HaltEndsOnlyByReset := by
  intro s hs
  refine ⟨?_, ?_⟩
  · intro w rest hp
    rw [step_commandPort hp]
    exact runWord_of_fatal (s := { s with port := rest }) hs exec w
  · intro a rest hp ha
    have keeps : ∃ t, step s = .next t ∧ HaltKept s t := by
      cases a with
      | read w addr => exact ⟨_, step_read hp, hostRead_haltKept w addr { s with port := rest }⟩
      | write w addr v =>
        rw [step_write hp]
        by_cases hw : w = .word ∧ addr.toNat % 4 = 0
        · obtain ⟨rfl, h4⟩ := hw
          rw [hostWrite_of_target h4]
          cases ht : hostTarget { s with port := rest } addr with
          | control k =>
            refine ⟨_, rfl, writeControl_haltKept ?_ { s with port := rest }⟩
            rintro ⟨rfl, rfl⟩
            exact ha (by rw [control_reset_address h4 ht])
          | command => exact ⟨_, runWord_of_fatal (s := { s with port := rest }) hs exec v, HaltKept.refl s⟩
          | tram k => exact ⟨_, rfl, HaltKept.refl s⟩
          | sram k => exact ⟨_, rfl, HaltKept.refl s⟩
          | nothing => exact ⟨_, rfl, HaltKept.refl s⟩
        · exact ⟨_, hostWrite_of_not_performed hw exec v _, HaltKept.refl s⟩
    obtain ⟨t, ht, hf, hc, hi, haddr, hq, hr⟩ := keeps
    exact ⟨t, ht, hf.trans hs, hc, hi, haddr, hq, hr⟩

/-! ### What every step keeps -/

/-- What each kind of step makes of a property `P`: the property `Q`, which a counted command keeps. -/
structure StepRules (P Q : State → Prop) : Prop where
  idle : ∀ s, P s → Q s
  host : ∀ p c d n s, P s → P { s with port := p, cmd := c, hostData := d, freeCount := n }
  control : ∀ a v s, P s → Q (writeControl a v s)
  tram : ∀ a v s, P s → Q (State.withTramWord a v s)
  sram : ∀ a v s, P s → Q (State.withSramWord a v s)
  illegal : ∀ s, P s → Q (State.withFlag .ill s)
  complete : ∀ s, Q s → Q (completeCommand s)
  command : ∀ i s t, controlWrite s i = none → P s → exec i s = .next t → Q t

theorem StepRules.step {P Q : State → Prop} (R : StepRules P Q) {s t : State} (hs : P s) (h : step s = .next t) :
    Q t := by
  have becomes : ∀ {u : State}, Q u → Machine.step s = .next u → Q t := by
    intro u hu e
    rw [h] at e
    rwa [Host.Outcome.next.inj e]
  cases hp : s.port with
  | nil => exact becomes (R.idle s hs) (step_nil hp)
  | cons a rest =>
    have hs' : P { s with port := rest } := R.host _ _ _ _ s hs
    cases a with
    | read w addr =>
      refine becomes ?_ (step_read hp)
      unfold hostRead
      split
      · unfold hostReadWord
        split <;> exact R.idle _ (R.host _ _ _ _ s hs)
      · exact R.idle _ (R.host _ _ _ _ s hs)
    | write w addr v =>
      have hw := step_write hp
      by_cases performs : w = .word ∧ addr.toNat % 4 = 0
      · obtain ⟨rfl, h4⟩ := performs
        rw [hostWrite_of_target h4] at hw
        cases target : hostTarget { s with port := rest } addr <;> rw [target] at hw
        case control k => exact becomes (R.control _ _ _ hs') hw
        case tram k => exact becomes (R.tram _ _ _ hs') hw
        case sram k => exact becomes (R.sram _ _ _ hs') hw
        case nothing => exact becomes (R.idle _ hs') hw
        case command =>
          have hcmd : P { s with port := rest, cmd := v } := R.host _ _ _ _ s hs
          cases hf : s.fatal with
          | true => exact becomes (R.idle _ hs') (hw.trans (runWord_of_fatal (s := { s with port := rest }) hf exec v))
          | false =>
            cases hd : decode v with
            | error e =>
              exact becomes (R.complete _ (R.illegal _ hcmd))
                (hw.trans (runWord_of_unassigned (s := { s with port := rest }) hf hd exec))
            | ok i =>
              have run := hw.trans (runWord_of_decode (s := { s with port := rest }) hf hd exec)
              cases hi : controlWrite { s with port := rest, cmd := v } i with
              | none => exact R.command _ _ _ hi hcmd (run.symm.trans h)
              | some _ =>
                cases i with
                | wrreg rs1 rs2 imm => exact becomes (R.complete _ (R.control _ _ _ hcmd)) run
                | _ => cases hi
      · exact becomes (R.idle _ hs') (hw.trans (hostWrite_of_not_performed performs exec v _))

/-! ### The faults of a run -/

/-- A step that ends in a halt it did not begin in records a cause. -/
theorem cause_of_halting {s t : State} (hs : s.fatal = false) (h : step s = .next t) (ht : t.fatal = true) :
    t.fatalCause ≠ .none := by
  have running : ∀ u : State, u.fatal = false → u.fatal = true → u.fatalCause ≠ .none := by
    intro u hf ht
    rw [hf] at ht
    cases ht
  have rules : StepRules (fun u => u.fatal = false) (fun u => u.fatal = true → u.fatalCause ≠ .none) := {
    idle := fun u hu => running u hu
    host := fun _ _ _ _ _ hu => hu
    control := fun a v u hu => running _ (writeControl_fatal hu a v)
    tram := fun a v u hu => running (State.withTramWord a v u) hu
    sram := fun a v u hu => running (State.withSramWord a v u) hu
    illegal := fun u hu => running _ ((withFlag_fatal .ill u).trans hu)
    complete := fun _ hu => hu
    command := fun i u u' hi hu he hf => ((commandsAreCounted i u u' hu hi he).2 hf).2.2 }
  exact rules.step hs h ht

/-- Settles O7: a halt always records a cause, and `verdict` reads it. -/
theorem haltIsAFault : Obligations.HaltIsAFault := by
  intro s t hs h
  unfold Safety.verdict Safety.recordedFault
  rw [h, hs]
  refine ⟨fun ht => ?_, fun ht => ?_⟩
  · simp only [ht, Bool.false_eq_true, if_false]
  · have cause := cause_of_halting hs h ht
    cases e : t.fatalCause with
    | none => exact absurd e cause
    | badAddr => simp only [ht, e, if_true, Bool.false_eq_true, if_false]
    | alloc => simp only [ht, e, if_true, Bool.false_eq_true, if_false, reduceCtorEq]

/-- Settles O8: the word at byte address 0x24 is RESET. -/
theorem resetWriteResets : Obligations.ResetWriteResets := by
  intro s rest hp
  refine ⟨resetBlock { s with port := rest }, ?_, resetBlock_fatal _, rfl⟩
  rw [step_write hp, hostWrite_of_target (by decide), hostTarget_control (by decide)]
  rfl

/-! ### Host accesses -/

/-- The bytes of a word, low byte first (20_memory.md R162). -/
theorem extract_wordOfBytes (b : Nat → Byte) {j : Nat} (hj : j < 4) :
    (wordOfBytes (b 0) (b 1) (b 2) (b 3)).extractLsb' (8 * j) 8 = b j := by
  apply BitVec.eq_of_getLsbD_eq
  intro i hi
  rw [extract_byte _ _ _ hi, wordOfBytes_getLsbD]
  interval_cases j
  · rw [if_pos (by omega)]; congr 1; omega
  · rw [if_neg (by omega), if_pos (by omega)]; congr 1; omega
  · rw [if_neg (by omega), if_neg (by omega), if_pos (by omega)]; congr 1; omega
  · rw [if_neg (by omega), if_neg (by omega), if_neg (by omega)]; congr 1; omega

theorem memByte_eq_extract (init : Nat → Byte) (m : Memory) (k : Nat) {j : Nat} (hj : j < 4) :
    memByte init m (4 * k + j) = (memWord init m k).extractLsb' (8 * j) 8 :=
  (extract_wordOfBytes (fun j => memByte init m (4 * k + j)) hj).symm

theorem readWord_step {s : State} {a : Word} {rest : List HostAccess} (hp : s.port = .read .word a :: rest)
    (h4 : a.toNat % 4 = 0) : step s = .next { (hostReadWord { s with port := rest } a).2 with
      hostData := (hostReadWord { s with port := rest } a).1 } := by
  rw [step_read hp, hostRead_of_performed h4]

/-- Settles O9: each access by the target its address selects. -/
theorem hostAccessResults : Obligations.HostAccessResults := by
  refine ⟨?_, ?_, ?_, ?_, ?_⟩
  · intro s k j hj
    exact ⟨memByte_eq_extract _ _ k hj, memByte_eq_extract _ _ k hj⟩
  · exact fun s hp => step_nil hp
  · intro s w a v rest hw
    have narrow : ¬ (w = .word ∧ a.toNat % 4 = 0) := by tauto
    refine ⟨fun hp => ?_, fun hp => ?_⟩
    · rw [step_read hp, hostRead_of_not_performed narrow]
    · rw [step_write hp, hostWrite_of_not_performed narrow]
  · intro s a rest hp h4
    have read := readWord_step hp h4
    unfold hostReadWord at read
    simp only
    split_ifs with h0 h1 h2 h3
    · rw [read, hostTarget_control h0]
      rfl
    · obtain rfl : a = commandPortAddress := BitVec.eq_of_toNat_eq h1
      rw [read, hostTarget_commandPort]
    · rw [read, hostTarget_tram h2]
      rfl
    · rw [read, hostTarget_sram (s := { s with port := rest }) h3]
      rfl
    · rw [read, hostTarget_nothing (s := { s with port := rest }) h0 h1 h2 h3]
  · intro s a v rest hp h4
    have write := (step_write hp).trans (hostWrite_of_target h4 exec v)
    simp only
    split_ifs with h0 h1 h2 h3
    · rw [write, hostTarget_control h0]
    · rw [hostTarget_tram h2] at write
      refine ⟨_, write, rfl, ?_, fun b hb => memByte_memPutWord_of_ne _ _ _ _ _ (by omega)⟩
      exact (memWord_memPutWord _ _ _ _ _).trans (if_pos rfl)
    · rw [hostTarget_sram (s := { s with port := rest }) h3] at write
      refine ⟨_, write, rfl, ?_, fun b hb => memByte_memPutWord_of_ne _ _ _ _ _ (by omega)⟩
      exact (memWord_memPutWord _ _ _ _ _).trans (if_pos rfl)
    · rw [write, hostTarget_nothing (s := { s with port := rest }) h0 h1 h2 h3]

/-! ### The form of the memories -/

theorem canonical_tidy : Tidy MemoryCanonical where
  flag _ _ h := h
  word _ _ _ h := ⟨memPutWord_wf _ _ _ h.1, h.2⟩
  zero _ _ _ h := ⟨memZeroWords_wf _ _ _ h.1, h.2⟩
  filter _ _ _ h := h

theorem canonical_runs {s : State} (i : Instr) (h : controlWrite s i = none) : RunsKeeping MemoryCanonical i :=
  runsKeeping_of_tidy h canonical_tidy (fun _ _ h => h) (fun _ _ h => h) (fun _ _ h => h) fun _ _ h => h

/-- No control register is kept in RAM, and RESET keeps both. -/
theorem writeControl_rams (a : Nat) (v : Word) (s : State) :
    (writeControl a v s).sram = s.sram ∧ (writeControl a v s).tram = s.tram := by
  unfold writeControl
  split
  · unfold writeGlobal
    split <;> first | exact ⟨rfl, rfl⟩ | (split <;> exact ⟨rfl, rfl⟩)
  · split_ifs <;> exact ⟨rfl, rfl⟩

/-- Settles O13: memory is written word by word, each of which keeps the form. -/
theorem stepKeepsMemoryCanonical : Obligations.StepKeepsMemoryCanonical := by
  have rules : StepRules MemoryCanonical MemoryCanonical := {
    idle := fun _ h => h
    host := fun _ _ _ _ _ h => h
    control := fun a v s h => by
      obtain ⟨hsram, htram⟩ := writeControl_rams a v s
      unfold MemoryCanonical
      rwa [hsram, htram]
    tram := fun a v s h => ⟨h.1, memPutWord_wf _ _ _ h.2⟩
    sram := fun a v s h => ⟨memPutWord_wf _ _ _ h.1, h.2⟩
    illegal := fun _ h => h
    complete := fun _ h => h
    command := fun i s t hi hs he => 
      (canonical_runs i hi).preserves (fun _ _ _ h => h) (fun _ h => h) (fun _ _ h => h) hs he }
  exact fun s t hs h => rules.step hs h

end Sys2Proof.Proofs
end

section
/-! Commands outside the units: arithmetic identities, loads and stores, BUSCLR, bad addresses, missing units and FREE
voices. -/

namespace Sys2Proof.Proofs

open Sys2Proof.Machine Sys2Proof.Claims

/-! ### Arithmetic identities (40_fixedpoint.md R254, R255) -/

theorem sat32_of_fits {v : Int} (h : fits32 v = true) (s : State) : sat32 v s = .ok v s := by
  rw [sat32_run, sat32Value_of_fits h, if_pos h]

theorem sat32_of_large {v : Int} (h : 2147483647 < v) (s : State) :
    sat32 v s = .ok (2 ^ 31 - 1) { s with status := s.status ||| 1 } := by
  have unfit : ¬ fits32 v = true := by
    rw [fits32_iff]
    omega
  have value : sat32Value v = 2 ^ 31 - 1 := by
    unfold sat32Value clampInt minWord maxWord
    rw [if_neg (by omega), if_pos (by omega)]
    rfl
  rw [sat32_run, value, if_neg unfit]
  rfl

theorem fits32_toInt (a : Word) : fits32 a.toInt = true := (fits32_iff _).2 (word_toInt_bounds a)

theorem fmul_of_fits {q : Nat} {a b v : Int} (hv : fmulExact q a b = v) (h : fits32 v = true) (s : State) :
    fmul q a b s = .ok v s := by
  subst hv
  exact sat32_of_fits h s

theorem fdiv_of_fits {q : Nat} {a b v : Int} (hb : b ≠ 0) (hv : Int.tdiv (a * 2 ^ q) b = v) (h : fits32 v = true)
    (s : State) : fdiv q a b s = .ok v s := by
  subst hv
  rw [fdiv_run, if_neg hb, sat32Value_of_fits h, if_pos h]

theorem fmulExact_one (q : Nat) (a : Int) : fmulExact q a (2 ^ q) = a :=
  Int.mul_ediv_cancel a (by positivity)

theorem fmulExact_comm (q : Nat) (a b : Int) : fmulExact q a b = fmulExact q b a := by
  unfold fmulExact
  rw [mul_comm]

/-- Settles O20: each identity is one about the exact product or quotient, which then fits or is clamped. -/
theorem arithmeticIdentities : Obligations.ArithmeticIdentities := by
  intro s a b q hq
  have small : 1 ≤ q ∧ q ≤ 28 := by
    simp only [List.mem_cons, List.not_mem_nil, or_false] at hq
    omega
  have below : (2 : Int) ^ q ≤ 2 ^ 28 := pow_le_pow_right₀ (by decide) small.2
  have above : (2 : Int) ^ 1 ≤ 2 ^ q := pow_le_pow_right₀ (by decide) small.1
  have positive : (0 : Int) < 2 ^ q := by positivity
  refine ⟨fmul_of_fits (fmulExact_one q _) (fits32_toInt a) s, ?_, ?_, ?_, ?_, ?_, ?_, ?_⟩
  · refine fmul_of_fits ?_ (by decide) s
    unfold fmulExact
    rw [mul_zero, Int.zero_ediv]
  · refine fmul_of_fits ?_ (by decide) s
    unfold fmulExact
    rw [mul_one]
    exact Int.ediv_eq_neg_one_of_neg_of_le (by decide) (by omega)
  · unfold fmul
    rw [fmulExact_comm]
  · refine sat32_of_large ?_ s
    have : (2 : Int) ^ 34 ≤ fmulExact q (-2 ^ 31) (-2 ^ 31) := by
      unfold fmulExact
      rw [Int.le_ediv_iff_mul_le positive]
      linarith
    omega
  · refine fdiv_of_fits positive.ne' (Int.mul_tdiv_cancel _ positive.ne') (fits32_toInt a) s
  · unfold fdiv
    rw [if_neg (by decide)]
    refine sat32_of_large ?_ s
    have : Int.tdiv (-2 ^ 31 * 2 ^ q) (-1) = 2 ^ 31 * 2 ^ q := by
      rw [Int.tdiv_neg, Int.tdiv_one]
      ring
    rw [this]
    linarith
  · rintro quotient rfl hb fits fitsNeg
    have hb' : b.toInt ≠ 0 := fun h => hb (BitVec.eq_of_toInt_eq (by rw [h]; rfl))
    refine ⟨fdiv_of_fits hb' rfl fits s, fdiv_of_fits hb' ?_ fitsNeg s, ?_⟩
    · rw [neg_mul, Int.neg_tdiv]
    · rw [Int.natAbs_tdiv, Int.natAbs_mul, Int.natAbs_pow]
      rfl

/-! ### Loads and stores (40_fixedpoint.md R265, R266, R269) -/

theorem effectiveAddress_toNat (base : Word) (imm : Nat) :
    (effectiveAddress base imm).toNat = (base.toNat + imm) % 2 ^ 32 := by
  unfold effectiveAddress
  rw [BitVec.toNat_add, BitVec.toNat_ofNat, Nat.add_mod_mod]

theorem exec_lds {s : State} {rs1 imm : Nat} (rd : Nat)
    (h : (effectiveAddress (s.reg rs1) imm).toNat < s.sramWords) : exec (.lds rd rs1 imm) s =
      .next (completeCommand (State.withReg rd (s.sramWord (effectiveAddress (s.reg rs1) imm).toNat) s)) := by
  refine runCmd_of_ok ?_
  rw [bind_of_ok (readReg_run rs1 s), bind_of_ok (memRead_run_of_lt h), writeReg_run]

theorem exec_sts {s : State} {rs1 imm : Nat} (rs2 : Nat)
    (h : (effectiveAddress (s.reg rs1) imm).toNat < s.sramWords) : exec (.sts rs1 rs2 imm) s =
      .next (completeCommand (State.withSramWord (effectiveAddress (s.reg rs1) imm).toNat (s.reg rs2) s)) := by
  refine runCmd_of_ok ?_
  rw [bind_of_ok (readReg_run rs1 s), bind_of_ok (readReg_run rs2 s), memWrite_run_of_lt h]

theorem exec_accs {s : State} {rs1 imm : Nat} (rs2 : Nat)
    (h : (effectiveAddress (s.reg rs1) imm).toNat < s.sramWords) : exec (.accs rs1 rs2 imm) s =
      .next (completeCommand (State.withSramWord (effectiveAddress (s.reg rs1) imm).toNat
        (wordOf (narrow ((s.sramWord (effectiveAddress (s.reg rs1) imm).toNat).toInt + (s.reg rs2).toInt)))
        (s.narrowed [(s.sramWord (effectiveAddress (s.reg rs1) imm).toNat).toInt + (s.reg rs2).toInt]))) := by
  refine runCmd_of_ok ?_
  rw [bind_of_ok (readReg_run rs1 s), bind_of_ok (readRegS_run rs2 s), memAccumulate_ok h]

/-- Settles O21: one access in range each. -/
theorem loadStoreResults : Obligations.LoadStoreResults := by
  intro s rd rs1 rs2 imm
  refine ⟨effectiveAddress_toNat _ _, fun h => ⟨exec_lds rd h, ⟨_, exec_sts rs2 h, rfl, ?_, ?_⟩,
    ⟨_, exec_accs rs2 h, rfl, ?_, ?_⟩⟩⟩
  · exact sramWord_withSramWord_self _ _ _
  · exact fun b hb => sramByte_withSramWord_of_outside _ _ hb
  · exact sramWord_withSramWord_self _ _ _
  · exact fun b hb => sramByte_withSramWord_of_outside _ _ hb

/-! ### Clearing a list of words -/

/-- Sample RAM with the words of a list made 0, in order. -/
def zeroWords (m : Memory) (ws : List Nat) : Memory := ws.foldl (fun m a => memPutWord m a 0) m

theorem memByte_zeroWords (init : Nat → Byte) (ws : List Nat) (m : Memory) (b : Nat) :
    memByte init (zeroWords m ws) b = if b / 4 ∈ ws then 0 else memByte init m b := by
  induction ws generalizing m with
  | nil => rfl
  | cons a ws ih =>
    have step : zeroWords m (a :: ws) = zeroWords (memPutWord m a 0) ws := rfl
    rw [step, ih, memByte_memPutWord]
    by_cases ha : b / 4 = a
    · have zero : ((0 : Word).extractLsb' (8 * (b % 4)) 8) = 0 := BitVec.extractLsb'_zero
      rw [if_pos ha, zero, if_pos (List.mem_cons.2 (.inl ha))]
      exact ite_self _
    · simp only [List.mem_cons, ha, false_or, if_false]

/-- Write 0 to the words of a list, in order. -/
def clearAll : List Nat → Cmd Unit
  | [] => pure ()
  | a :: ws => do
    memWrite (BitVec.ofNat 32 a) 0
    clearAll ws

theorem clearAll_append (ws ws' : List Nat) (s : State) :
    clearAll (ws ++ ws') s = (clearAll ws >>= fun _ => clearAll ws') s := by
  induction ws generalizing s with
  | nil => rfl
  | cons a ws ih =>
    show (memWrite _ 0 >>= fun _ => clearAll (ws ++ ws')) s = ((memWrite _ 0 >>= fun _ => clearAll ws) >>= _) s
    simp only [bind_run, ih]
    cases memWrite (BitVec.ofNat 32 a) 0 s <;> rfl

/-- A clearing that meets no word outside sample RAM completes; another halts at the first. -/
theorem clearAll_run (ws : List Nat) (hw : ∀ a ∈ ws, a < 2 ^ 32) (s : State) :
    clearAll ws s = match ws.find? fun a => s.sramWords ≤ a with
      | none => .ok () { s with sram := zeroWords s.sram ws }
      | some a => .error (.badAddr (BitVec.ofNat 32 a)) (takeFatal (.badAddr (BitVec.ofNat 32 a))
          { s with sram := zeroWords s.sram (ws.takeWhile fun a => a < s.sramWords) }) := by
  induction ws generalizing s with
  | nil => rfl
  | cons a ws ih =>
    have ha : (BitVec.ofNat 32 a).toNat = a := Nat.mod_eq_of_lt (hw a List.mem_cons_self)
    show (memWrite _ 0 >>= fun _ => clearAll ws) s = _
    by_cases h : a < s.sramWords
    · have outside : ¬ s.sramWords ≤ a := by omega
      rw [bind_of_ok (memWrite_run_of_lt (by rwa [ha])), ih (fun b hb => hw b (List.mem_cons_of_mem _ hb))]
      simp only [List.find?_cons, List.takeWhile_cons, h, outside, decide_true, decide_false, if_true,
        State.withSramWord_sramWords, ha]
      rfl
    · have outside : s.sramWords ≤ a := by omega
      rw [bind_of_error (memWrite_run_of_ge (by rwa [ha]))]
      simp only [List.find?_cons, List.takeWhile_cons, h, outside, decide_true, decide_false, Bool.false_eq_true,
        if_false]
      rfl

theorem memClear_eq (count : Nat) (base : Word) (s : State) :
    memClear count base s = clearAll ((List.range count).map fun k => (base.toNat + k) % 2 ^ 32) s := by
  induction count generalizing base s with
  | zero => rfl
  | succ n ih =>
    have tail : (List.range n).map (fun k => (base.toNat + (k + 1)) % 2 ^ 32) =
        (List.range n).map fun k => ((base + 1).toNat + k) % 2 ^ 32 := by
      refine List.map_congr_left fun k _ => ?_
      rw [BitVec.toNat_add, show ((1 : Word).toNat) = 1 from rfl, Nat.mod_add_mod, Nat.add_assoc, Nat.add_comm 1]
    have head : BitVec.ofNat 32 ((base.toNat + 0) % 2 ^ 32) = base := by
      rw [Nat.add_zero, Nat.mod_eq_of_lt base.isLt, BitVec.ofNat_toNat, BitVec.setWidth_eq]
    rw [List.range_succ_eq_map, List.map_cons, List.map_map]
    show (memWrite base 0 >>= fun _ => memClear n (base + 1)) s =
      (memWrite (BitVec.ofNat 32 ((base.toNat + 0) % 2 ^ 32)) 0 >>= fun _ => clearAll _) s
    rw [head, bind_run, bind_run]
    cases memWrite base 0 s with
    | ok _ t => exact (ih (base + 1) t).trans (by rw [← tail]; rfl)
    | error e t => rfl

/-- The words one selected buffer of BUSCLR clears. -/
def bufferWords (base : Word) (off cnt : Nat) : List Nat :=
  (List.range (2 * cnt)).map fun k => (base.toNat + 2 * off + k) % 2 ^ 32

theorem clearIf_eq (b : Bool) (base off : Word) (cnt : Nat) (s : State) :
    clearIf b base off cnt s = clearAll (if b then bufferWords base off.toNat cnt else []) s := by
  cases b with
  | false => rfl
  | true =>
    show memClear (2 * cnt) (base + 2 * off) s = _
    rw [memClear_eq, if_pos rfl]
    refine congrArg (fun ws => clearAll ws s) (List.map_congr_left fun k _ => ?_)
    rw [BitVec.toNat_add, BitVec.toNat_mul, show (2 : Word).toNat = 2 from rfl]
    omega

theorem clearedWords_eq (s : State) (mask off cnt : Nat) : clearedWords s mask off cnt =
    (if mask.testBit 0 then bufferWords s.busRevBase off cnt else []) ++
    ((if mask.testBit 1 then bufferWords s.busChoBase off cnt else []) ++
    ((if mask.testBit 2 then bufferWords s.busDlyBase off cnt else []) ++
    (if mask.testBit 3 then bufferWords s.outBase off cnt else []))) := by
  unfold clearedWords bufferWords
  simp only [List.filter_cons, List.filter_nil]
  cases mask.testBit 0 <;> cases mask.testBit 1 <;> cases mask.testBit 2 <;> cases mask.testBit 3 <;>
    simp only [Bool.false_eq_true, if_true, if_false, List.flatMap_cons, List.flatMap_nil, List.nil_append,
      List.append_nil]

/-- BUSCLR clears its words in order. -/
theorem exec_busclr (s : State) (rs1 rs2 mask : Nat) : exec (.busclr rs1 rs2 mask) s =
    runCmd (clearAll (clearedWords s mask (s.reg rs1).toNat (s.reg rs2).toInt.toNat)) s := by
  show runCmd _ s = _
  unfold runCmd
  congr 1
  rw [bind_of_ok (readReg_run rs1 s), bind_of_ok (readRegS_run rs2 s), clearedWords_eq, clearAll_append]
  rw [bind_run, bind_run, clearIf_eq]
  cases clearAll _ s with
  | error e t => rfl
  | ok a t =>
    show (clearIf _ _ _ _ >>= _) t = clearAll _ t
    rw [clearAll_append, bind_run, bind_run, clearIf_eq]
    cases clearAll _ t with
    | error e u => rfl
    | ok a u =>
      show (clearIf _ _ _ _ >>= _) u = clearAll _ u
      rw [clearAll_append, bind_run, bind_run, clearIf_eq]
      cases clearAll _ u with
      | error e w => rfl
      | ok a w => exact clearIf_eq _ _ _ _ w

theorem clearedWords_lt (s : State) (mask off cnt : Nat) : ∀ a ∈ clearedWords s mask off cnt, a < 2 ^ 32 := by
  intro a ha
  unfold clearedWords at ha
  simp only [List.mem_flatMap, List.mem_map] at ha
  obtain ⟨c, -, k, -, rfl⟩ := ha
  exact Nat.mod_lt _ (by decide)

/-! ### Halts on bad addresses -/

/-- What a command leaves up to its last step: the operand registers, the size of sample RAM and that it runs. -/
def RegsKept (s t : State) : Prop := t.regs = s.regs ∧ t.sramWords = s.sramWords ∧ t.fatal = false

theorem regsKept_runs {s : State} {i : Instr} (h : controlWrite s i = none) : RunsKeeping (RegsKept s) i :=
  runsKeeping_of_tidy h
    { flag := fun f u h => ⟨h.1, h.2.1, (withFlag_fatal f u).trans h.2.2⟩
      word := fun _ _ _ h => h
      zero := fun _ _ _ h => h
      filter := fun _ _ _ h => h }
    (fun _ _ h => h) (fun _ _ h => h) (fun _ _ h => h) fun _ _ h => h

/-- A command that halts on a bad address names one outside sample RAM and has written no operand register. -/
theorem badAddr_of_halt {i : Instr} {s t : State} (hs : s.fatal = false) (hi : controlWrite s i = none)
    (he : exec i s = .next t) (ht : t.fatal = true) (hc : t.fatalCause = .badAddr) :
    s.sramWords ≤ t.fatalAddr.toNat ∧ t.regs = s.regs := by
  have completed : ∀ u : State, u.fatal = false → ¬ u.fatal = true := fun u h => by
    rw [h]
    exact Bool.false_ne_true
  rcases (regsKept_runs hi).outcome (P := RegsKept s) ⟨rfl, rfl, hs⟩ he with
    ⟨u, ⟨-, -, hu⟩, rfl | ⟨rd, v, rfl⟩⟩ | ⟨f, u, ⟨hr, hw, -⟩, rfl, outside⟩
  · exact absurd ht (completed (completeCommand u) hu)
  · exact absurd ht (completed (completeCommand (State.withReg rd v u)) hu)
  · cases f with
    | badAddr a => exact ⟨hw ▸ outside a rfl, hr⟩
    | alloc l => cases hc

theorem exec_lds_halt {s : State} {rs1 imm : Nat} (rd : Nat)
    (h : s.sramWords ≤ (effectiveAddress (s.reg rs1) imm).toNat) : exec (.lds rd rs1 imm) s =
      .next (takeFatal (.badAddr (effectiveAddress (s.reg rs1) imm)) s) := by
  refine runCmd_of_error (e := .badAddr (effectiveAddress (s.reg rs1) imm)) ?_
  rw [bind_of_ok (readReg_run rs1 s), bind_of_error (memRead_run_of_ge h)]

theorem exec_sts_halt {s : State} {rs1 imm : Nat} (rs2 : Nat)
    (h : s.sramWords ≤ (effectiveAddress (s.reg rs1) imm).toNat) : exec (.sts rs1 rs2 imm) s =
      .next (takeFatal (.badAddr (effectiveAddress (s.reg rs1) imm)) s) := by
  refine runCmd_of_error (e := .badAddr (effectiveAddress (s.reg rs1) imm)) ?_
  rw [bind_of_ok (readReg_run rs1 s), bind_of_ok (readReg_run rs2 s), memWrite_run_of_ge h]

theorem exec_accs_halt {s : State} {rs1 imm : Nat} (rs2 : Nat)
    (h : s.sramWords ≤ (effectiveAddress (s.reg rs1) imm).toNat) : exec (.accs rs1 rs2 imm) s =
      .next (takeFatal (.badAddr (effectiveAddress (s.reg rs1) imm)) s) := by
  refine runCmd_of_error (e := .badAddr (effectiveAddress (s.reg rs1) imm)) ?_
  rw [bind_of_ok (readReg_run rs1 s), bind_of_ok (readRegS_run rs2 s), memAccumulate_run_of_ge h]

/-- Settles O22: the access itself, the list of words BUSCLR clears, and what a halted command has done before. -/
theorem badAddressHalts : Obligations.BadAddressHalts := by
  refine ⟨fun s rd rs1 rs2 imm h => ⟨exec_lds_halt rd h, exec_sts_halt rs2 h, exec_accs_halt rs2 h⟩, ?_, ?_⟩
  · intro s rs1 rs2 mask a words ha
    have run := clearAll_run words (clearedWords_lt _ _ _ _) s
    rw [ha] at run
    refine ⟨_, (exec_busclr s rs1 rs2 mask).trans (runCmd_of_error run), rfl, fun b => ?_⟩
    exact memByte_zeroWords _ _ _ _
  · intro i s t hs hi he ht hc
    obtain ⟨outside, regs⟩ := badAddr_of_halt hs hi he ht hc
    obtain ⟨count, word, -⟩ := (commandsAreCounted i s t hs hi he).2 ht
    exact ⟨outside, word, count, regs⟩

/-! ### BUSCLR in range -/

/-- The words of a buffer that lies in sample RAM are its frames' words. -/
theorem mem_bufferWords {words : Nat} {base : Word} {off cnt a : Nat} (hs : words ≤ 2 ^ 24)
    (h : framesOk words base off cnt = true) : a ∈ bufferWords base off cnt ↔ frameWord base off cnt a = true := by
  unfold framesOk at h
  rw [decide_eq_true_eq] at h
  unfold bufferWords frameWord
  rw [decide_eq_true_eq, List.mem_map]
  constructor
  · rintro ⟨k, hk, rfl⟩
    rw [List.mem_range] at hk
    rw [Nat.mod_eq_of_lt (by omega)]
    omega
  · intro ha
    refine ⟨a - (base.toNat + 2 * off), by rw [List.mem_range]; omega, ?_⟩
    rw [Nat.mod_eq_of_lt (by omega)]
    omega

/-- Settles O60: the words cleared are those of the selected frames, all of them in sample RAM. -/
theorem busClearResult : Obligations.BusClearResult := by
  intro s rs1 rs2 mask hs off cnt selected ok
  have member : ∀ a, a ∈ clearedWords s mask off cnt ↔ ∃ c ∈ selected, frameWord c.2 off cnt a = true := by
    intro a
    show a ∈ selected.flatMap _ ↔ _
    rw [List.mem_flatMap]
    exact exists_congr fun c => and_congr_right fun hc => mem_bufferWords hs (ok c hc)
  have inside : ∀ a ∈ clearedWords s mask off cnt, ¬ decide (s.sramWords ≤ a) = true := by
    intro a ha
    obtain ⟨c, hc, hw⟩ := (member a).1 ha
    have fits := ok c hc
    unfold framesOk at fits
    unfold frameWord at hw
    rw [decide_eq_true_eq] at fits hw ⊢
    omega
  have run := clearAll_run _ (clearedWords_lt s mask off cnt) s
  rw [List.find?_eq_none.2 inside] at run
  refine ⟨_, (exec_busclr s rs1 rs2 mask).trans (runCmd_of_ok run), rfl, fun b => ?_⟩
  refine (memByte_zeroWords _ _ _ _).trans ?_
  congr 1
  rw [List.any_eq_true, eq_iff_iff]
  exact member _

/-! ### Missing indices and FREE voices -/

theorem exec_dlcfg_missing {s : State} {u : Nat} (rs1 rs2 : Nat) (h : s.delays.length ≤ u) :
    exec (.dlcfg rs1 rs2 u) s = .next (completeCommand (s.withFlag .range)) := by
  refine runCmd_of_ok ?_
  rw [bind_of_ok (readReg_run rs1 s), bind_of_ok (readReg_run rs2 s), bind_of_ok (getState_run s),
    List.getElem?_eq_none h]
  rfl

theorem exec_lfocfg_missing {s : State} {u : Nat} (rs1 rs2 : Nat) (h : s.lfos.length ≤ u) :
    exec (.lfocfg rs1 rs2 u) s = .next (completeCommand (s.withFlag .range)) := by
  refine runCmd_of_ok ?_
  rw [bind_of_ok (readReg_run rs1 s), bind_of_ok (readReg_run rs2 s), bind_of_ok (getState_run s),
    List.getElem?_eq_none h]
  rfl

theorem exec_lfostep_missing {s : State} {u : Nat} (rd : Nat) (h : s.lfos.length ≤ u) :
    exec (.lfostep rd u) s = .next (completeCommand (s.withFlag .range)) := by
  refine runCmd_of_ok ?_
  rw [bind_of_ok (getState_run s), List.getElem?_eq_none h]
  rfl

theorem withDelay_missing {s : State} {u : Nat} {body : DelayUnit → Cmd Unit} (h : s.delays.length ≤ u) :
    withDelay u body s = .ok () (s.withFlag .range) :=
  withDelay_unconfigured fun d hd => by
    rw [List.getElem?_eq_none h] at hd
    cases hd

/-- Settles O28: each command looks its unit, voice or slot up first. -/
theorem missingIndexSetsRange : Obligations.MissingIndexSetsRange := by
  intro i s h
  cases i <;> simp only [missingIndex, decide_eq_true_eq, Bool.false_eq_true] at h
  case dlcfg rs1 rs2 u => exact exec_dlcfg_missing rs1 rs2 h
  case lfocfg rs1 rs2 u => exact exec_lfocfg_missing rs1 rs2 h
  case lfostep rd u => exact exec_lfostep_missing rd h
  case dlwr | dlrd | dlmrd | comb | apf => exact runCmd_of_ok (withDelay_missing h)
  case bq | svf | moog | fclr => exact runCmd_of_ok (withFilter_missing h)
  case fxinit | fxproc | fxfree => exact runCmd_of_ok (withSlot_missing h)
  case envupd | envamp | tremupd | menvupd | mixsmooth | mixv | envstart | envrel =>
    exact runCmd_of_ok (withVoice_missing h)

/-- Settles O30: a FREE voice has only the command's effect on FREE voices. -/
theorem freeVoiceIsSkipped : Obligations.FreeVoiceIsSkipped := by
  intro s v rd rs1 rs2 n hv hf
  have zero : ∀ {body : Cmd Unit}, runCmd (withVoice n (writeReg rd 0) body) s =
      .next { s with regs := s.regs.setIfInBounds rd 0, cmdSeq := s.cmdSeq + 1 } := fun {body} =>
    runCmd_of_ok ((withVoice_free hv hf).trans (writeReg_run rd 0 s))
  have same : ∀ {body : Cmd Unit}, runCmd (withVoice n (pure ()) body) s =
      .next { s with cmdSeq := s.cmdSeq + 1 } := fun {body} => runCmd_of_ok (withVoice_free hv hf)
  exact ⟨zero, zero, zero, same, same, same, same, same⟩

end Sys2Proof.Proofs
end

section
/-! The register map (10_state.md R60 to R103): what RDREG reads at each address. -/

namespace Sys2Proof.Proofs

open Sys2Proof.Machine Sys2Proof.Claims

/-! ### The map by regions -/

theorem readControl_global {s : State} {a : Nat} (h : a < 0x100) : readControl s a = readGlobal s a := by
  unfold readControl
  rw [if_pos h]

theorem readControl_delays {s : State} {a : Nat} (h : 0x400 ≤ a ∧ a < 0x600) : readControl s a =
    (s.delays[(a - 0x400) / 8]?).elim 0 fun d => readDelay d ((a - 0x400) % 8) := by
  unfold readControl
  rw [if_neg (by omega), if_neg (by omega), if_pos (by omega)]

theorem readControl_lfos {s : State} {a : Nat} (h : 0x600 ≤ a ∧ a < 0x700) : readControl s a =
    (s.lfos[(a - 0x600) / 4]?).elim 0 fun l => readLfo l ((a - 0x600) % 4) := by
  unfold readControl
  rw [if_neg (by omega), if_neg (by omega), if_neg (by omega), if_pos (by omega)]

theorem readControl_filters {s : State} {a : Nat} (h : 0x700 ≤ a ∧ a < 0x800) : readControl s a =
    (s.filters[(a - 0x700) / 32]?).elim 0 fun f => readFilter f ((a - 0x700) % 32) := by
  unfold readControl
  rw [if_neg (by omega), if_neg (by omega), if_neg (by omega), if_neg (by omega), if_pos (by omega)]

theorem readControl_slots {s : State} {a : Nat} (h : 0x800 ≤ a ∧ a < 0xC00) : readControl s a =
    (s.slots[(a - 0x800) / 64]?).elim 0 fun x => readSlot x ((a - 0x800) % 64) := by
  unfold readControl
  rw [if_neg (by omega), if_neg (by omega), if_neg (by omega), if_neg (by omega), if_neg (by omega), if_pos (by omega)]

theorem readControl_voices {s : State} {a : Nat} (h : 0x1000 ≤ a ∧ a < 0x2000) : readControl s a =
    (s.voices[(a - 0x1000) / 0x80]?).elim 0 fun v => readVoiceReg v ((a - 0x1000) % 0x80) := by
  unfold readControl
  rw [if_neg (by omega), if_neg (by omega), if_neg (by omega), if_neg (by omega), if_neg (by omega), if_neg (by omega),
    if_neg (by omega), if_pos (by omega)]

theorem readControl_unmapped {s : State} {a : Nat}
    (h : (0x100 ≤ a ∧ a < 0x400) ∨ (0xC00 ≤ a ∧ a < 0x1000) ∨ 0x2000 ≤ a) : readControl s a = 0 := by
  unfold readControl
  split_ifs <;> first | rfl | omega

/-- The global registers past CONFIG and before CH_STATE do not exist. -/
theorem readGlobal_gap {s : State} {a : Nat} (h : 0x014 ≤ a ∧ a < 0x0F0) : readGlobal s a = 0 := by
  unfold readGlobal
  split
  case h_20 => exact if_neg (by omega)
  all_goals omega

theorem readControl_delay {s : State} {u off : Nat} {d : DelayUnit} (hu : u < 64) (hd : s.delays[u]? = some d)
    (h : off < 8) : readControl s (0x400 + 8 * u + off) = readDelay d off := by
  rw [readControl_delays (by omega), show (0x400 + 8 * u + off - 0x400) / 8 = u by omega,
    show (0x400 + 8 * u + off - 0x400) % 8 = off by omega, hd]
  rfl

theorem readControl_lfo {s : State} {u off : Nat} {l : LfoUnit} (hu : u < 64) (hl : s.lfos[u]? = some l)
    (h : off < 4) : readControl s (0x600 + 4 * u + off) = readLfo l off := by
  rw [readControl_lfos (by omega), show (0x600 + 4 * u + off - 0x600) / 4 = u by omega,
    show (0x600 + 4 * u + off - 0x600) % 4 = off by omega, hl]
  rfl

theorem readControl_filter {s : State} {u off : Nat} {f : FilterUnit} (hu : u < 8) (hf : s.filters[u]? = some f)
    (h : off < 32) : readControl s (0x700 + 32 * u + off) = readFilter f off := by
  rw [readControl_filters (by omega), show (0x700 + 32 * u + off - 0x700) / 32 = u by omega,
    show (0x700 + 32 * u + off - 0x700) % 32 = off by omega, hf]
  rfl

theorem readControl_slot {s : State} {i off : Nat} {x : Slot} (hi : i < 16) (hx : s.slots[i]? = some x)
    (h : off < 64) : readControl s (0x800 + 64 * i + off) = readSlot x off := by
  rw [readControl_slots (by omega), show (0x800 + 64 * i + off - 0x800) / 64 = i by omega,
    show (0x800 + 64 * i + off - 0x800) % 64 = off by omega, hx]
  rfl

theorem readControl_voice {s : State} {n off : Nat} {v : Voice} (hn : n < 32) (hv : s.voices[n]? = some v)
    (h : off < 128) : readControl s (0x1000 + 128 * n + off) = readVoiceReg v off := by
  rw [readControl_voices (by omega), show (0x1000 + 128 * n + off - 0x1000) / 0x80 = n by omega,
    show (0x1000 + 128 * n + off - 0x1000) % 0x80 = off by omega, hv]
  rfl

/-! ### The blocks as their tables list them -/

theorem readDelay_listed (d : DelayUnit) {off : Nat} (h : off < 8) : readDelay d off = listed (delayRegs d) off := by
  interval_cases off <;> rfl

theorem readLfo_listed (l : LfoUnit) {off : Nat} (h : off < 4) : readLfo l off = listed (lfoRegs l) off := by
  interval_cases off
  pick_goal 3 -- LFO_WAVE
  · show l.wave.code = if l.wave = .triangle then 1 else 0
    cases l.wave <;> rfl
  all_goals rfl

theorem readFilter_listed (f : FilterUnit) {off : Nat} (h : off < 32) :
    readFilter f off = listed (filterRegs f) off := by
  interval_cases off <;> rfl

theorem readSlot_listed (x : Slot) {off : Nat} (h : off < 64) : readSlot x off = listed (slotRegs x) off := by
  interval_cases off
  pick_goal 3 -- the bus
  · show x.bus.code = busCode x.bus
    cases x.bus <;> rfl
  pick_goal 2 -- the record's state
  · show x.record.state = stateCode x.record
    cases x.record <;> rfl
  all_goals rfl

theorem readVoiceReg_listed_general (v : Voice) {off : Nat} (h : off < 0x20) :
    readVoiceReg v off = listed (voiceRegs v) off := by
  interval_cases off
  pick_goal 2 -- V_STATUS
  · show BitVec.ofNat 32 v.status.code = statusCode v.status
    cases v.status <;> rfl
  all_goals rfl

theorem readVoiceReg_listed_envelope (v : Voice) {off : Nat} (h : 0x20 ≤ off ∧ off < 0x38) :
    readVoiceReg v off = listed (voiceRegs v) off := by
  obtain ⟨h0, h1⟩ := h
  interval_cases off <;> rfl

theorem readVoiceReg_listed_modulation (v : Voice) {off : Nat} (h : 0x38 ≤ off ∧ off < 0x48) :
    readVoiceReg v off = listed (voiceRegs v) off := by
  obtain ⟨h0, h1⟩ := h
  interval_cases off <;> rfl

theorem readVoiceReg_listed_modulationArrays (v : Voice) {off : Nat} (h : 0x48 ≤ off ∧ off < 0x58) :
    readVoiceReg v off = listed (voiceRegs v) off := by
  obtain ⟨h0, h1⟩ := h
  interval_cases off <;> rfl

theorem readVoiceReg_listed_tremolo (v : Voice) {off : Nat} (h : 0x58 ≤ off ∧ off < 0x60) :
    readVoiceReg v off = listed (voiceRegs v) off := by
  obtain ⟨h0, h1⟩ := h
  interval_cases off <;> rfl

theorem readVoiceReg_listed_mixer (v : Voice) {off : Nat} (h : 0x60 ≤ off ∧ off < 0x70) :
    readVoiceReg v off = listed (voiceRegs v) off := by
  obtain ⟨h0, h1⟩ := h
  interval_cases off <;> rfl

theorem readVoiceReg_listed_panDelay (v : Voice) {off : Nat} (h : 0x70 ≤ off ∧ off < 0x80) :
    readVoiceReg v off = listed (voiceRegs v) off := by
  obtain ⟨h0, h1⟩ := h
  interval_cases off <;> rfl

theorem readVoiceReg_listed (v : Voice) {off : Nat} (h : off < 128) :
    readVoiceReg v off = listed (voiceRegs v) off := by
  by_cases h0 : off < 0x20
  · exact readVoiceReg_listed_general v h0
  by_cases h1 : off < 0x38
  · exact readVoiceReg_listed_envelope v (by omega)
  by_cases h2 : off < 0x48
  · exact readVoiceReg_listed_modulation v (by omega)
  by_cases h3 : off < 0x58
  · exact readVoiceReg_listed_modulationArrays v (by omega)
  by_cases h4 : off < 0x60
  · exact readVoiceReg_listed_tremolo v (by omega)
  by_cases h5 : off < 0x70
  · exact readVoiceReg_listed_mixer v (by omega)
  · exact readVoiceReg_listed_panDelay v (by omega)

/-! ### The build -/

theorem config0_toNat {p : Params} (h : p.legal = true) :
    (config0 p).toNat = p.nv + 2 ^ 8 * p.ndl + 2 ^ 16 * p.nlfo + 2 ^ 24 * p.nslot := by
  unfold Params.legal at h
  rw [decide_eq_true_eq] at h
  unfold config0
  rw [BitVec.toNat_ofNat]
  omega

theorem config1_toNat {p : Params} (h : p.legal = true) : (config1 p).toNat = p.nflt + 2 ^ 8 * 16 := by
  unfold Params.legal at h
  rw [decide_eq_true_eq] at h
  unfold config1 Config.nch
  rw [BitVec.toNat_ofNat]
  omega

/-- The blocks of units, slots and voices that do not exist read 0. -/
theorem readControl_missing {s : State} {a : Nat} (h : (0x400 ≤ a ∧ a < 0x600 ∧ s.delays.length ≤ (a - 0x400) / 8) ∨
    (0x600 ≤ a ∧ a < 0x700 ∧ s.lfos.length ≤ (a - 0x600) / 4) ∨
    (0x700 ≤ a ∧ a < 0x800 ∧ s.filters.length ≤ (a - 0x700) / 32) ∨
    (0x800 ≤ a ∧ a < 0xC00 ∧ s.slots.length ≤ (a - 0x800) / 64) ∨
    (0x1000 ≤ a ∧ a < 0x2000 ∧ s.voices.length ≤ (a - 0x1000) / 128)) : readControl s a = 0 := by
  rcases h with ⟨h1, h2, h3⟩ | ⟨h1, h2, h3⟩ | ⟨h1, h2, h3⟩ | ⟨h1, h2, h3⟩ | ⟨h1, h2, h3⟩
  · rw [readControl_delays ⟨h1, h2⟩, List.getElem?_eq_none h3]
    rfl
  · rw [readControl_lfos ⟨h1, h2⟩, List.getElem?_eq_none h3]
    rfl
  · rw [readControl_filters ⟨h1, h2⟩, List.getElem?_eq_none h3]
    rfl
  · rw [readControl_slots ⟨h1, h2⟩, List.getElem?_eq_none h3]
    rfl
  · rw [readControl_voices ⟨h1, h2⟩, List.getElem?_eq_none h3]
    rfl

theorem readControl_chState (s : State) (ch : Fin 16) : readControl s (0x0F0 + ch.val) = s.chState[ch] := by
  have := ch.isLt
  rw [readControl_global (by omega)]
  unfold readGlobal
  split
  case h_20 =>
    rw [if_pos (by omega), Nat.add_sub_cancel_left]
    unfold entry
    rw [Vector.getElem?_eq_getElem this, Option.getD_some]
    rfl
  all_goals omega

theorem exec_rdreg (rd rs1 imm : Nat) (s : State) : exec (.rdreg rd rs1 imm) s =
    .next (completeCommand (State.withReg rd (readControl s (controlAddress (s.reg rs1) imm)) s)) := by
  have body : (readReg rs1 >>= fun base => getState >>= fun t => writeReg rd (readControl t (controlAddress base imm))) s =
      .ok () (State.withReg rd (readControl s (controlAddress (s.reg rs1) imm)) s) := by
    rw [bind_of_ok (readReg_run rs1 s), bind_of_ok (getState_run s), writeReg_run]
  exact runCmd_of_ok body

/-- Settles O24: the map region by region, each block as its table lists it. -/
theorem controlRegisterReads : Obligations.ControlRegisterReads := by
  intro s rd rs1 imm
  refine ⟨exec_rdreg rd rs1 imm s, rfl, rfl, rfl, rfl, rfl, rfl, rfl, rfl, rfl, rfl, rfl, rfl, rfl, rfl, ?_, rfl, rfl,
    fun legal => ⟨config0_toNat legal, config1_toNat legal⟩, rfl, readControl_chState s, ?_, ?_, ?_, ?_, ?_, ?_,
    fun a => readControl_missing⟩
  · show s.fatalCause.code = _
    cases s.fatalCause <;> rfl
  · exact fun u d off hu hd h => (readControl_delay hu hd h).trans (readDelay_listed d h)
  · exact fun u l off hu hl h => (readControl_lfo hu hl h).trans (readLfo_listed l h)
  · exact fun u f off hu hf h => (readControl_filter hu hf h).trans (readFilter_listed f h)
  · exact fun i x off hi hx h => (readControl_slot hi hx h).trans (readSlot_listed x h)
  · exact fun n v off hn hv h => (readControl_voice hn hv h).trans (readVoiceReg_listed v h)
  · rintro a (gap | unmapped)
    · rw [readControl_global (by omega), readGlobal_gap gap]
    · exact readControl_unmapped unmapped

end Sys2Proof.Proofs
end

section
/-! The register map (10_state.md R60 to R103): what a write of each address does. -/

namespace Sys2Proof.Proofs

open Sys2Proof.Machine Sys2Proof.Claims

/-! ### WARL reductions in the terms of the statements -/

theorem clampUnsigned_eq (v : Word) {lo hi : Nat} (h : lo ≤ hi) :
    clampUnsigned v lo hi = BitVec.ofNat 32 (max lo (min hi v.toNat)) := by
  unfold clampUnsigned
  congr 1
  split
  · omega
  · split <;> omega

theorem clampSigned_eq (v : Word) {lo hi : Int} (h : lo ≤ hi) :
    clampSigned v lo hi = BitVec.ofInt 32 (clamp lo hi v.toInt) := by
  rw [clamp_eq _ _ _ h]
  rfl

theorem modOrZero_eq (v len : Word) :
    modOrZero v len = BitVec.ofInt 32 (if len = 0 then 0 else v.toInt % (len.toNat : Int)) := by
  unfold modOrZero
  split <;> rfl

theorem getLsbD_zero_eq (v : Word) : v.getLsbD 0 = decide (v.toNat % 2 = 1) := by
  rw [BitVec.getLsbD, Nat.testBit_zero]

/-- A word cut to its low bits. -/
theorem and_low (v : Word) (k : Nat) : v &&& BitVec.ofNat 32 (2 ^ k - 1) = BitVec.ofNat 32 (v.toNat % 2 ^ k) := by
  apply BitVec.eq_of_toNat_eq
  rw [BitVec.toNat_and, BitVec.toNat_ofNat, BitVec.toNat_ofNat, ← Nat.and_two_pow_sub_one_eq_mod v.toNat k]
  have hv := v.isLt
  apply Nat.eq_of_testBit_eq
  intro i
  rw [Nat.testBit_and, Nat.testBit_mod_two_pow, Nat.testBit_mod_two_pow, Nat.testBit_and]
  by_cases hi : i < 32
  · simp [hi]
  · have : v.toNat.testBit i = false := Nat.testBit_lt_two_pow (lt_of_lt_of_le hv (Nat.pow_le_pow_right (by decide) (by omega)))
    simp [hi, this]

/-! ### Lists with one entry changed -/

theorem modify_eq_set {α : Type} {l : List α} {i : Nat} {x : α} (f : α → α) (h : l[i]? = some x) :
    l.modify i f = l.set i (f x) := by
  rw [List.modify_eq_set_getElem?, h]
  rfl

theorem modify_beyond {α : Type} {l : List α} {i : Nat} (f : α → α) (h : l.length ≤ i) : l.modify i f = l := by
  rw [List.modify_eq_set_getElem?, List.getElem?_eq_none h]
  rfl

theorem modify_eq_self {α : Type} {l : List α} {i : Nat} {f : α → α} (h : ∀ x, l[i]? = some x → f x = x) :
    l.modify i f = l := by
  cases hx : l[i]? with
  | none => exact modify_beyond f (List.getElem?_eq_none_iff.1 hx)
  | some x =>
    obtain ⟨hi, rfl⟩ := List.getElem?_eq_some_iff.1 hx
    rw [modify_eq_set f hx, h _ hx, List.set_getElem_self]

theorem setIfInBounds_eq_set {α : Type} {n i : Nat} (xs : Vector α n) (x : α) (h : i < n) :
    xs.setIfInBounds i x = xs.set i x h := by
  ext j hj
  rw [Vector.getElem_setIfInBounds, Vector.getElem_set]

/-! ### The map by regions -/

variable {s : State} {v : Word}

theorem writeControl_global {a : Nat} (h : a < 0x100) : writeControl a v s = writeGlobal a v s := by
  unfold writeControl
  rw [if_pos h]

theorem writeControl_delays {a : Nat} (h : 0x400 ≤ a ∧ a < 0x600) : writeControl a v s =
    { s with delays := s.delays.modify ((a - 0x400) / 8) fun d => writeDelay d ((a - 0x400) % 8) v } := by
  unfold writeControl
  rw [if_neg (by omega), if_neg (by omega), if_pos (by omega)]

theorem writeControl_lfos {a : Nat} (h : 0x600 ≤ a ∧ a < 0x700) : writeControl a v s =
    { s with lfos := s.lfos.modify ((a - 0x600) / 4) fun l => writeLfo l ((a - 0x600) % 4) v } := by
  unfold writeControl
  rw [if_neg (by omega), if_neg (by omega), if_neg (by omega), if_pos (by omega)]

theorem writeControl_filters {a : Nat} (h : 0x700 ≤ a ∧ a < 0x800) : writeControl a v s =
    { s with filters := s.filters.modify ((a - 0x700) / 32) fun f => writeFilter f ((a - 0x700) % 32) v } := by
  unfold writeControl
  rw [if_neg (by omega), if_neg (by omega), if_neg (by omega), if_neg (by omega), if_pos (by omega)]

theorem writeControl_slots {a : Nat} (h : 0x800 ≤ a ∧ a < 0xC00) : writeControl a v s =
    { s with slots := s.slots.modify ((a - 0x800) / 64) fun x => writeSlot x ((a - 0x800) % 64) v } := by
  unfold writeControl
  rw [if_neg (by omega), if_neg (by omega), if_neg (by omega), if_neg (by omega), if_neg (by omega), if_pos (by omega)]

theorem writeControl_voices {a : Nat} (h : 0x1000 ≤ a ∧ a < 0x2000) : writeControl a v s =
    { s with voices := s.voices.modify ((a - 0x1000) / 0x80) fun r => writeVoiceReg r ((a - 0x1000) % 0x80) v } := by
  unfold writeControl
  rw [if_neg (by omega), if_neg (by omega), if_neg (by omega), if_neg (by omega), if_neg (by omega), if_neg (by omega),
    if_neg (by omega), if_pos (by omega)]

theorem writeControl_unmapped {a : Nat} (h : (0x100 ≤ a ∧ a < 0x400) ∨ (0xC00 ≤ a ∧ a < 0x1000) ∨ 0x2000 ≤ a) :
    writeControl a v s = s := by
  unfold writeControl
  split_ifs <;> first | rfl | omega

theorem writeGlobal_readOnly {a : Nat} (h : a = 0 ∨ (0x00D ≤ a ∧ a < 0x0F0)) : writeGlobal a v s = s := by
  unfold writeGlobal
  split
  case h_13 => exact if_neg (by omega)
  all_goals omega

theorem writeControl_delay {u off : Nat} {d : DelayUnit} (hu : u < 64) (hd : s.delays[u]? = some d) (h : off < 8) :
    writeControl (0x400 + 8 * u + off) v s = { s with delays := s.delays.set u (writeDelay d off v) } := by
  rw [writeControl_delays (by omega), show (0x400 + 8 * u + off - 0x400) / 8 = u by omega,
    show (0x400 + 8 * u + off - 0x400) % 8 = off by omega, modify_eq_set _ hd]

theorem writeControl_lfo {u off : Nat} {l : LfoUnit} (hu : u < 64) (hl : s.lfos[u]? = some l) (h : off < 4) :
    writeControl (0x600 + 4 * u + off) v s = { s with lfos := s.lfos.set u (writeLfo l off v) } := by
  rw [writeControl_lfos (by omega), show (0x600 + 4 * u + off - 0x600) / 4 = u by omega,
    show (0x600 + 4 * u + off - 0x600) % 4 = off by omega, modify_eq_set _ hl]

theorem writeControl_filter {u off : Nat} {f : FilterUnit} (hu : u < 8) (hf : s.filters[u]? = some f) (h : off < 32) :
    writeControl (0x700 + 32 * u + off) v s = { s with filters := s.filters.set u (writeFilter f off v) } := by
  rw [writeControl_filters (by omega), show (0x700 + 32 * u + off - 0x700) / 32 = u by omega,
    show (0x700 + 32 * u + off - 0x700) % 32 = off by omega, modify_eq_set _ hf]

theorem writeControl_slot {i off : Nat} {x : Slot} (hi : i < 16) (hx : s.slots[i]? = some x) (h : off < 64) :
    writeControl (0x800 + 64 * i + off) v s = { s with slots := s.slots.set i (writeSlot x off v) } := by
  rw [writeControl_slots (by omega), show (0x800 + 64 * i + off - 0x800) / 64 = i by omega,
    show (0x800 + 64 * i + off - 0x800) % 64 = off by omega, modify_eq_set _ hx]

theorem writeControl_voice {n off : Nat} (hn : n < 32) (h : off < 128) : writeControl (0x1000 + 0x80 * n + off) v s =
    { s with voices := s.voices.modify n fun r => writeVoiceReg r off v } := by
  rw [writeControl_voices (by omega), show (0x1000 + 0x80 * n + off - 0x1000) / 0x80 = n by omega,
    show (0x1000 + 0x80 * n + off - 0x1000) % 0x80 = off by omega]

/-- The blocks of units, slots and voices that do not exist ignore writes. -/
theorem writeControl_missing {a : Nat} (h : (0x400 ≤ a ∧ a < 0x600 ∧ s.delays.length ≤ (a - 0x400) / 8) ∨
    (0x600 ≤ a ∧ a < 0x700 ∧ s.lfos.length ≤ (a - 0x600) / 4) ∨
    (0x700 ≤ a ∧ a < 0x800 ∧ s.filters.length ≤ (a - 0x700) / 32) ∨
    (0x800 ≤ a ∧ a < 0xC00 ∧ s.slots.length ≤ (a - 0x800) / 64) ∨
    (0x1000 ≤ a ∧ a < 0x2000 ∧ s.voices.length ≤ (a - 0x1000) / 128)) : writeControl a v s = s := by
  rcases h with ⟨h1, h2, h3⟩ | ⟨h1, h2, h3⟩ | ⟨h1, h2, h3⟩ | ⟨h1, h2, h3⟩ | ⟨h1, h2, h3⟩
  · rw [writeControl_delays ⟨h1, h2⟩, modify_beyond _ h3]
  · rw [writeControl_lfos ⟨h1, h2⟩, modify_beyond _ h3]
  · rw [writeControl_filters ⟨h1, h2⟩, modify_beyond _ h3]
  · rw [writeControl_slots ⟨h1, h2⟩, modify_beyond _ h3]
  · rw [writeControl_voices ⟨h1, h2⟩, modify_beyond _ h3]

/-! ### Global registers -/

theorem writeControl_chState (v : Word) (s : State) (ch : Fin 16) : writeControl (0x0F0 + ch.val) v s =
    { s with chState := s.chState.set ch (v &&& 0xFFFF00FF) } := by
  have := ch.isLt
  rw [writeControl_global (by omega)]
  unfold writeGlobal
  split
  case h_13 =>
    rw [if_pos (by omega), Nat.add_sub_cancel_left]
    congr 1
    exact setIfInBounds_eq_set _ _ this
  all_goals omega

/-- Settles O25: the global registers one by one, then the addresses without a register. -/
theorem globalRegisterWrites : Obligations.GlobalRegisterWrites := by
  intro s rs1 rs2 imm v
  refine ⟨exec_wrreg rs1 rs2 imm s, rfl, rfl, ?_, ?_, rfl, ?_, ?_, rfl, fun hv => if_neg hv, rfl, rfl, rfl, rfl,
    writeControl_chState v s, ?_, fun a => writeControl_missing⟩
  · rw [← clampUnsigned_eq v (by decide)]
    rfl
  · rw [← clampUnsigned_eq v (by decide)]
    rfl
  · rw [← clampUnsigned_eq v (by decide)]
    rfl
  · rw [← clampUnsigned_eq v (by decide)]
    rfl
  · intro a h
    by_cases global : a = 0 ∨ (0x00D ≤ a ∧ a < 0x0F0)
    · rw [writeControl_global (by omega), writeGlobal_readOnly global]
    · exact writeControl_unmapped (by omega)

/-! ### Units and slots -/

theorem setDelays_self {u : Nat} {d : DelayUnit} (h : s.delays[u]? = some d) :
    { s with delays := s.delays.set u d } = s := by
  obtain ⟨hu, rfl⟩ := List.getElem?_eq_some_iff.1 h
  rw [List.set_getElem_self]

theorem setLfos_self {u : Nat} {l : LfoUnit} (h : s.lfos[u]? = some l) : { s with lfos := s.lfos.set u l } = s := by
  obtain ⟨hu, rfl⟩ := List.getElem?_eq_some_iff.1 h
  rw [List.set_getElem_self]

theorem setFilters_self {u : Nat} {f : FilterUnit} (h : s.filters[u]? = some f) :
    { s with filters := s.filters.set u f } = s := by
  obtain ⟨hu, rfl⟩ := List.getElem?_eq_some_iff.1 h
  rw [List.set_getElem_self]

theorem setSlots_self {i : Nat} {x : Slot} (h : s.slots[i]? = some x) : { s with slots := s.slots.set i x } = s := by
  obtain ⟨hi, rfl⟩ := List.getElem?_eq_some_iff.1 h
  rw [List.set_getElem_self]

theorem writeFilter_unlisted (f : FilterUnit) {off : Nat} (h : 21 ≤ off ∧ off < 32) : writeFilter f off v = f := by
  unfold writeFilter
  split <;> first | rfl | omega

theorem writeSlot_bus_high (x : Slot) (h : 4 ≤ v.toNat) : writeSlot x 2 v = x := by
  show (FxBus.ofWord v).elim x _ = x
  unfold FxBus.ofWord
  split
  case h_5 => rfl
  all_goals omega

theorem writeSlot_param (x : Slot) (i : Fin 32) : writeSlot x (0x10 + i.val) v = { x with params := x.params.set i v } := by
  have := i.isLt
  unfold writeSlot
  split
  case h_5 =>
    rw [if_pos (by omega), Nat.add_sub_cancel_left]
    congr 1
    exact setIfInBounds_eq_set _ _ this
  all_goals omega

theorem writeSlot_unlisted (x : Slot) {off : Nat} (h : off = 1 ∨ (5 ≤ off ∧ off < 0x10) ∨ (0x30 ≤ off ∧ off < 64)) :
    writeSlot x off v = x := by
  unfold writeSlot
  split
  case h_5 => exact if_neg (by omega)
  all_goals omega

theorem delayRegisterWrites (s : State) (u : Nat) (v : Word) (d : DelayUnit) (hu : u < 64) (hd : s.delays[u]? = some d) :
    let write := fun off => writeControl (0x400 + 8 * u + off) v s
    let after := fun e : DelayUnit => { s with delays := s.delays.set u e }
    write 2 = after { d with line := { d.line with
      wpt := BitVec.ofInt 32 (if d.line.len = 0 then 0 else v.toInt % (d.line.len.toNat : Int)) } } ∧
    write 3 = after { d with hist := v } ∧ write 4 = after { d with fb := v } ∧
    write 5 = after { d with damp := BitVec.ofInt 32 (clamp 0 0x01000000 v.toInt) } ∧
    write 6 = after { d with store := v } ∧ write 0 = s ∧ write 1 = s ∧ write 7 = s := by
  have write : ∀ off < 8, writeControl (0x400 + 8 * u + off) v s =
      { s with delays := s.delays.set u (writeDelay d off v) } := fun off h => writeControl_delay hu hd h
  have keep : ∀ off < 8, writeDelay d off v = d → writeControl (0x400 + 8 * u + off) v s = s := fun off h e => by
    rw [write off h, e, setDelays_self hd]
  refine ⟨?_, write 3 (by decide), write 4 (by decide), ?_, write 6 (by decide), keep 0 (by decide) rfl,
    keep 1 (by decide) rfl, keep 7 (by decide) rfl⟩
  · rw [← modOrZero_eq]
    exact write 2 (by decide)
  · rw [← clampSigned_eq v (by decide)]
    exact write 5 (by decide)

theorem lfoRegisterWrites (s : State) (u : Nat) (v : Word) (l : LfoUnit) (hu : u < 64) (hl : s.lfos[u]? = some l) :
    let write := fun off => writeControl (0x600 + 4 * u + off) v s
    let after := fun e : LfoUnit => { s with lfos := s.lfos.set u e }
    write 1 = after { l with
      count := BitVec.ofInt 32 (if l.cycle = 0 then 0 else v.toInt % (l.cycle.toNat : Int)) } ∧
    write 2 = after { l with wave := if v.toNat % 2 = 1 then .triangle else .sine } ∧
    write 0 = s ∧ write 3 = s := by
  have write : ∀ off < 4, writeControl (0x600 + 4 * u + off) v s =
      { s with lfos := s.lfos.set u (writeLfo l off v) } := fun off h => writeControl_lfo hu hl h
  have keep : ∀ off < 4, writeLfo l off v = l → writeControl (0x600 + 4 * u + off) v s = s := fun off h e => by
    rw [write off h, e, setLfos_self hl]
  refine ⟨?_, ?_, keep 0 (by decide) rfl, keep 3 (by decide) rfl⟩
  · rw [← modOrZero_eq]
    exact write 1 (by decide)
  · have wave : (if v.toNat % 2 = 1 then Waveform.triangle else .sine) = if v.getLsbD 0 then .triangle else .sine := by
      rw [getLsbD_zero_eq]
      simp only [decide_eq_true_eq]
    rw [wave]
    exact write 2 (by decide)

theorem filterRegisterWrites (s : State) (u : Nat) (v : Word) (f : FilterUnit) (hu : u < 8)
    (hf : s.filters[u]? = some f) :
    let write := fun off => writeControl (0x700 + 32 * u + off) v s
    let after := fun e : FilterUnit => { s with filters := s.filters.set u e }
    write 0 = after { f with b0 := v } ∧ write 1 = after { f with b1 := v } ∧ write 2 = after { f with b2 := v } ∧
    write 3 = after { f with a1 := v } ∧ write 4 = after { f with a2 := v } ∧ write 5 = after { f with x1 := v } ∧
    write 6 = after { f with x2 := v } ∧ write 7 = after { f with y1 := v } ∧ write 8 = after { f with y2 := v } ∧
    write 9 = after { f with rf := v } ∧ write 10 = after { f with rq := v } ∧ write 11 = after { f with rp := v } ∧
    write 12 = after { f with hist := { f.hist with h0 := v } } ∧
    write 13 = after { f with hist := { f.hist with h1 := v } } ∧
    write 14 = after { f with hist := { f.hist with h2 := v } } ∧
    write 15 = after { f with hist := { f.hist with h3 := v } } ∧
    write 16 = after { f with hist := { f.hist with h4 := v } } ∧
    write 17 = after { f with dirty := decide (v.toNat % 2 = 1) } ∧
    write 18 = after { f with pfreq := v, dirty := true } ∧ write 19 = after { f with pq := v, dirty := true } ∧
    write 20 = after { f with pgain := v, dirty := true } ∧ ∀ off, 21 ≤ off → off < 32 → write off = s := by
  have write : ∀ off < 32, writeControl (0x700 + 32 * u + off) v s =
      { s with filters := s.filters.set u (writeFilter f off v) } := fun off h => writeControl_filter hu hf h
  refine ⟨write 0 (by decide), write 1 (by decide), write 2 (by decide), write 3 (by decide), write 4 (by decide),
    write 5 (by decide), write 6 (by decide), write 7 (by decide), write 8 (by decide), write 9 (by decide),
    write 10 (by decide), write 11 (by decide), write 12 (by decide), write 13 (by decide), write 14 (by decide),
    write 15 (by decide), write 16 (by decide), ?_, write 18 (by decide), write 19 (by decide), write 20 (by decide),
    fun off h0 h1 => ?_⟩
  · rw [← getLsbD_zero_eq]
    exact write 17 (by decide)
  · show writeControl (0x700 + 32 * u + off) v s = s
    rw [write off h1, writeFilter_unlisted f ⟨h0, h1⟩, setFilters_self hf]

theorem slotRegisterWrites (s : State) (u : Nat) (v : Word) (x : Slot) (hu : u < 16) (hx : s.slots[u]? = some x) :
    let write := fun off => writeControl (0x800 + 64 * u + off) v s
    let after := fun y : Slot => { s with slots := s.slots.set u y }
    (v = x.fxType → write 0 = s) ∧
    (v ≠ x.fxType → write 0 = after { x with fxType := v, used := 0, record := .empty }) ∧
    (v = 0 → write 2 = after { x with bus := .reverb }) ∧ (v = 1 → write 2 = after { x with bus := .chorus }) ∧
    (v = 2 → write 2 = after { x with bus := .delay }) ∧ (v = 3 → write 2 = after { x with bus := .insert }) ∧
    (4 ≤ v.toNat → write 2 = s) ∧ write 3 = after { x with base := v } ∧ write 4 = after { x with limit := v } ∧
    (∀ i : Fin 32, write (0x10 + i.val) = after { x with params := x.params.set i v }) ∧
    ∀ off, off = 1 ∨ (5 ≤ off ∧ off < 0x10) ∨ (0x30 ≤ off ∧ off < 64) → write off = s := by
  have write : ∀ off < 64, writeControl (0x800 + 64 * u + off) v s =
      { s with slots := s.slots.set u (writeSlot x off v) } := fun off h => writeControl_slot hu hx h
  have keep : ∀ off < 64, writeSlot x off v = x → writeControl (0x800 + 64 * u + off) v s = s := fun off h e => by
    rw [write off h, e, setSlots_self hx]
  refine ⟨fun e => keep 0 (by decide) (if_pos e), fun e => ?_, ?_, ?_, ?_, ?_,
    fun h => keep 2 (by decide) (writeSlot_bus_high x h), write 3 (by decide), write 4 (by decide), fun i => ?_,
    fun off h => keep off (by omega) (writeSlot_unlisted x h)⟩
  · have typed : writeSlot x 0 v = { x with fxType := v, used := 0, record := .empty } := if_neg e
    exact typed ▸ write 0 (by decide)
  · rintro rfl
    exact write 2 (by decide)
  · rintro rfl
    exact write 2 (by decide)
  · rintro rfl
    exact write 2 (by decide)
  · rintro rfl
    exact write 2 (by decide)
  · rw [← writeSlot_param x i]
    exact write _ (by have := i.isLt; omega)

/-- Settles O27: the four kinds of block. -/
theorem unitRegisterWrites : Obligations.UnitRegisterWrites := fun s u v =>
  ⟨delayRegisterWrites s u v, lfoRegisterWrites s u v, filterRegisterWrites s u v, slotRegisterWrites s u v⟩

end Sys2Proof.Proofs
end

section
/-! Writes of voice registers (10_state.md R80 to R90): each changes the register it names and no other. -/

namespace Sys2Proof.Proofs

open Sys2Proof.Machine Sys2Proof.Claims

/-! ### A register other than the one written -/

theorem entry_setIfInBounds_ne {n : Nat} (xs : Vector Word n) (w : Word) {i j : Nat} (h : i ≠ j) :
    entry (xs.setIfInBounds i w) j = entry xs j := by
  unfold entry
  rw [Vector.getElem?_setIfInBounds_ne h]

theorem entry_setIfInBounds_self {n : Nat} (xs : Vector Word n) (w : Word) {i : Nat} (h : i < n) :
    entry (xs.setIfInBounds i w) i = w := by
  unfold entry
  rw [Vector.getElem?_setIfInBounds_self_of_lt h, Option.getD_some]

/-- The arrays of an envelope after a write: the entry written, or what was read before. -/
theorem readEnvArrays_write_ne (e : EnvRegs) (v : Word) (base : Nat) {off off' : Nat} (h : off' ≠ off) :
    readEnvArrays (writeEnvArrays e base off v) base off' = readEnvArrays e base off' := by
  unfold writeEnvArrays
  split
  · unfold readEnvArrays
    split
    · exact entry_setIfInBounds_ne _ _ (by omega)
    · rfl
  · split
    · unfold readEnvArrays
      split
      · rfl
      · split
        · exact entry_setIfInBounds_ne _ _ (by omega)
        · rfl
    · split
      · unfold readEnvArrays
        split
        · rfl
        · split
          · rfl
          · split
            · exact entry_setIfInBounds_ne _ _ (by omega)
            · rfl
      · rfl

/-- A write of the arrays changes no register beside them. -/
theorem writeEnvArrays_scalars (e : EnvRegs) (base off : Nat) (v : Word) :
    (writeEnvArrays e base off v).stage = e.stage ∧ (writeEnvArrays e base off v).value = e.value ∧
      (writeEnvArrays e base off v).target = e.target ∧ (writeEnvArrays e base off v).inc = e.inc := by
  unfold writeEnvArrays
  split_ifs <;> exact ⟨rfl, rfl, rfl, rfl⟩

/-- The offsets at which a voice register stands by itself, in no array. -/
def scalarOffsets : List Nat :=
  [0x00, 0x01, 0x02, 0x03, 0x04, 0x05, 0x06, 0x07, 0x08, 0x09, 0x0A, 0x0B, 0x0C, 0x0D, 0x0E, 0x0F, 0x10, 0x18, 0x19,
    0x1A, 0x1B, 0x1C, 0x1D, 0x38, 0x39, 0x3A, 0x3B, 0x58, 0x59, 0x5A, 0x5B, 0x5C, 0x60, 0x61, 0x63, 0x64, 0x65, 0x66,
    0x67, 0x68, 0x69, 0x6A, 0x70, 0x71, 0x72, 0x73]

theorem writeVoiceReg_array (r : Voice) (v : Word) {off : Nat} (h : off ∉ scalarOffsets) : writeVoiceReg r off v =
    if off < 0x38 then { r with env := writeEnvArrays r.env 0x20 off v }
    else { r with menv := writeEnvArrays r.menv 0x40 off v } := by
  unfold writeVoiceReg
  split
  case h_47 => rfl
  all_goals exact absurd (by decide) h

variable (r : Voice) (v : Word) {off off' : Nat}

/- The splitter of the register match is made here; the theorems below would each hold a thread to wait for it. -/
set_option Elab.async false in
theorem readVoiceReg_write_general (hl : off < 0x09) (h : off' ≠ off) :
    readVoiceReg (writeVoiceReg r off v) off' = readVoiceReg r off' := by
  interval_cases off
  pick_goal 2 -- V_STATUS
  · show readVoiceReg ((VoiceStatus.ofWord v).elim r fun st => { r with status := st }) off' = _
    cases VoiceStatus.ofWord v with
    | none => rfl
    | some st =>
      unfold readVoiceReg
      split <;> first | rfl | exact absurd rfl h
  all_goals
    unfold readVoiceReg
    split <;> first | rfl | exact absurd rfl h

theorem readVoiceReg_write_filter (hl : 0x09 ≤ off ∧ off ≤ 0x10) (h : off' ≠ off) :
    readVoiceReg (writeVoiceReg r off v) off' = readVoiceReg r off' := by
  obtain ⟨h0, h1⟩ := hl
  interval_cases off
  all_goals
    unfold readVoiceReg
    split <;> first | rfl | exact absurd rfl h

theorem readVoiceReg_write_envelope (hl : off ∈ [0x18, 0x19, 0x1A, 0x1B, 0x1C, 0x1D]) (h : off' ≠ off) :
    readVoiceReg (writeVoiceReg r off v) off' = readVoiceReg r off' := by
  simp only [List.mem_cons, List.not_mem_nil, or_false] at hl
  rcases hl with rfl | rfl | rfl | rfl | rfl | rfl
  all_goals
    unfold readVoiceReg
    split <;> first | rfl | exact absurd rfl h

theorem readVoiceReg_write_modulation (hl : off ∈ [0x38, 0x39, 0x3A, 0x3B]) (h : off' ≠ off) :
    readVoiceReg (writeVoiceReg r off v) off' = readVoiceReg r off' := by
  simp only [List.mem_cons, List.not_mem_nil, or_false] at hl
  rcases hl with rfl | rfl | rfl | rfl
  all_goals
    unfold readVoiceReg
    split <;> first | rfl | exact absurd rfl h

theorem readVoiceReg_write_tremolo (hl : 0x58 ≤ off ∧ off ≤ 0x5C) (h : off' ≠ off) :
    readVoiceReg (writeVoiceReg r off v) off' = readVoiceReg r off' := by
  obtain ⟨h0, h1⟩ := hl
  interval_cases off
  all_goals
    unfold readVoiceReg
    split <;> first | rfl | exact absurd rfl h

theorem readVoiceReg_write_mixer (hl : off ∈ [0x60, 0x61, 0x63, 0x64, 0x65, 0x66, 0x67, 0x68, 0x69, 0x6A])
    (h : off' ≠ off) : readVoiceReg (writeVoiceReg r off v) off' = readVoiceReg r off' := by
  simp only [List.mem_cons, List.not_mem_nil, or_false] at hl
  rcases hl with rfl | rfl | rfl | rfl | rfl | rfl | rfl | rfl | rfl | rfl
  all_goals
    unfold readVoiceReg
    split <;> first | rfl | exact absurd rfl h

theorem readVoiceReg_write_panDelay (hl : 0x70 ≤ off ∧ off ≤ 0x73) (h : off' ≠ off) :
    readVoiceReg (writeVoiceReg r off v) off' = readVoiceReg r off' := by
  obtain ⟨h0, h1⟩ := hl
  interval_cases off
  all_goals
    unfold readVoiceReg
    split <;> first | rfl | exact absurd rfl h

theorem readVoiceReg_write_arrays (hl : off ∉ scalarOffsets) (h : off' ≠ off) :
    readVoiceReg (writeVoiceReg r off v) off' = readVoiceReg r off' := by
  rw [writeVoiceReg_array r v hl]
  obtain ⟨stage, value, target, inc⟩ := writeEnvArrays_scalars r.env 0x20 off v
  obtain ⟨mstage, mvalue, mtarget, minc⟩ := writeEnvArrays_scalars r.menv 0x40 off v
  split
  · unfold readVoiceReg
    split
    case h_50 =>
      split
      · exact readEnvArrays_write_ne _ _ _ h
      · rfl
    all_goals first | rfl | assumption
  · unfold readVoiceReg
    split
    case h_50 =>
      split
      · rfl
      · exact readEnvArrays_write_ne _ _ _ h
    all_goals first | rfl | assumption

/-- A write of one voice register leaves every other as it was. -/
theorem readVoiceReg_write_ne (h : off' ≠ off) :
    readVoiceReg (writeVoiceReg r off v) off' = readVoiceReg r off' := by
  by_cases hs : off ∈ scalarOffsets
  · by_cases h0 : off < 0x09
    · exact readVoiceReg_write_general r v h0 h
    by_cases h1 : off ≤ 0x10
    · exact readVoiceReg_write_filter r v (by omega) h
    by_cases h2 : off ≤ 0x1D
    · exact readVoiceReg_write_envelope r v (by simp [scalarOffsets] at hs ⊢; omega) h
    by_cases h3 : off ≤ 0x3B
    · exact readVoiceReg_write_modulation r v (by simp [scalarOffsets] at hs ⊢; omega) h
    by_cases h4 : off ≤ 0x5C
    · exact readVoiceReg_write_tremolo r v (by simp [scalarOffsets] at hs; omega) h
    by_cases h5 : off ≤ 0x6A
    · exact readVoiceReg_write_mixer r v (by simp [scalarOffsets] at hs ⊢; omega) h
    · exact readVoiceReg_write_panDelay r v (by simp [scalarOffsets] at hs; omega) h
  · exact readVoiceReg_write_arrays r v hs h

/-! ### The register written -/

theorem readVoiceReg_write_stored (h : off ∈ [0x03, 0x04, 0x05, 0x06, 0x07, 0x08, 0x09, 0x0A, 0x0B, 0x0C, 0x0D, 0x0E,
    0x0F, 0x10, 0x18, 0x1A, 0x1B, 0x1C, 0x1D, 0x38, 0x3A, 0x3B, 0x58, 0x59, 0x5C, 0x60, 0x61, 0x63, 0x64, 0x65, 0x66,
    0x67, 0x68, 0x69, 0x6A, 0x70]) : readVoiceReg (writeVoiceReg r off v) off = v := by
  simp only [List.mem_cons, List.not_mem_nil, or_false] at h
  rcases h with rfl | rfl | rfl | rfl | rfl | rfl | rfl | rfl | rfl | rfl | rfl | rfl | rfl | rfl | rfl | rfl | rfl |
    rfl | rfl | rfl | rfl | rfl | rfl | rfl | rfl | rfl | rfl | rfl | rfl | rfl | rfl | rfl | rfl | rfl | rfl | rfl <;> rfl

/-- The rows of the envelope arrays: what an entry holds after its write. -/
theorem readEnvArrays_write_rate (e : EnvRegs) {base i : Nat} (h : i < 6) :
    readEnvArrays (writeEnvArrays e base (base + i) v) base (base + i) = clampSigned v 0 Config.offsetMax := by
  unfold writeEnvArrays
  rw [if_pos (by omega)]
  unfold readEnvArrays
  rw [if_pos (by omega), Nat.add_sub_cancel_left]
  exact entry_setIfInBounds_self _ _ h

theorem readEnvArrays_write_offset (e : EnvRegs) {base i : Nat} (h : i < 6) :
    readEnvArrays (writeEnvArrays e base (base + 8 + i) v) base (base + 8 + i) = clampSigned v 0 Config.offsetMax := by
  unfold writeEnvArrays
  rw [if_neg (by omega), if_pos (by omega)]
  unfold readEnvArrays
  rw [if_neg (by omega), if_pos (by omega), Nat.add_sub_cancel_left]
  exact entry_setIfInBounds_self _ _ h

theorem readEnvArrays_write_follow (e : EnvRegs) {base i : Nat} (h : i < 6) :
    readEnvArrays (writeEnvArrays e base (base + 16 + i) v) base (base + 16 + i) = clampSigned v 0 (2 ^ 24) := by
  unfold writeEnvArrays
  rw [if_neg (by omega), if_neg (by omega), if_pos (by omega)]
  unfold readEnvArrays
  rw [if_neg (by omega), if_neg (by omega), if_pos (by omega), Nat.add_sub_cancel_left]
  exact entry_setIfInBounds_self _ _ h

theorem readVoiceReg_write_envRate (h : 0x20 ≤ off ∧ off < 0x26) :
    readVoiceReg (writeVoiceReg r off v) off = clampSigned v 0 Config.offsetMax := by
  obtain ⟨i, rfl⟩ := Nat.exists_eq_add_of_le h.1
  have array := readEnvArrays_write_rate v r.env (base := 0x20) (i := i) (by omega)
  have hi : i < 6 := by omega
  clear h
  interval_cases i <;> exact array

theorem readVoiceReg_write_envOffset (h : 0x28 ≤ off ∧ off < 0x2e) :
    readVoiceReg (writeVoiceReg r off v) off = clampSigned v 0 Config.offsetMax := by
  obtain ⟨i, rfl⟩ := Nat.exists_eq_add_of_le h.1
  have array := readEnvArrays_write_offset v r.env (base := 0x20) (i := i) (by omega)
  have hi : i < 6 := by omega
  clear h
  interval_cases i <;> exact array

theorem readVoiceReg_write_envFollow (h : 0x30 ≤ off ∧ off < 0x36) :
    readVoiceReg (writeVoiceReg r off v) off = clampSigned v 0 (2 ^ 24) := by
  obtain ⟨i, rfl⟩ := Nat.exists_eq_add_of_le h.1
  have array := readEnvArrays_write_follow v r.env (base := 0x20) (i := i) (by omega)
  have hi : i < 6 := by omega
  clear h
  interval_cases i <;> exact array

theorem readVoiceReg_write_menvRate (h : 0x40 ≤ off ∧ off < 0x46) :
    readVoiceReg (writeVoiceReg r off v) off = clampSigned v 0 Config.offsetMax := by
  obtain ⟨i, rfl⟩ := Nat.exists_eq_add_of_le h.1
  have array := readEnvArrays_write_rate v r.menv (base := 0x40) (i := i) (by omega)
  have hi : i < 6 := by omega
  clear h
  interval_cases i <;> exact array

theorem readVoiceReg_write_menvOffset (h : 0x48 ≤ off ∧ off < 0x4e) :
    readVoiceReg (writeVoiceReg r off v) off = clampSigned v 0 Config.offsetMax := by
  obtain ⟨i, rfl⟩ := Nat.exists_eq_add_of_le h.1
  have array := readEnvArrays_write_offset v r.menv (base := 0x40) (i := i) (by omega)
  have hi : i < 6 := by omega
  clear h
  interval_cases i <;> exact array

theorem readVoiceReg_write_menvFollow (h : 0x50 ≤ off ∧ off < 0x56) :
    readVoiceReg (writeVoiceReg r off v) off = clampSigned v 0 (2 ^ 24) := by
  obtain ⟨i, rfl⟩ := Nat.exists_eq_add_of_le h.1
  have array := readEnvArrays_write_follow v r.menv (base := 0x40) (i := i) (by omega)
  have hi : i < 6 := by omega
  clear h
  interval_cases i <;> exact array

theorem readVoiceReg_write_bounded (h : off ∈ [0x19, 0x20, 0x21, 0x22, 0x23, 0x24, 0x25, 0x28, 0x29, 0x2A, 0x2B, 0x2C,
    0x2D, 0x39, 0x40, 0x41, 0x42, 0x43, 0x44, 0x45, 0x48, 0x49, 0x4A, 0x4B, 0x4C, 0x4D]) :
    readVoiceReg (writeVoiceReg r off v) off = BitVec.ofInt 32 (clamp 0 0x3FFFFFFF v.toInt) := by
  rw [← clampSigned_eq v (by decide)]
  simp only [List.mem_cons, List.not_mem_nil, or_false] at h
  by_cases h0 : off = 0x19
  · subst h0
    rfl
  by_cases h1 : off < 0x26
  · exact readVoiceReg_write_envRate r v (by omega)
  by_cases h2 : off < 0x2E
  · exact readVoiceReg_write_envOffset r v (by omega)
  by_cases h3 : off = 0x39
  · subst h3
    rfl
  by_cases h4 : off < 0x46
  · exact readVoiceReg_write_menvRate r v (by omega)
  · exact readVoiceReg_write_menvOffset r v (by omega)

theorem readVoiceReg_write_multiplier
    (h : off ∈ [0x30, 0x31, 0x32, 0x33, 0x34, 0x35, 0x50, 0x51, 0x52, 0x53, 0x54, 0x55]) :
    readVoiceReg (writeVoiceReg r off v) off = BitVec.ofInt 32 (clamp 0 (2 ^ 24) v.toInt) := by
  rw [← clampSigned_eq v (by decide)]
  simp only [List.mem_cons, List.not_mem_nil, or_false] at h
  by_cases h0 : off < 0x36
  · exact readVoiceReg_write_envFollow r v (by omega)
  · exact readVoiceReg_write_menvFollow r v (by omega)

/-- V_STATUS: the low three bits, where they name a status. -/
theorem readVoiceReg_write_status :
    readVoiceReg (writeVoiceReg r 1 v) 1 = if v &&& 7 < 5 then v &&& 7 else readVoiceReg r 1 := by
  have low : v &&& 7 = BitVec.ofNat 32 (v.toNat % 8) := and_low v 3
  have bound : v.toNat % 8 < 8 := Nat.mod_lt _ (by decide)
  show readVoiceReg ((VoiceStatus.ofWord v).elim r fun st => { r with status := st }) 1 = _
  unfold VoiceStatus.ofWord
  rw [low]
  generalize v.toNat % 8 = k at bound
  interval_cases k <;> rfl

theorem readVoiceReg_write_channel : readVoiceReg (writeVoiceReg r 2 v) 2 = v &&& 0xF := (and_low v 4).symm

/-- Read-only registers and offsets without a register ignore writes. -/
theorem writeVoiceReg_ignored (hl : off < 128) (h : off ∈ [0x3C, 0x5D, 0x62] ∨ (0x11 ≤ off ∧ off ≤ 0x17) ∨ off = 0x1E ∨
    off = 0x1F ∨ off = 0x26 ∨ off = 0x27 ∨ off = 0x2E ∨ off = 0x2F ∨ off = 0x36 ∨ off = 0x37 ∨
    (0x3D ≤ off ∧ off ≤ 0x3F) ∨ off = 0x46 ∨ off = 0x47 ∨ off = 0x4E ∨ off = 0x4F ∨ off = 0x56 ∨ off = 0x57 ∨
    off = 0x5E ∨ off = 0x5F ∨ (0x6B ≤ off ∧ off ≤ 0x6F) ∨ 0x74 ≤ off) : writeVoiceReg r off v = r := by
  have unlisted : off ∉ scalarOffsets := by
    simp only [List.mem_cons, List.not_mem_nil, or_false] at h
    simp only [scalarOffsets, List.mem_cons, List.not_mem_nil, or_false]
    omega
  have outside : ∀ (e : EnvRegs) (base : Nat), (base ≤ off → base + 6 ≤ off) → (base + 8 ≤ off → base + 14 ≤ off) →
      (base + 16 ≤ off → base + 22 ≤ off) → writeEnvArrays e base off v = e := by
    intro e base h0 h1 h2
    unfold writeEnvArrays
    rw [if_neg (by omega), if_neg (by omega), if_neg (by omega)]
  simp only [List.mem_cons, List.not_mem_nil, or_false] at h
  rw [writeVoiceReg_array r v unlisted]
  split
  · rw [outside r.env 0x20 (by omega) (by omega) (by omega)]
  · rw [outside r.menv 0x40 (by omega) (by omega) (by omega)]

/-! ### The whole map after a write -/

/-- Other voices, and the registers outside the voice blocks, read as before. -/
theorem readControl_write_ne {s : State} {n off b : Nat}
    (hb : b ≠ 0x1000 + 0x80 * n + off) :
    readControl { s with voices := s.voices.modify n fun r => writeVoiceReg r off v } b = readControl s b := by
  by_cases voices : 0x1000 ≤ b ∧ b < 0x2000
  · rw [readControl_voices voices, readControl_voices voices]
    show (List.modify s.voices n _)[_]?.elim _ _ = _
    rw [List.getElem?_modify]
    cases hv : s.voices[(b - 0x1000) / 0x80]? with
    | none => rfl
    | some r =>
      by_cases same : n = (b - 0x1000) / 0x80
      · rw [Option.map_eq_map, Option.map_some, if_pos same, Option.elim_some, Option.elim_some]
        exact readVoiceReg_write_ne r v (by omega)
      · rw [Option.map_eq_map, Option.map_some, if_neg same]
  · have build : State.params { s with voices := s.voices.modify n fun r => writeVoiceReg r off v } = s.params :=
      params_congr (List.length_modify _ _ _) rfl rfl rfl rfl rfl
    unfold readControl readGlobal
    rw [build]
    split_ifs <;> first | rfl | omega

/-- Settles O26: what the register written reads, and that no other register changed. -/
theorem voiceRegisterWrites : Obligations.VoiceRegisterWrites := by
  intro s n off v hlen hn hoff
  have hr : s.voices[n]? = some s.voices[n] := List.getElem?_eq_getElem hlen
  generalize s.voices[n] = r at hr
  have write := writeControl_voice (s := s) (v := v) hn hoff
  have read : readControl (writeControl (0x1000 + 0x80 * n + off) v s) (0x1000 + 0x80 * n + off) =
      readVoiceReg (writeVoiceReg r off v) off := by
    rw [write]
    refine readControl_voice hn ?_ hoff
    show (List.modify s.voices n _)[n]? = _
    rw [List.getElem?_modify, hr, Option.map_eq_map, Option.map_some, if_pos rfl]
  have before : ∀ o, o < 0x80 → readControl s (0x1000 + 0x80 * n + o) = readVoiceReg r o := fun o ho =>
    readControl_voice hn hr ho
  refine ⟨by rw [write], fun b hb => ?_, fun h => ?_, fun h => ?_, fun h => ?_, fun h => ?_, fun h => ?_, fun h => ?_,
    fun h => ?_, fun h => ?_, fun h => ?_, fun h => ?_⟩
  · rw [write]
    exact readControl_write_ne v hb
  · rw [read, readVoiceReg_write_stored r v h]
  · rw [read, readVoiceReg_write_bounded r v h]
  · rw [read, readVoiceReg_write_multiplier r v h]
  · rw [read, ← clampSigned_eq v (by decide)]
    simp only [List.mem_cons, List.not_mem_nil, or_false] at h
    rcases h with rfl | rfl <;> rfl
  · rw [read, ← clampSigned_eq v (by decide)]
    subst h
    rfl
  · rw [read, before 0x71 (by decide)]
    simp only [List.mem_cons, List.not_mem_nil, or_false] at h
    rcases h with rfl | rfl <;> exact modOrZero_eq v r.pdly.len
  · rw [read]
    subst h
    rfl
  · rw [read]
    subst h
    exact readVoiceReg_write_channel r v
  · rw [read, before off hoff]
    subst h
    exact readVoiceReg_write_status r v
  · rw [write, modify_eq_self fun x hx => ?_]
    exact writeVoiceReg_ignored x v hoff h

end Sys2Proof.Proofs
end

section
/-! Delay-line, LFO and filter units: what each command does to a unit that can run it. -/

namespace Sys2Proof.Proofs

open Sys2Proof.Machine Sys2Proof.Claims

-- Proofs elaborated one after another need less memory.
set_option Elab.async false

variable {s : State}

/-! ### Delay lines -/

theorem allocates_iff (s : State) (base len : Nat) : allocates s base len = true ↔
    1 ≤ len ∧ len ≤ 2 ^ 24 ∧ base + len ≤ s.sramWords := by
  unfold allocates maxLineLength
  exact decide_eq_true_iff

/-- DLCFG on a unit that exists, by its allocation test. -/
theorem exec_dlcfg {u : Nat} {d : DelayUnit} (rs1 rs2 : Nat) (hd : s.delays[u]? = some d) : exec (.dlcfg rs1 rs2 u) s =
    if allocates s (s.reg rs1).toNat (s.reg rs2).toNat then
      .next (completeCommand (State.setDelay u (configureDelay d (s.reg rs1) (s.reg rs2))
        { s with sram := memZeroWords s.sram (s.reg rs1).toNat (s.reg rs2).toNat }))
    else .next (takeFatal (.alloc (s.reg rs2)) s) := by
  show runCmd _ s = _
  unfold runCmd
  rw [bind_of_ok (readReg_run rs1 s), bind_of_ok (readReg_run rs2 s), bind_of_ok (getState_run s), hd]
  cases allocates s (s.reg rs1).toNat (s.reg rs2).toNat <;> rfl

/-- Settles O31: the allocation test holds. -/
theorem delayConfigureResult : Obligations.DelayConfigureResult := by
  intro s d rs1 rs2 u hd base len h1 h2 h3
  have run := exec_dlcfg rs1 rs2 hd
  rw [if_pos ((allocates_iff _ _ _).2 ⟨h1, h2, h3⟩)] at run
  exact ⟨_, run, rfl, fun b => memByte_memZeroWords _ _ _ _ _⟩

theorem exec_dlwr {u : Nat} {d : DelayUnit} (rs1 : Nat) (hd : s.delays[u]? = some d) (hv : d.valid = true)
    (hw : s.sramWords ≤ 2 ^ 24) (hl : lineOk s.sramWords d.line = true) : exec (.dlwr rs1 u) s =
    .next (completeCommand (State.setDelay u { d with line := advanced d.line }
      (State.withSramWord (lineCursor d.line).toNat (s.reg rs1) s))) := by
  refine runCmd_of_ok ((withDelay_ok hd hv).trans ?_)
  rw [bind_of_ok (readRegS_run rs1 s), bind_of_ok (linePush_ok _ hl hw), update_run, wordOf_toInt_self]

theorem exec_dlrd {u : Nat} {d : DelayUnit} (rd rs1 : Nat) (hd : s.delays[u]? = some d) (hv : d.valid = true)
    (hw : s.sramWords ≤ 2 ^ 24) (hl : lineOk s.sramWords d.line = true) : exec (.dlrd rd rs1 u) s =
    .next (completeCommand (State.withReg rd
      (s.sramWord (tapAt d.line (clamp 1 d.line.len.toNat (s.reg rs1).toInt)))
      (s.ranged (decide (¬(1 ≤ (s.reg rs1).toInt ∧ (s.reg rs1).toInt ≤ d.line.len.toNat)))))) := by
  refine runCmd_of_ok ((withDelay_ok hd hv).trans ?_)
  rw [bind_of_ok (readRegS_run rs1 s), bind_of_ok (lineTap_ok _ hl hw), writeReg_run]
  unfold tapSample
  rw [wordOf_toInt_self]

/-- Settles O32: a push at the cursor and a clamped tap. -/
theorem delayWriteReadResults : Obligations.DelayWriteReadResults := by
  intro s d rd rs1 u hd hv hw hl tap a
  refine ⟨⟨_, exec_dlwr rs1 hd hv hw hl, rfl, lineCursor_toNat hl hw, ?_, ?_⟩, exec_dlrd rd rs1 hd hv hw hl⟩
  · exact sramWord_withSramWord_self _ _ _
  · exact fun b hb => sramByte_withSramWord_of_outside _ _ hb

/-! ### The interpolation coefficient (41_delayline.md R355) -/

theorem eta_of_nonneg {f : Int} (h0 : 0 ≤ f) (h1 : f < 2 ^ 24) :
    eta f = (2 ^ 24 - f) * 2 ^ 24 / (2 ^ 24 + f) := by
  unfold eta
  exact Int.tdiv_eq_ediv_of_nonneg (mul_nonneg (by omega) (by decide))

theorem ediv_le_ediv_of_divisor_le {x a b : Int} (hx : 0 ≤ x) (ha : 0 < a) (hab : a ≤ b) : x / b ≤ x / a := by
  rw [Int.le_ediv_iff_mul_le ha]
  calc x / b * a ≤ x / b * b := mul_le_mul_of_nonneg_left hab (Int.ediv_nonneg hx (by omega))
    _ ≤ x := Int.ediv_mul_le x (by omega)

/-- The numerator falls and the denominator rises with `f`. -/
theorem eta_antitone {f g : Int} (h0 : 0 ≤ f) (hfg : f ≤ g) (h1 : g < 2 ^ 24) : eta g ≤ eta f := by
  rw [eta_of_nonneg h0 (by omega), eta_of_nonneg (by omega) h1]
  calc (2 ^ 24 - g) * 2 ^ 24 / (2 ^ 24 + g) ≤ (2 ^ 24 - f) * 2 ^ 24 / (2 ^ 24 + g) :=
        Int.ediv_le_ediv (by omega) (by omega)
    _ ≤ (2 ^ 24 - f) * 2 ^ 24 / (2 ^ 24 + f) :=
        ediv_le_ediv_of_divisor_le (mul_nonneg (by omega) (by decide)) (by omega) (by omega)

theorem eta_bounds {f : Int} (h0 : 0 ≤ f) (h1 : f < 2 ^ 24) : 0 ≤ eta f ∧ eta f ≤ 2 ^ 24 := by
  have most : eta f ≤ eta 0 := eta_antitone (by decide) h0 h1
  have one : eta 0 = 2 ^ 24 := by decide
  refine ⟨?_, by omega⟩
  rw [eta_of_nonneg h0 h1]
  exact Int.ediv_nonneg (mul_nonneg (by omega) (by decide)) (by omega)

theorem exec_dlmrd {u : Nat} {d : DelayUnit} {y : Int} {t : State} (rd rs1 rs2 : Nat) (hd : s.delays[u]? = some d)
    (hv : d.valid = true)
    (read : lineInterp d.line (s.reg rs1).toInt (s.reg rs2).toInt d.hist.toInt s = .ok y t) :
    exec (.dlmrd rd rs1 rs2 u) s =
      .next (completeCommand (State.withReg rd (wordOf y) (State.setDelay u { d with hist := wordOf y } t))) := by
  refine runCmd_of_ok ((withDelay_ok hd hv).trans ?_)
  rw [bind_of_ok (readRegS_run rs1 s), bind_of_ok (readRegS_run rs2 s), bind_of_ok read, bind_of_ok (update_run _ _),
    writeReg_run]

/-- Settles O33: the coefficient's values, and the read between two taps. -/
theorem modulatedReadResult : Obligations.ModulatedReadResult := by
  refine ⟨⟨by decide, by decide, fun f g h0 h h1 => ?_⟩, ?_⟩
  · exact ⟨(eta_bounds (by omega) h1).1, eta_antitone h0 h h1, (eta_bounds h0 (by omega)).2⟩
  · intro s d rd rs1 rs2 u hd hv hw hl
    exact exec_dlmrd rd rs1 rs2 hd hv (lineInterp_ok _ _ _ hl hw)

theorem exec_comb {u : Nat} {d : DelayUnit} {y st : Int} {l : Line} {t : State} (rd rs1 : Nat)
    (hd : s.delays[u]? = some d) (hv : d.valid = true)
    (run : combStep d.line d.store.toInt (s.reg rs1).toInt d.fb.toInt d.damp.toInt s = .ok (y, l, st) t) :
    exec (.comb rd rs1 u) s = .next (completeCommand (State.withReg rd (wordOf y)
      (State.setDelay u { d with line := l, store := wordOf st } t))) := by
  refine runCmd_of_ok ((withDelay_ok hd hv).trans ?_)
  rw [bind_of_ok (readRegS_run rs1 s), bind_of_ok run]
  rfl

theorem exec_apf {u : Nat} {d : DelayUnit} {y : Int} {l : Line} {t : State} (rd rs1 : Nat)
    (hd : s.delays[u]? = some d) (hv : d.valid = true)
    (run : apfStep d.line (s.reg rs1).toInt d.fb.toInt s = .ok (y, l) t) :
    exec (.apf rd rs1 u) s = .next (completeCommand (State.withReg rd (wordOf y)
      (State.setDelay u { d with line := l } t))) := by
  refine runCmd_of_ok ((withDelay_ok hd hv).trans ?_)
  rw [bind_of_ok (readRegS_run rs1 s), bind_of_ok run]
  rfl

/-- Settles O34: one comb step and one allpass step on the unit's line. -/
theorem combAllpassResults : Obligations.CombAllpassResults := by
  intro s d rd rs1 u hd hv hw hl x a old damp p q st fed combIn back apfIn
  have comb := exec_comb rd rs1 hd hv (combStep_ok d.store.toInt x d.fb.toInt d.damp.toInt hl hw)
  have apf := exec_apf rd rs1 hd hv (apfStep_ok x d.fb.toInt hl hw)
  rw [wordOf_toInt_self] at comb
  refine ⟨lineCursor_toNat hl hw, ⟨_, comb, rfl, ?_, ?_⟩, ⟨_, apf, rfl, ?_, ?_⟩⟩
  · exact sramWord_withSramWord_self _ _ _
  · exact fun b hb => sramByte_withSramWord_of_outside _ _ hb
  · exact sramWord_withSramWord_self _ _ _
  · exact fun b hb => sramByte_withSramWord_of_outside _ _ hb

/-! ### LFO units -/

theorem clampUnsigned_ne_iff (c : Word) {hi : Nat} (h : 1 ≤ hi) (hh : hi < 2 ^ 32) :
    clampUnsigned c 1 hi ≠ c ↔ c.toNat = 0 ∨ hi < c.toNat := by
  have := c.isLt
  rw [clampUnsigned_eq c h, Ne, ← BitVec.toNat_inj, BitVec.toNat_ofNat]
  omega

theorem exec_lfocfg {u : Nat} {l : LfoUnit} (rs1 rs2 : Nat) (hl : s.lfos[u]? = some l) : exec (.lfocfg rs1 rs2 u) s =
    .next (completeCommand (State.setLfo u { l with
      cycle := clampUnsigned (s.reg rs1) 1 maxLfoCycle
      count := BitVec.ofNat 32 ((s.reg rs2).toNat % (clampUnsigned (s.reg rs1) 1 maxLfoCycle).toNat), out := 0 }
      (s.ranged (decide (clampUnsigned (s.reg rs1) 1 maxLfoCycle ≠ s.reg rs1))))) := by
  refine runCmd_of_ok ?_
  rw [bind_of_ok (readReg_run rs1 s), bind_of_ok (readReg_run rs2 s), bind_of_ok (getState_run s), hl]
  show (raiseFlagIf _ .range >>= fun _ => _) s = _
  rw [bind_of_ok (raiseFlagIf_range_ok _ _)]
  rfl

theorem exec_lfostep {u : Nat} {l : LfoUnit} {y : Int} (rd : Nat) (hl : s.lfos[u]? = some l) (hc : l.cycle ≠ 0)
    (wave : waveAt l.wave (waveIndex l.count.toNat l.cycle.toNat) s = .ok y s) : exec (.lfostep rd u) s =
    .next (completeCommand (State.withReg rd (wordOf y) (State.setLfo u { l with
      count := BitVec.ofNat 32 ((l.count.toNat + 1) % l.cycle.toNat), out := wordOf y } s))) := by
  refine runCmd_of_ok ?_
  rw [bind_of_ok (getState_run s), hl]
  show (if l.cycle = 0 then _ else _ : Cmd Unit) s = _
  rw [if_neg hc, bind_of_ok wave]
  rfl

theorem exec_lfostep_unconfigured {u : Nat} {l : LfoUnit} (rd : Nat) (hl : s.lfos[u]? = some l) (hc : l.cycle = 0) :
    exec (.lfostep rd u) s = .next (completeCommand (s.withFlag .range)) := by
  refine runCmd_of_ok ?_
  rw [bind_of_ok (getState_run s), hl]
  show (if l.cycle = 0 then _ else _ : Cmd Unit) s = _
  rw [if_pos hc]
  rfl

/-- Settles O36: the clamped cycle, and the waveform at the index of the count. -/
theorem lfoResults : Obligations.LfoResults := by
  intro s l rd rs1 rs2 u hl
  refine ⟨?_, fun hc => ?_, exec_lfostep_unconfigured rd hl⟩
  · intro c cycle
    have value : clampUnsigned (s.reg rs1) 1 maxLfoCycle = BitVec.ofNat 32 cycle := clampUnsigned_eq _ (by decide)
    have bound : cycle < 2 ^ 32 := by
      show max 1 (min (2 ^ 24) c) < 2 ^ 32
      omega
    have outside : decide (clampUnsigned (s.reg rs1) 1 maxLfoCycle ≠ s.reg rs1) = decide (c = 0 ∨ 2 ^ 24 < c) :=
      decide_eq_decide.2 (clampUnsigned_ne_iff _ (by decide) (by decide))
    rw [exec_lfocfg rs1 rs2 hl, outside, value, BitVec.toNat_ofNat, Nat.mod_eq_of_lt bound]
    rfl
  · cases hw : l.wave with
    | sine =>
      have run := exec_lfostep (y := (s.tramWord (2048 + l.count.toNat * 512 / l.cycle.toNat)).toInt) rd hl hc
        (by rw [hw]; rfl)
      rw [wordOf_toInt_self, hw] at run
      exact run
    | triangle =>
      have run := exec_lfostep (y := triangleWave (l.count.toNat * 512 / l.cycle.toNat)) rd hl hc (by rw [hw]; rfl)
      rw [hw] at run
      exact run

/-! ### Filter units -/

theorem exec_bq {u : Nat} {f : FilterUnit} (rd rs1 : Nat) (hf : s.filters[u]? = some f) : exec (.bq rd rs1 u) s =
    .next (completeCommand (State.withReg rd (wordOf (narrow (biquadSum f (s.reg rs1).toInt / 2 ^ 24)))
      (State.setFilter u (biquadShift f (s.reg rs1).toInt (narrow (biquadSum f (s.reg rs1).toInt / 2 ^ 24)))
        (s.narrowed [biquadSum f (s.reg rs1).toInt / 2 ^ 24])))) := by
  refine runCmd_of_ok ((withFilter_ok hf).trans ?_)
  rw [bind_of_ok (readRegS_run rs1 s), bind_of_ok (sat32_ok _ _)]
  rfl

theorem exec_fclr {u : Nat} {f : FilterUnit} (hf : s.filters[u]? = some f) :
    exec (.fclr u) s = .next (completeCommand (State.setFilter u (clearFilter f) s)) :=
  runCmd_of_ok ((withFilter_ok hf).trans rfl)

theorem exec_svf {u : Nat} {f : FilterUnit} {y : Int} {h : Hist} {t : State} (rd rs1 : Nat)
    (hf : s.filters[u]? = some f) (run : svfStep f.rf.toInt f.rq.toInt f.hist (s.reg rs1).toInt s = .ok (y, h) t) :
    exec (.svf rd rs1 u) s =
      .next (completeCommand (State.withReg rd (wordOf y) (State.setFilter u { f with hist := h } t))) := by
  refine runCmd_of_ok ((withFilter_ok hf).trans ?_)
  rw [bind_of_ok (readRegS_run rs1 s), bind_of_ok run]
  rfl

theorem exec_moog {u : Nat} {f : FilterUnit} {y : Int} {h : Hist} {t : State} (rd rs1 : Nat)
    (hf : s.filters[u]? = some f)
    (run : moogStep f.rf.toInt f.rp.toInt f.rq.toInt f.hist (s.reg rs1).toInt s = .ok (y, h) t) :
    exec (.moog rd rs1 u) s =
      .next (completeCommand (State.withReg rd (wordOf y) (State.setFilter u { f with hist := h } t))) := by
  refine runCmd_of_ok ((withFilter_ok hf).trans ?_)
  rw [bind_of_ok (readRegS_run rs1 s), bind_of_ok run]
  rfl

/-- Settles O37: the exact sum of BQ narrowed once, and one step of each resonant filter. -/
theorem filterResults : Obligations.FilterResults := by
  refine ⟨fun s f rd rs1 u hf => ⟨?_, exec_fclr hf⟩, fun s f rd rs1 u hf => ⟨?_, ?_⟩⟩
  · have quotient : ∀ a : Int, Int.fdiv a (2 ^ 24) = a / 2 ^ 24 := fun a =>
      Int.fdiv_eq_ediv_of_nonneg a (by decide)
    have shift : biquadShift f (s.reg rs1).toInt (narrow (biquadSum f (s.reg rs1).toInt / 2 ^ 24)) =
        { f with
          x2 := f.x1, x1 := s.reg rs1, y2 := f.y1,
          y1 := wordOf (narrow (biquadSum f (s.reg rs1).toInt / 2 ^ 24)) } := by
      unfold biquadShift
      rw [wordOf_toInt_self]
    have run := exec_bq rd rs1 hf
    rw [shift] at run
    simp only [quotient]
    exact run
  · exact exec_svf rd rs1 hf (svfStep_ok _ _ _ _ _)
  · exact exec_moog rd rs1 hf (moogStep_ok _ _ _ _ _ _)

end Sys2Proof.Proofs
end

section
/-! PROOFS. What a command on one voice makes of it: the voice it leaves, its answer, and the numbers it narrows.
The rules of the envelope's building blocks, and the chain of stages (44_envelope.md R510 to R520). -/

namespace Sys2Proof.Proofs

open Sys2Proof.Machine Sys2Proof.Claims

-- Proofs elaborated one after another need less memory.
set_option Elab.async false

variable {s : State} {n : Nat} {α β : Type}

/-- From a state whose voice `n` is `w` the command answers `a`, leaves the voice of `r` and narrows its numbers; the
rest of the state stays. -/
def Makes (s : State) (n : Nat) (c : Cmd α) (w : Voice) (a : α) (r : Voice × List Int) : Prop :=
  ∀ m vs, c (voiceState s n m vs w) = .ok a (voiceState s n m (vs ++ r.2) r.1)

theorem makes_pure (a : α) (w : Voice) : Makes s n (pure a) w a (w, []) := by
  intro m vs
  rw [List.append_nil]
  rfl

theorem Makes.bind {c : Cmd α} {k : α → Cmd β} {w : Voice} {a : α} {b : β} {r r' : Voice × List Int}
    (hc : Makes s n c w a r) (hk : Makes s n (k a) r.1 b r') : Makes s n (c >>= k) w b (r'.1, r.2 ++ r'.2) := by
  intro m vs
  rw [bind_of_ok (hc m vs), hk, List.append_assoc]

theorem Makes.after {c : Cmd α} {k : α → Cmd β} {w u : Voice} {a : α} {b : β} {r : Voice × List Int}
    (hc : Makes s n c w a (u, [])) (hk : Makes s n (k a) u b r) : Makes s n (c >>= k) w b r :=
  hc.bind hk

theorem Makes.before {c : Cmd α} {k : α → Cmd β} {w u : Voice} {a : α} {b : β} {r : Voice × List Int}
    (hc : Makes s n c w a r) (hk : Makes s n (k a) r.1 b (u, [])) : Makes s n (c >>= k) w b (u, r.2) := by
  have h := hc.bind hk
  rwa [List.append_nil] at h

theorem makes_getState_bind {k : State → Cmd β} {w : Voice} {b : β} {r : Voice × List Int}
    (hk : ∀ m vs, Makes s n (k (voiceState s n m vs w)) w b r) : Makes s n (getState >>= k) w b r := by
  intro m vs
  rw [bind_of_ok (getState_run _)]
  exact hk m vs m vs

theorem makes_answers {c : Cmd α} {a : State → α} {xs : List Int} (h : Answers c a xs) {w : Voice} {b : α}
    (hb : ∀ m vs, a (voiceState s n m vs w) = b) : Makes s n c w b (w, xs) := by
  intro m vs
  rw [h, hb, voiceState_narrowed]

theorem makes_fmul (q : Nat) (x y : Int) (w : Voice) :
    Makes s n (fmul q x y) w (narrow (scaled q x y)) (w, [scaled q x y]) :=
  makes_answers (answers_fmul q x y) fun _ _ => rfl

theorem makes_sat32 (x : Int) (w : Voice) : Makes s n (sat32 x) w (narrow x) (w, [x]) :=
  makes_answers (answers_sat32 x) fun _ _ => rfl

theorem makes_tabRead (a : Nat) (w : Voice) : Makes s n (tabRead a) w (s.tramWord a) (w, []) :=
  makes_answers (answers_tabRead a) fun _ _ => rfl

theorem makes_readVoice (hn : n < s.voices.length) (w : Voice) : Makes s n (readVoice n) w w (w, []) := by
  intro m vs
  rw [List.append_nil]
  exact readVoice_ok (s := State.narrowed vs { s with sram := m }) w hn

theorem makes_writeVoice (hn : n < s.voices.length) (f : Voice → Voice) (w : Voice) :
    Makes s n (writeVoice n f) w () (f w, []) := by
  intro m vs
  rw [List.append_nil]
  exact writeVoice_ok (s := State.narrowed vs { s with sram := m }) w f hn

theorem makes_freeVoice (hn : n < s.voices.length) (w : Voice) : Makes s n (freeVoice n) w true (reclaimed w, []) := by
  intro m vs
  rw [List.append_nil]
  exact freeVoice_ok (s := State.narrowed vs { s with sram := m }) w hn

theorem Makes.read {k : Voice → Cmd β} (hn : n < s.voices.length) {w : Voice} {b : β} {r : Voice × List Int}
    (hk : Makes s n (k w) w b r) : Makes s n (readVoice n >>= k) w b r :=
  (makes_readVoice hn w).bind hk

theorem Makes.write {k : Unit → Cmd β} (hn : n < s.voices.length) (f : Voice → Voice) {w : Voice} {b : β}
    {r : Voice × List Int} (hk : Makes s n (k ()) (f w) b r) : Makes s n (writeVoice n f >>= k) w b r :=
  (makes_writeVoice hn f w).bind hk

theorem Makes.scale {k : Int → Cmd β} (q : Nat) (x y : Int) {w : Voice} {b : β} {r : Voice × List Int}
    (hk : Makes s n (k (narrow (scaled q x y))) w b r) :
    Makes s n (fmul q x y >>= k) w b (r.1, scaled q x y :: r.2) :=
  (makes_fmul q x y w).bind hk

theorem Makes.narrow {k : Int → Cmd β} (x : Int) {w : Voice} {b : β} {r : Voice × List Int}
    (hk : Makes s n (k (narrow x)) w b r) : Makes s n (sat32 x >>= k) w b (r.1, x :: r.2) :=
  (makes_sat32 x w).bind hk

theorem Makes.table {k : Word → Cmd β} (a : Nat) {w : Voice} {b : β} {r : Voice × List Int}
    (hk : Makes s n (k (s.tramWord a)) w b r) : Makes s n (tabRead a >>= k) w b r :=
  (makes_tabRead a w).bind hk

theorem Makes.of_pos {p : Prop} [Decidable p] {c d : Cmd α} {w : Voice} {a : α} {r : Voice × List Int} (hp : p)
    (h : Makes s n c w a r) : Makes s n (if p then c else d) w a r := by
  rwa [if_pos hp]

theorem Makes.of_neg {p : Prop} [Decidable p] {c d : Cmd α} {w : Voice} {a : α} {r : Voice × List Int} (hp : ¬p)
    (h : Makes s n d w a r) : Makes s n (if p then c else d) w a r := by
  rwa [if_neg hp]

theorem Makes.cast {c : Cmd α} {w : Voice} {a a' : α} {r r' : Voice × List Int} (h : Makes s n c w a r) (ha : a = a')
    (hr : r = r') : Makes s n c w a' r' := by
  subst ha hr
  exact h

/-- What a command makes of a voice of the state itself. -/
theorem Makes.run {c : Cmd α} {w : Voice} {a : α} {r : Voice × List Int} (h : Makes s n c w a r)
    (hv : s.voices[n]? = some w) : c s = .ok a (voiceState s n s.sram r.2 r.1) := by
  have run := h s.sram []
  rwa [show voiceState s n s.sram [] w = s from State.setVoice_self hv] at run

/-! ### Numbers of the envelopes -/

theorem clamp_mem {lo hi : Int} (h : lo ≤ hi) (x : Int) : lo ≤ clamp lo hi x ∧ clamp lo hi x ≤ hi := by
  unfold clamp
  omega

theorem clampEnv_eq (x : Int) : clampEnv x = clamp 0 0x3FFFFFFF x := (clamp_eq 0 _ x (by decide)).symm

theorem ofInt_clamp_toInt (x : Int) : (BitVec.ofInt 32 (clamp 0 0x3FFFFFFF x)).toInt = clamp 0 0x3FFFFFFF x := by
  have h := clamp_mem (lo := 0) (hi := 0x3FFFFFFF) (by decide) x
  exact wordOf_toInt (by omega)

theorem sign_mul_eq (d r : Int) (h : d ≠ 0) : Int.sign d * r = if d < 0 then -r else r := by
  split
  · rw [Int.sign_eq_neg_one_of_neg ‹_›, Int.neg_one_mul]
  · rw [Int.sign_eq_one_of_pos (by omega), Int.one_mul]

/-- A rate held to the way that a falling value has to go (44_envelope.md R516). -/
theorem clampInt_natAbs {d : Int} (h : d < 0) (r : Int) : clampInt r 1 d.natAbs = clamp 1 (-d) r := by
  rw [Int.ofNat_natAbs_of_nonpos (by omega), clamp_eq _ _ _ (by omega)]

theorem tdiv_of_nonneg {a : Int} (h : 0 ≤ a) (b : Int) : Int.tdiv a b = a / b := Int.tdiv_eq_ediv_of_nonneg h

theorem minRamp_eq (s : State) :
    minRamp s = max 1 (20 * (s.sampleRate.toNat : Int) / (1000 * (s.controlRatio.toNat : Int))) := by
  unfold minRamp
  rw [tdiv_of_nonneg (by omega)]

theorem releaseScales_eq {value : Int} (h : 0 ≤ value) :
    releaseScales value = (releaseScale value, releaseReciprocal (releaseScale value)) := by
  have scale : releaseScale value = value * 2 ^ 16 / 0x3FFFFFFF := tdiv_of_nonneg (by omega) _
  unfold releaseScales releaseReciprocal
  rw [tdiv_of_nonneg (by decide), scale]
  rfl

/-! ### Where a chain from a stage counter stops -/

section stop

variable {stop : Nat → Bool} {k : Nat}

/-- The first stage counter from `k` at which a chain stops, among the eight that are looked at. -/
abbrev stopFrom (stop : Nat → Bool) (k : Nat) : Nat := ((List.range' k 8).find? stop).getD k

theorem stop_of_true (h : stop k = true) : stopFrom stop k = k := by
  unfold stopFrom
  rw [show List.range' k 8 = k :: List.range' (k + 1) 7 from rfl, List.find?_cons_of_pos h]
  rfl

variable (stops : ∀ j, 6 ≤ j → stop j = true)

include stops

theorem stop_of_false (h : stop k = false) : stopFrom stop k = stopFrom stop (k + 1) := by
  have hk : k ≤ 5 := by
    by_contra hk
    rw [stops k (by omega)] at h
    cases h
  obtain ⟨i, hi⟩ : ∃ i, (List.range' (k + 1) 7).find? stop = some i := by
    rw [← Option.isSome_iff_exists, List.find?_isSome]
    exact ⟨6, by simp; omega, stops 6 (by omega)⟩
  unfold stopFrom
  rw [show List.range' k 8 = k :: List.range' (k + 1) 7 from rfl, List.find?_cons_of_neg (by simp [h]), hi,
    show List.range' (k + 1) 8 = List.range' (k + 1) 7 ++ [k + 8] by
      rw [show 8 = 7 + 1 from rfl, List.range'_concat],
    List.find?_append, hi]
  rfl

/-- A property of the chain by its recursion: where it stops, and one stage before. -/
theorem stop_induction {P : Nat → Prop} (ends : ∀ k, stop k = true → P k)
    (passes : ∀ k, stop k = false → P (k + 1) → P k) (k : Nat) : P k := by
  have main : ∀ d k, 6 ≤ k + d → P k := by
    intro d
    induction d with
    | zero => exact fun k hk => ends k (stops k (by omega))
    | succ d ih =>
      intro k hk
      rcases h : stop k with _ | _
      · exact passes k h (ih (k + 1) (by omega))
      · exact ends k h
  exact main 6 k (by omega)

theorem le_stop (k : Nat) : k ≤ stopFrom stop k := by
  refine stop_induction (P := fun k => k ≤ stopFrom stop k) stops (fun k h => (stop_of_true h).ge) (fun k h ih => ?_) k
  rw [stop_of_false stops h]
  omega

theorem stop_stops (k : Nat) : stop (stopFrom stop k) = true := by
  refine stop_induction (P := fun k => stop (stopFrom stop k) = true) stops (fun k h => ?_) (fun k h ih => ?_) k
  · rwa [stop_of_true h]
  · rwa [stop_of_false stops h]

end stop

/-! ### The chain of stages -/

section chain

variable {v : Voice} {value : Int} {k : Nat}

/-- The first release stage of a voice. -/
theorem firstRelease_eq (v : Voice) : v.firstRelease = if v.ctrl.getLsbD 0 then 4 else 3 := rfl

theorem finalStage_eq (v : Voice) : v.finalStage = if v.ctrl.getLsbD 0 then 4 else 5 := rfl

theorem sustainStage_lt_iff (v : Voice) (k : Nat) : v.sustainStage < k ↔ v.firstRelease ≤ k := by
  unfold Voice.sustainStage Voice.firstRelease
  split <;> omega

theorem held_iff (v : Voice) : v.held = true ↔ v.status = .on ∨ v.status = .sustained := by
  unfold Voice.held
  simp

theorem stageEnd_of_final (h : v.finalStage < k) : stageEnd s v value k = .freed := if_pos (.inl h)

theorem lastStage_of_end (h : stageEnd s v value k ≠ .passes) : lastStage s v value k = k :=
  stop_of_true (by simpa using h)

theorem stops_of_stageEnd (s : State) (v : Voice) (value : Int) (j : Nat) (h : 6 ≤ j) :
    (stageEnd s v value j != .passes) = true := by
  have := finalStage_le v
  rw [stageEnd_of_final (by omega)]
  rfl

theorem lastStage_of_passes (h : stageEnd s v value k = .passes) :
    lastStage s v value k = lastStage s v value (k + 1) :=
  stop_of_false (stops_of_stageEnd s v value) (by simp [h])

theorem le_lastStage (k : Nat) : k ≤ lastStage s v value k := le_stop (stops_of_stageEnd s v value) k

theorem stageEnd_lastStage (k : Nat) : stageEnd s v value (lastStage s v value k) ≠ .passes := by
  have h := stop_stops (stops_of_stageEnd s v value) k
  simp only [bne_iff_ne] at h
  exact h

theorem stagesRead_of_passes (h : stageEnd s v value k = .passes) :
    stagesRead s v value k = k :: stagesRead s v value (k + 1) := by
  have := le_lastStage (s := s) (v := v) (value := value) (k + 1)
  unfold stagesRead
  rw [lastStage_of_passes h, ← List.range'_succ]
  dsimp only
  congr 1
  split <;> omega

theorem stagesRead_of_enters (h : stageEnd s v value k = .enters) : stagesRead s v value k = [k] := by
  unfold stagesRead
  rw [lastStage_of_end (by rw [h]; exact fun h => nomatch h)]
  dsimp only
  rw [if_pos h, Nat.add_sub_cancel_left]
  rfl

theorem stagesRead_of_freed (h : stageEnd s v value k = .freed) : stagesRead s v value k = [] := by
  unfold stagesRead
  rw [lastStage_of_end (by rw [h]; exact fun h => nomatch h)]
  dsimp only
  rw [if_neg (by rw [h]; exact fun h => nomatch h), Nat.sub_self]
  rfl

theorem stagesRead_of_sustains (h : stageEnd s v value k = .sustains) : stagesRead s v value k = [] := by
  unfold stagesRead
  rw [lastStage_of_end (by rw [h]; exact fun h => nomatch h)]
  dsimp only
  rw [if_neg (by rw [h]; exact fun h => nomatch h), Nat.sub_self]
  rfl

/-- The numbers narrowed where a stage's rate is read (44_envelope.md R513, R514). -/
def stageNumbers (v : Voice) (value : Int) (k : Nat) : List Int :=
  followed v.env k ::
    if k = v.firstRelease then [scaled 16 (narrow (followed v.env k)) (releaseScales value).1] else []

theorem stageChecks_of_passes (h : stageEnd s v value k = .passes) :
    stageChecks s v value k = stageNumbers v value k ++ stageChecks s v value (k + 1) := by
  unfold stageChecks
  rw [stagesRead_of_passes h]
  rfl

theorem stageChecks_of_enters (h : stageEnd s v value k = .enters) :
    stageChecks s v value k = stageNumbers v value k := by
  unfold stageChecks
  rw [stagesRead_of_enters h]
  exact List.append_nil _

theorem stageChecks_of_freed (h : stageEnd s v value k = .freed) : stageChecks s v value k = [] := by
  unfold stageChecks
  rw [stagesRead_of_freed h]
  rfl

theorem stageChecks_of_sustains (h : stageEnd s v value k = .sustains) : stageChecks s v value k = [] := by
  unfold stageChecks
  rw [stagesRead_of_sustains h]
  rfl

/-- The voice with ENV_LSS and ENV_LSR kept (44_envelope.md R514). -/
def withScales (value : Int) (v : Voice) : Voice :=
  { v with lss := BitVec.ofInt 32 (releaseScales value).1, lsr := BitVec.ofInt 32 (releaseScales value).2 }

/-- The voice with them kept, where stage `k` is the first of the release. -/
def scaleKept (value : Int) (k : Nat) (v : Voice) : Voice := if k = v.firstRelease then withScales value v else v

/-- The voice that a chain of stages ends with, by how it ends at stage `j`; `u` is `v` with the scales the chain
kept. -/
def stageEnded (s : State) (value : Int) (v u : Voice) (j : Nat) : StageEnd → Voice
  | .freed => { u with status := .free, ctrl := v.ctrl ||| 0x200, env := { v.env with stage := BitVec.ofNat 32 j } }
  | .sustains => { u with env := { v.env with
      stage := BitVec.ofNat 32 j, target := (sustainRamp s v value).1, inc := (sustainRamp s v value).2 } }
  | .enters => { u with env := { v.env with
      stage := BitVec.ofNat 32 (j + 1), target := entry v.env.offset j,
      inc := BitVec.ofInt 32 (stageIncrement s v.env v.firstRelease j value) } }
  | .passes => u

theorem stageReached_eq (s : State) (v : Voice) (value : Int) (k : Nat) :
    stageReached s v value k = stageEnded s value v
      (if v.firstRelease ∈ stagesRead s v value k then withScales value v else v) (lastStage s v value k)
      (stageEnd s v value (lastStage s v value k)) := by
  unfold stageReached
  dsimp only
  generalize stageEnd s v value (lastStage s v value k) = e
  cases e <;> rfl

theorem stageReached_of_freed (h : stageEnd s v value k = .freed) (hk : v.env.stage = BitVec.ofNat 32 k) :
    stageReached s v value k = reclaimed v := by
  rw [stageReached_eq, stagesRead_of_freed h, if_neg List.not_mem_nil,
    lastStage_of_end (by rw [h]; exact fun h => nomatch h), h, stageEnded, ← hk]
  rfl

theorem stageReached_of_sustains (h : stageEnd s v value k = .sustains) :
    stageReached s v value k = { v with env := { v.env with
      stage := BitVec.ofNat 32 k, target := (sustainRamp s v value).1, inc := (sustainRamp s v value).2 } } := by
  rw [stageReached_eq, stagesRead_of_sustains h, if_neg List.not_mem_nil,
    lastStage_of_end (by rw [h]; exact fun h => nomatch h), h, stageEnded]

theorem stageReached_of_enters (h : stageEnd s v value k = .enters) :
    stageReached s v value k = { scaleKept value k v with env := { v.env with
      stage := BitVec.ofNat 32 (k + 1), target := entry v.env.offset k,
      inc := BitVec.ofInt 32 (stageIncrement s v.env v.firstRelease k value) } } := by
  rw [stageReached_eq, stagesRead_of_enters h, lastStage_of_end (by rw [h]; exact fun h => nomatch h), h]
  by_cases hk : k = v.firstRelease
  · rw [if_pos (by rw [hk]; exact List.mem_singleton_self _), scaleKept, if_pos hk]
    rfl
  · rw [if_neg (by rw [List.mem_singleton]; exact Ne.symm hk), scaleKept, if_neg hk]
    rfl

/-- The chain reads no scale and no stage register: from the voice with other ones it goes the same way. -/
theorem stageEnd_congr {w : Voice} (hc : w.ctrl = v.ctrl) (hs : w.status = v.status) (ho : w.env.offset = v.env.offset)
    (k : Nat) : stageEnd s w value k = stageEnd s v value k := by
  unfold stageEnd
  rw [hc, hs, ho]

theorem lastStage_congr {w : Voice} (hc : w.ctrl = v.ctrl) (hs : w.status = v.status)
    (ho : w.env.offset = v.env.offset) (k : Nat) : lastStage s w value k = lastStage s v value k := by
  unfold lastStage
  simp only [stageEnd_congr hc hs ho]

theorem stagesRead_congr {w : Voice} (hc : w.ctrl = v.ctrl) (hs : w.status = v.status)
    (ho : w.env.offset = v.env.offset) (k : Nat) : stagesRead s w value k = stagesRead s v value k := by
  unfold stagesRead
  simp only [lastStage_congr hc hs ho, stageEnd_congr hc hs ho]

/-- The voice at stage register `e`, with the scales kept where the chain passes stage `k`. -/
def stagePassed (value : Int) (k : Nat) (e : Word) (v : Voice) : Voice :=
  { scaleKept value k v with env := { v.env with stage := e } }

theorem scaleKept_fields (value : Int) (k : Nat) (v : Voice) :
    (scaleKept value k v).ctrl = v.ctrl ∧ (scaleKept value k v).status = v.status ∧
      (scaleKept value k v).channel = v.channel ∧ (scaleKept value k v).env = v.env := by
  unfold scaleKept
  split <;> exact ⟨rfl, rfl, rfl, rfl⟩

/-- A chain that goes on from a passed stage ends as it would from the voice before. -/
theorem stageEnded_passed (value : Int) (k : Nat) (x : Word) (v : Voice) (p : Prop) [Decidable p] (j : Nat)
    {e : StageEnd} (he : e ≠ .passes) :
    stageEnded s value (stagePassed value k x v)
        (if p then withScales value (stagePassed value k x v) else stagePassed value k x v) j e =
      stageEnded s value v (if v.firstRelease = k ∨ p then withScales value v else v) j e := by
  unfold stagePassed scaleKept
  by_cases hk : k = v.firstRelease <;> by_cases hp : p
  · rw [if_pos hk, if_pos hp, if_pos (.inr hp)]
    cases e <;> trivial
  · rw [if_pos hk, if_neg hp, if_pos (.inl hk.symm)]
    cases e <;> trivial
  · rw [if_neg hk, if_pos hp, if_pos (.inr hp)]
    cases e <;> trivial
  · rw [if_neg hk, if_neg hp, if_neg (by rintro (h | h); exacts [hk h.symm, hp h])]
    cases e <;> trivial

/-- The voice that has passed a stage goes on as the voice before would. -/
theorem passed_congr (value : Int) (k : Nat) (x : Word) (v : Voice) :
    (stagePassed value k x v).ctrl = v.ctrl ∧ (stagePassed value k x v).status = v.status := by
  obtain ⟨hc, hs, -, -⟩ := scaleKept_fields value k v
  exact ⟨hc, hs⟩

theorem lastStage_passed (value : Int) (k : Nat) (x : Word) (v : Voice) (j : Nat) :
    lastStage s (stagePassed value k x v) value j = lastStage s v value j := by
  obtain ⟨hc, hs⟩ := passed_congr value k x v
  exact lastStage_congr hc hs rfl j

theorem stageEnd_passed (value : Int) (k : Nat) (x : Word) (v : Voice) (j : Nat) :
    stageEnd s (stagePassed value k x v) value j = stageEnd s v value j := by
  obtain ⟨hc, hs⟩ := passed_congr value k x v
  exact stageEnd_congr hc hs rfl j

theorem stagesRead_passed (value : Int) (k : Nat) (x : Word) (v : Voice) (j : Nat) :
    stagesRead s (stagePassed value k x v) value j = stagesRead s v value j := by
  obtain ⟨hc, hs⟩ := passed_congr value k x v
  exact stagesRead_congr hc hs rfl j

theorem firstRelease_passed (value : Int) (k : Nat) (x : Word) (v : Voice) :
    (stagePassed value k x v).firstRelease = v.firstRelease := by
  obtain ⟨hc, -⟩ := passed_congr value k x v
  unfold Voice.firstRelease Voice.soundFont
  rw [hc]

theorem stageChecks_passed (value : Int) (k : Nat) (x : Word) (v : Voice) (j : Nat) :
    stageChecks s (stagePassed value k x v) value j = stageChecks s v value j := by
  unfold stageChecks
  rw [← firstRelease_eq, ← firstRelease_eq, firstRelease_passed, stagesRead_passed]
  rfl

/-- A stage whose target is the value already is passed: its scale is kept, and the chain goes on. -/
theorem stageReached_of_passes (h : stageEnd s v value k = .passes) (x : Word) :
    stageReached s v value k = stageReached s (stagePassed value k x v) value (k + 1) := by
  rw [stageReached_eq, stageReached_eq s (stagePassed value k x v), stagesRead_of_passes h, lastStage_of_passes h,
    firstRelease_passed, stagesRead_passed, lastStage_passed, stageEnd_passed,
    stageEnded_passed value k x v _ _ (stageEnd_lastStage (k + 1))]
  congr 1
  simp only [List.mem_cons]

end chain

end Sys2Proof.Proofs
end

section
/-! PROOFS. What each envelope function makes of a voice, in the terms of the statements (44_envelope.md). -/

namespace Sys2Proof.Proofs

open Sys2Proof.Machine Sys2Proof.Claims

-- Proofs elaborated one after another need less memory.
set_option Elab.async false

variable {s : State} {n : Nat} {α β : Type}

/-! ### One stage -/

/-- The rate of a stage, rescaled where release begins (44_envelope.md R513, R514). -/
def stageRate (v : Voice) (value : Int) (k : Nat) : Int :=
  if k = v.firstRelease then max 1 (narrow (scaled 16 (narrow (followed v.env k)) (releaseScales value).1))
  else narrow (followed v.env k)

theorem stageIncrement_eq (s : State) (v : Voice) (k : Nat) {value : Int} (h : (entry v.env.offset k).toInt - value ≠ 0) :
    Int.sign ((entry v.env.offset k).toInt - value) *
        limitRate (minRamp s) k ((entry v.env.offset k).toInt - value) (stageRate v value k) =
      stageIncrement s v.env v.firstRelease k value := by
  rw [sign_mul_eq _ _ h]
  unfold stageIncrement limitRate stageRate
  rw [minRamp_eq, tdiv_of_nonneg (by omega)]
  dsimp only
  have hk : (if k > 0 then min (if k = v.firstRelease then
        max 1 (narrow (scaled 16 (narrow (followed v.env k)) (releaseScales value).1))
      else narrow (followed v.env k)) (max 1 ((((entry v.env.offset k).toInt - value).natAbs : Int) /
        max 1 (20 * (s.sampleRate.toNat : Int) / (1000 * (s.controlRatio.toNat : Int)))))
      else if k = v.firstRelease then
        max 1 (narrow (scaled 16 (narrow (followed v.env k)) (releaseScales value).1))
      else narrow (followed v.env k)) = _ := (if_congr Nat.pos_iff_ne_zero rfl rfl).trans (ite_not ..)
  rw [hk]
  split
  · rw [clampInt_natAbs ‹_›]
  · rfl

theorem makes_releaseRescale (hn : n < s.voices.length) (rate : Int) {w : Voice} {value : Int}
    (hw : w.env.value.toInt = value) (h : 0 ≤ value) :
    Makes s n (releaseRescale n rate) w (max 1 (narrow (scaled 16 rate (releaseScales value).1)))
      (withScales value w, [scaled 16 rate (releaseScales value).1]) := by
  unfold releaseRescale
  refine Makes.read hn (Makes.write hn _ ?_)
  rw [hw, withScales, releaseScales_eq h]
  exact Makes.scale (r := (_, [])) _ _ _ (makes_pure _ _)

/-- The rate of a stage, with the stage counter already advanced. -/
theorem makes_stageRate (hn : n < s.voices.length) {v : Voice} {value : Int} (hv : v.env.value.toInt = value)
    {k : Nat} (h : k = v.firstRelease → 0 ≤ value) :
    Makes s n (if k = v.firstRelease then releaseRescale n (narrow (followed v.env k))
        else pure (narrow (followed v.env k)))
      (Voice.withEnvStage (k + 1) v) (stageRate v value k)
      (stagePassed value k (BitVec.ofNat 32 (k + 1)) v,
        if k = v.firstRelease then [scaled 16 (narrow (followed v.env k)) (releaseScales value).1] else []) := by
  unfold stageRate stagePassed scaleKept
  by_cases hk : k = v.firstRelease
  · simp only [if_pos hk]
    exact makes_releaseRescale hn _ (w := Voice.withEnvStage (k + 1) v) hv (h hk)
  · simp only [if_neg hk]
    exact makes_pure _ _

/-- `env_next_stage` up to its choice: the voice has passed the stage, and its rate is read. -/
theorem makes_envNextStage (hn : n < s.voices.length) (c : Cmd Bool) {v : Voice} {value : Int} {k : Nat}
    (hv : v.env.value.toInt = value) (hk : v.env.stage.toNat = k) (hf : k ≤ v.finalStage)
    (h : k = v.firstRelease → 0 ≤ value) {b : Bool} {r : Voice × List Int}
    (hr : Makes s n (if (entry v.env.offset k).toInt - value = 0 then c else do
        writeVoice n (Voice.withEnvRamp (entry v.env.offset k).toInt
          (Int.sign ((entry v.env.offset k).toInt - value) *
            limitRate (minRamp s) k ((entry v.env.offset k).toInt - value) (stageRate v value k)))
        pure false) (stagePassed value k (BitVec.ofNat 32 (k + 1)) v) b r) :
    Makes s n (envNextStage c n) v b (r.1, stageNumbers v value k ++ r.2) := by
  unfold envNextStage
  refine makes_getState_bind fun m vs => Makes.read hn ?_
  rw [hk, hv, if_neg (by omega)]
  exact Makes.write hn _ (Makes.scale (r := (_, _ ++ _)) _ _ _ ((makes_stageRate hn hv h).bind hr))

/-- `env_next_stage` from a stage whose target differs from the value: the stage is entered. -/
theorem makes_envNextStage_enters (hn : n < s.voices.length) (c : Cmd Bool) {v : Voice} {value : Int} {k : Nat}
    (hv : v.env.value.toInt = value) (hk : v.env.stage.toNat = k) (hf : k ≤ v.finalStage)
    (h : k = v.firstRelease → 0 ≤ value) (hd : (entry v.env.offset k).toInt ≠ value) :
    Makes s n (envNextStage c n) v false ({ scaleKept value k v with env := { v.env with
      stage := BitVec.ofNat 32 (k + 1), target := entry v.env.offset k,
      inc := BitVec.ofInt 32 (stageIncrement s v.env v.firstRelease k value) } }, stageNumbers v value k) := by
  have delta : (entry v.env.offset k).toInt - value ≠ 0 := by omega
  have turn := makes_envNextStage (s := s) hn c hv hk hf h (b := false) (r := (Voice.withEnvRamp
    (entry v.env.offset k).toInt (stageIncrement s v.env v.firstRelease k value)
    (stagePassed value k (BitVec.ofNat 32 (k + 1)) v), [])) (by
      rw [if_neg delta, stageIncrement_eq s v k delta]
      exact Makes.write hn _ (makes_pure _ _))
  unfold Voice.withEnvRamp at turn
  rwa [wordOf_toInt_self, List.append_nil] at turn

/-- `env_next_stage` from a stage whose target is the value: the chain goes on. -/
theorem makes_envNextStage_passes (hn : n < s.voices.length) {c : Cmd Bool} {v : Voice} {value : Int} {k : Nat}
    (hv : v.env.value.toInt = value) (hk : v.env.stage.toNat = k) (hf : k ≤ v.finalStage)
    (h : k = v.firstRelease → 0 ≤ value) (hd : (entry v.env.offset k).toInt = value) {b : Bool} {r : Voice × List Int}
    (hc : Makes s n c (stagePassed value k (BitVec.ofNat 32 (k + 1)) v) b r) :
    Makes s n (envNextStage c n) v b (r.1, stageNumbers v value k ++ r.2) := by
  refine makes_envNextStage hn c hv hk hf h ?_
  rwa [if_pos (by omega)]

/-! ### The sustain-decay rule -/

/-- The time that the sustain-decay rule leaves a voice, 0 for no limit (44_envelope.md R520). -/
def sustainLimit (mst : Int) (ch : Word) : Int :=
  let loop : Int := (ch.toNat / 2 ^ 16 : Nat) * 1000
  if mst ≤ 1 then loop else if loop = 0 then mst else min mst loop

theorem sustainLimit_nonneg (mst : Int) (ch : Word) : 0 ≤ sustainLimit mst ch := by
  unfold sustainLimit
  dsimp only
  split_ifs <;> omega

theorem chLoopTimeout_eq (ch : Word) : chLoopTimeout ch = ch.toNat / 2 ^ 16 := by
  unfold chLoopTimeout
  rw [BitVec.extractLsb'_toNat, Nat.shiftRight_eq_div_pow, Nat.mod_eq_of_lt (by have := ch.isLt; omega)]

theorem chSustain_eq (ch : Word) : chSustain ch = ch.toNat % 128 := by
  unfold chSustain
  rw [BitVec.extractLsb'_toNat]
  rfl

theorem sustainTime_eq (mst : Int) (ch : Word) :
    sustainTime mst ch = if sustainLimit mst ch = 0 then none else some (sustainLimit mst ch) := by
  unfold sustainTime sustainLimit
  rw [chLoopTimeout_eq]
  generalize ch.toNat / 2 ^ 16 = l
  dsimp only
  by_cases hm : mst ≤ 1
  · rw [if_neg (by omega), if_pos hm]
    rcases Nat.eq_zero_or_pos l with rfl | hl
    · rfl
    · rw [if_pos (by omega), if_neg (by omega)]
  · rw [if_pos (by omega), if_neg hm]
    rcases Nat.eq_zero_or_pos l with rfl | hl
    · rw [if_neg (by omega), if_pos (show ((0 : Nat) : Int) * 1000 = 0 from rfl), if_neg (by omega)]
    · rw [if_neg (show ¬(l : Int) * 1000 = 0 by omega), if_neg (show ¬min mst ((l : Int) * 1000) = 0 by omega)]
      congr 1
      split <;> omega

theorem pedalTime_eq (v : Voice) (ch : Word) {t : Int} (h : 0 ≤ t) :
    pedalTime v ch t =
      if v.status = .sustained ∧ ch.getLsbD 7 = false then t * (ch.toNat % 128 : Nat) / 127 else t := by
  unfold pedalTime
  rw [chSustain_eq, tdiv_of_nonneg (Int.mul_nonneg h (by omega))]
  rfl

theorem pedalTime_nonneg (v : Voice) (ch : Word) {t : Int} (h : 0 ≤ t) : 0 ≤ pedalTime v ch t := by
  have scaled : 0 ≤ t * (ch.toNat % 128 : Nat) := Int.mul_nonneg h (by omega)
  rw [pedalTime_eq v ch h]
  split <;> omega

theorem sustainWidth_eq (s : State) {t : Int} (h : 0 ≤ t) :
    sustainWidth s t = max 1 (t * (s.sampleRate.toNat : Int) / (1000 * (s.controlRatio.toNat : Int))) := by
  unfold sustainWidth
  rw [tdiv_of_nonneg (Int.mul_nonneg h (by omega))]

theorem sustainRate_eq {v : Voice} {value : Int} (hv : v.env.value.toInt = value) (h : 0 ≤ value) (width : Int) :
    sustainRate v width =
      (let whole : Int := if v.ctrl.getLsbD 0 then value else 0x3FFFFFFF
       let table := (entry v.env.rate (if v.ctrl.getLsbD 0 then 4 else 3)).toInt
       if 0 < table then min (max 1 (whole / width)) table else max 1 (whole / width)) := by
  unfold sustainRate
  rw [hv, tdiv_of_nonneg (by unfold Config.offsetMax; split <;> omega)]
  rfl

/-- The sustain-decay rule in the terms of the statements, from a value not below 0 (44_envelope.md R520). -/
theorem sustainRamp_eq (s : State) {v : Voice} {value : Int} (hv : v.env.value.toInt = value) (h : 0 ≤ value) :
    sustainRamp s v value = (sustainTime s.minSustainTime.toInt (entry s.chState v.channel.val)).elim
      (v.env.target, 0) fun t =>
        (0, wordOf (-(sustainRate v (sustainWidth s (pedalTime v (entry s.chState v.channel.val) t))))) := by
  have channel : entry s.chState v.channel.val = s.chState[v.channel] := by
    unfold entry
    rw [Vector.getElem?_eq_getElem v.channel.isLt]
    rfl
  have limit := sustainLimit_nonneg s.minSustainTime.toInt s.chState[v.channel]
  rw [channel, sustainTime_eq]
  by_cases hl : sustainLimit s.minSustainTime.toInt s.chState[v.channel] = 0
  · rw [if_pos hl]
    exact if_pos hl
  · rw [if_neg hl, Option.elim_some, sustainRate_eq hv h, sustainWidth_eq s (pedalTime_nonneg v _ limit),
      pedalTime_eq v _ limit]
    exact if_neg hl

/-- With MIN_SUSTAIN_TIME 1 the rule is skipped. -/
theorem makes_sustainDecay_skip (hn : n < s.voices.length) (v : Voice) (h : s.minSustainTime.toInt = 1) :
    Makes s n (sustainDecay n) v .skip (v, []) := by
  unfold sustainDecay
  exact makes_getState_bind fun m vs => Makes.read hn (Makes.of_pos h (makes_pure _ _))

/-- Otherwise it holds the value or starts its decay. -/
theorem makes_sustainDecay (hn : n < s.voices.length) {v : Voice} {value : Int} (hv : v.env.value.toInt = value)
    (h : 0 ≤ value) (hm : s.minSustainTime.toInt ≠ 1) :
    ∃ o, o ≠ .skip ∧ Makes s n (sustainDecay n) v o ({ v with env := { v.env with
      target := (sustainRamp s v value).1, inc := (sustainRamp s v value).2 } }, []) := by
  rw [sustainRamp_eq s hv h]
  rcases ht : sustainTime s.minSustainTime.toInt (entry s.chState v.channel.val) with _ | t
  · refine ⟨.hold, by decide, ?_⟩
    unfold sustainDecay
    refine makes_getState_bind fun m vs => Makes.read hn (Makes.of_neg hm ?_)
    simp only [show (voiceState s n m vs v).minSustainTime = s.minSustainTime from rfl,
      show (voiceState s n m vs v).chState = s.chState from rfl, ht]
    exact Makes.write hn _ (makes_pure _ _)
  · refine ⟨.decay, by decide, ?_⟩
    unfold sustainDecay
    refine makes_getState_bind fun m vs => Makes.read hn (Makes.of_neg hm ?_)
    simp only [show (voiceState s n m vs v).minSustainTime = s.minSustainTime from rfl,
      show (voiceState s n m vs v).chState = s.chState from rfl, ht]
    exact Makes.write hn _ (makes_pure _ _)

/-! ### `env_recompute` -/

/-- The chain of stages frees the voice. -/
def chainFrees (s : State) (v : Voice) (value : Int) (k : Nat) : Bool :=
  decide (stageEnd s v value (lastStage s v value k) = .freed)

theorem chainFrees_of_end {v : Voice} {value : Int} {k : Nat} {e : StageEnd} (h : stageEnd s v value k = e)
    (he : e ≠ .passes) : chainFrees s v value k = decide (e = .freed) := by
  unfold chainFrees
  rw [lastStage_of_end (by rwa [h]), h]

theorem chainFrees_passed {v : Voice} {value : Int} {k : Nat} (h : stageEnd s v value k = .passes) (x : Word) :
    chainFrees s (stagePassed value k x v) value (k + 1) = chainFrees s v value k := by
  unfold chainFrees
  rw [lastStage_of_passes h, lastStage_passed, stageEnd_passed]

/-- A stage that neither frees nor sustains is entered or passed (44_envelope.md R512). -/
theorem makes_stage (hn : n < s.voices.length) {c : Cmd Bool} {v : Voice} {value : Int} {k : Nat}
    (hv : v.env.value.toInt = value) (hk : v.env.stage.toNat = k)
    (freed : ¬(v.finalStage < k ∨ (v.firstRelease ≤ k ∧ value ≤ 0)))
    (sustains : ¬(k = v.firstRelease ∧ v.held = true ∧ s.minSustainTime.toInt ≠ 1))
    (hc : ∀ w : Voice, w.env.value.toInt = value → w.env.stage.toNat = k + 1 →
      Makes s n c w (chainFrees s w value (k + 1)) (stageReached s w value (k + 1), stageChecks s w value (k + 1))) :
    Makes s n (envNextStage c n) v (chainFrees s v value k) (stageReached s v value k, stageChecks s v value k) := by
  have hf : k ≤ v.finalStage := by omega
  have value_nonneg : k = v.firstRelease → 0 ≤ value := by omega
  have hend : stageEnd s v value k = if (entry v.env.offset k).toInt ≠ value then .enters else .passes :=
    (if_neg freed).trans (if_neg (by rwa [← held_iff]))
  by_cases hd : (entry v.env.offset k).toInt = value
  · rw [if_neg (not_not.2 hd)] at hend
    have stage : (BitVec.ofNat 32 (k + 1)).toNat = k + 1 := by
      have := finalStage_le v
      rw [BitVec.toNat_ofNat]
      omega
    have rest := hc (stagePassed value k (BitVec.ofNat 32 (k + 1)) v) (by exact hv) (by exact stage)
    rw [← stageReached_of_passes hend, stageChecks_passed, chainFrees_passed hend] at rest
    rw [stageChecks_of_passes hend]
    exact makes_envNextStage_passes (r := (_, _)) hn hv hk hf value_nonneg hd rest
  · rw [if_pos hd] at hend
    rw [chainFrees_of_end hend (by decide), stageReached_of_enters hend, stageChecks_of_enters hend]
    exact makes_envNextStage_enters hn _ hv hk hf value_nonneg hd

/-- `env_recompute` runs the chain of stages from the stage counter (44_envelope.md R511, R512). -/
theorem makes_envRecompute (hn : n < s.voices.length) (value : Int) (fuel : Nat) : ∀ (v : Voice) (k : Nat),
    v.env.value.toInt = value → v.env.stage.toNat = k → 1 ≤ fuel → 7 ≤ fuel + k →
    Makes s n (envRecompute fuel n) v (chainFrees s v value k) (stageReached s v value k, stageChecks s v value k) := by
  induction fuel with
  | zero => exact fun v k _ _ h => absurd h (by decide)
  | succ fuel ih =>
    intro v k hv hk _ hfuel
    have stage : v.env.stage = BitVec.ofNat 32 k := by rw [← hk, BitVec.ofNat_toNat, BitVec.setWidth_eq]
    unfold envRecompute
    refine Makes.read hn ?_
    rw [hk, hv]
    by_cases freed : v.finalStage < k ∨ (v.firstRelease ≤ k ∧ value ≤ 0)
    · have hend : stageEnd s v value k = .freed := if_pos freed
      rw [chainFrees_of_end hend (by decide), stageReached_of_freed hend stage, stageChecks_of_freed hend]
      rcases freed with hf | ⟨hr, hz⟩
      · exact Makes.of_pos hf (makes_freeVoice hn v)
      · by_cases hf : k > v.finalStage
        · exact Makes.of_pos hf (makes_freeVoice hn v)
        · exact Makes.of_neg hf (Makes.of_pos ⟨(sustainStage_lt_iff v k).2 hr, hz⟩ (makes_freeVoice hn v))
    · refine Makes.of_neg (by omega) (Makes.of_neg (by rw [gt_iff_lt, sustainStage_lt_iff]; omega) ?_)
      by_cases sustains : k = v.firstRelease ∧ v.held = true ∧ s.minSustainTime.toInt ≠ 1
      · obtain ⟨hr, hh, hm⟩ := sustains
        have hend : stageEnd s v value k = .sustains := (if_neg freed).trans (if_pos ⟨hr, (held_iff v).1 hh, hm⟩)
        obtain ⟨o, ho, sustained⟩ := makes_sustainDecay hn hv (by omega) hm
        rw [chainFrees_of_end hend (by decide), stageReached_of_sustains hend, stageChecks_of_sustains hend, ← stage]
        exact Makes.of_pos ⟨hr, hh⟩ (sustained.after (Makes.of_neg ho (makes_pure _ _)))
      · have := finalStage_le v
        have next := makes_stage hn hv hk freed sustains fun w hw hj =>
          ih w (k + 1) hw hj (by omega) (by omega)
        by_cases hh : k = v.firstRelease ∧ v.held = true
        · have hm : s.minSustainTime.toInt = 1 := by
            by_contra hm
            exact sustains ⟨hh.1, hh.2, hm⟩
          exact Makes.of_pos hh ((makes_sustainDecay_skip hn v hm).after (Makes.of_pos rfl next))
        · exact Makes.of_neg hh next

end Sys2Proof.Proofs
end

section
/-! PROOFS. What the turns of `update_signal` make of a voice: the amplitude envelope, tremolo, the modulation
envelope and the level (44_envelope.md R510, R530, R540 to R555). -/

namespace Sys2Proof.Proofs

open Sys2Proof.Machine Sys2Proof.Claims

-- Proofs elaborated one after another need less memory.
set_option Elab.async false

variable {s : State} {n : Nat} {α β : Type}

/-! ### The amplitude envelope -/

theorem stageEnded_status (s : State) (value : Int) (v u : Voice) (j : Nat) (e : StageEnd) :
    (stageEnded s value v u j e).status = if e = .freed then .free else u.status := by
  cases e <;> rfl

/-- The chain of stages frees the voice, or leaves its status. -/
theorem stageReached_status (s : State) (v : Voice) (value : Int) (k : Nat) :
    (stageReached s v value k).status = if chainFrees s v value k then .free else v.status := by
  have kept : (if v.firstRelease ∈ stagesRead s v value k then withScales value v else v).status = v.status := by
    split <;> rfl
  rw [stageReached_eq, stageEnded_status, kept]
  unfold chainFrees
  simp only [decide_eq_true_eq]

theorem stageEnded_ctrl (s : State) (value : Int) (v u : Voice) (j : Nat) (e : StageEnd) :
    (stageEnded s value v u j e).ctrl = if e = .freed then v.ctrl ||| 0x200 else u.ctrl := by
  cases e <;> rfl

theorem stageReached_ctrl (s : State) (v : Voice) (value : Int) (k : Nat) :
    (stageReached s v value k).ctrl = if chainFrees s v value k then v.ctrl ||| 0x200 else v.ctrl := by
  have kept : (if v.firstRelease ∈ stagesRead s v value k then withScales value v else v).ctrl = v.ctrl := by
    split <;> rfl
  rw [stageReached_eq, stageEnded_ctrl, kept]
  unfold chainFrees
  simp only [decide_eq_true_eq]

theorem stageReached_firstRelease (s : State) (v : Voice) (value : Int) (k : Nat) :
    (stageReached s v value k).firstRelease = v.firstRelease := by
  rw [firstRelease_eq, firstRelease_eq, stageReached_ctrl]
  split <;> simp

theorem chainFrees_iff {v : Voice} (h : v.status ≠ .free) (value : Int) (k : Nat) :
    chainFrees s v value k = decide ((stageReached s v value k).status = .free) := by
  rw [stageReached_status]
  cases chainFrees s v value k <;> simp [h]

/-- The voice with ENV_VALUE `x`. -/
def valued (x : Int) (v : Voice) : Voice := { v with env := { v.env with value := BitVec.ofInt 32 x } }

theorem withEnvValue_eq (x : Int) (v : Voice) : Voice.withEnvValue x v = valued (clamp 0 0x3FFFFFFF x) v := by
  unfold Voice.withEnvValue
  rw [clampEnv_eq]
  rfl

theorem clamp_clamp (x : Int) : clamp 0 0x3FFFFFFF (clamp 0 0x3FFFFFFF x) = clamp 0 0x3FFFFFFF x := by
  unfold clamp
  omega

theorem enveloped_eq (s : State) (v : Voice) :
    enveloped s v =
      (let moved := clamp 0 0x3FFFFFFF (v.env.value.toInt + v.env.inc.toInt)
       let snapped := clamp 0 0x3FFFFFFF v.env.target.toInt
       if v.env.inc.toInt = 0 then (v, [])
       else if crossed v.env.inc.toInt moved v.env.target.toInt then
         (stageReached s (valued snapped v) snapped v.env.stage.toNat,
           stageChecks s (valued snapped v) snapped v.env.stage.toNat)
       else (valued moved v, [])) := by
  unfold enveloped crossed
  simp only [decide_eq_true_eq]
  rfl

theorem makes_envUpdate (hn : n < s.voices.length) {v : Voice} (h : v.status ≠ .free) :
    Makes s n (envUpdate n) v (decide ((enveloped s v).1.status = .free)) (enveloped s v) := by
  rw [enveloped_eq]
  unfold envUpdate
  refine Makes.read hn ?_
  dsimp only
  by_cases hinc : v.env.inc.toInt = 0
  · simp only [if_pos hinc]
    exact (makes_pure false v).cast (decide_eq_false h).symm rfl
  · simp only [if_neg hinc]
    refine Makes.write hn _ ?_
    rw [withEnvValue_eq, clampEnv_eq, clamp_clamp]
    by_cases hc : crossed v.env.inc.toInt (clamp 0 0x3FFFFFFF (v.env.value.toInt + v.env.inc.toInt)) v.env.target.toInt
    · simp only [if_pos hc]
      refine Makes.write hn _ ?_
      rw [withEnvValue_eq, ← chainFrees_iff (v := valued _ v) h]
      exact makes_envRecompute hn _ stageFuel (valued (clamp 0 0x3FFFFFFF v.env.target.toInt) v) _
        (ofInt_clamp_toInt _) rfl (by decide) (by unfold stageFuel; omega)
    · simp only [if_neg hc]
      exact (makes_pure false _).cast (decide_eq_false h).symm rfl

/-! ### Tremolo -/

/-- A list of numbers that all fit may be left out. -/
theorem Makes.recast {c : Cmd α} {w u : Voice} {a : α} {xs ys : List Int} (h : Makes s n c w a (u, xs))
    (hf : fitAll xs = fitAll ys) : Makes s n c w a (u, ys) := by
  intro m vs
  have sat : ∀ st, satIf (vs ++ xs) st = satIf (vs ++ ys) st := fun st => by
    rw [← satIf_satIf, ← satIf_satIf]
    unfold satIf
    rw [hf]
  rw [h m vs]
  unfold voiceState State.narrowed
  simp only [sat]

theorem makes_tremSum (quiet : Bool) (x : Int) (w : Voice) :
    Makes s n (tremSum quiet x) w (narrow x) (w, if quiet then [] else [x]) := by
  unfold tremSum
  cases quiet
  · exact makes_sat32 x w
  · exact (makes_pure _ w).cast (narrow_eq x).symm rfl

theorem narrow_toInt (w : Word) : narrow w.toInt = w.toInt := by
  have := word_toInt_bounds w
  unfold narrow clamp
  omega

/-- The sweep's end in one step (44_envelope.md R530). -/
def sweepEnd (t : Tremolo) : Int := t.sweepPos.toInt + (if t.sweepInc = 0 then 0 else (t.sweepInc.toNat : Int))

/-- A tremolo after one step of its sweep. -/
def sweptOnce (t : Tremolo) : Tremolo :=
  let full := decide (t.sweepInc ≠ 0 ∧ 65536 ≤ sweepEnd t)
  { t with
    sweepPos := if full then 65536 else BitVec.ofInt 32 (narrow (sweepEnd t))
    sweepInc := if full then 0 else t.sweepInc }

theorem makes_sweep (quiet : Bool) (t : Tremolo) (w : Voice) :
    Makes s n (Tremolo.sweep quiet t) w (sweptOnce t) (w, if quiet then [] else [sweepEnd t]) := by
  unfold Tremolo.sweep
  by_cases hi : t.sweepInc = 0
  · have still : sweepEnd t = t.sweepPos.toInt := by rw [sweepEnd, if_pos hi, Int.add_zero]
    have same : sweptOnce t = t := by
      unfold sweptOnce
      rw [decide_eq_false (fun h => h.1 hi), still, narrow_toInt, BitVec.ofInt_toInt]
      rfl
    rw [same, still]
    refine Makes.of_pos hi ((makes_pure t w).recast ?_)
    have := word_toInt_bounds t.sweepPos
    cases quiet
    · simp [fitAll]
      omega
    · rfl
  · have moved : t.sweepPos.toInt + t.sweepInc.toNat = sweepEnd t := by rw [sweepEnd, if_neg hi]
    have swept : t.sweptTo (narrow (sweepEnd t)) = sweptOnce t := by
      unfold Tremolo.sweptTo sweptOnce
      by_cases hf : 65536 ≤ sweepEnd t
      · rw [if_pos (by unfold narrow clamp; omega), decide_eq_true ⟨hi, hf⟩]
        rfl
      · rw [if_neg (by unfold narrow clamp; omega), decide_eq_false (fun h => hf h.2)]
        rfl
    rw [← swept, ← moved]
    have sum := (makes_tremSum (s := s) (n := n) quiet (t.sweepPos.toInt + t.sweepInc.toNat) w).bind
      (k := fun pos => pure (t.sweptTo pos)) (makes_pure _ _)
    rw [List.append_nil] at sum
    exact Makes.of_neg hi sum

theorem makes_lfoSine (phase : Word) (w : Voice) :
    Makes s n (lfoPhase .sine phase) w (s.tramWord (2048 + phase.toNat / 2 ^ 23)).toInt (w, []) := by
  have index : (BitVec.extractLsb' 23 9 phase).toNat = phase.toNat / 2 ^ 23 := by
    rw [BitVec.extractLsb'_toNat, Nat.shiftRight_eq_div_pow]
    have := phase.isLt
    omega
  unfold lfoPhase
  rw [index]
  exact Makes.table _ (makes_pure _ w)

theorem shaken_eq (quiet : Bool) (s : State) (v : Voice) :
    shaken quiet s v =
      (let phase := v.trem.phase + v.trem.inc
       let depth := scaled 16 v.trem.depth.toInt (sweptOnce v.trem).sweepPos.toInt
       let dip := scaled 16 (narrow depth) (s.tramWord (2048 + phase.toNat / 2 ^ 23)).toInt
       let mul := 65536 - narrow dip
       ({ v with trem := { sweptOnce v.trem with phase := phase, mul := BitVec.ofInt 32 (narrow mul) } },
         if quiet then [depth, dip] else [sweepEnd v.trem, depth, dip, mul])) := rfl

theorem makes_tremUpdate (hn : n < s.voices.length) (quiet : Bool) (v : Voice) :
    Makes s n (tremUpdate quiet n) v () (shaken quiet s v) := by
  rw [shaken_eq]
  unfold tremUpdate
  refine Makes.cast (Makes.read hn ((makes_sweep quiet v.trem v).bind (Makes.scale 16 _ _ ((makes_lfoSine _ v).after
    (Makes.scale 16 _ _ ((makes_tremSum quiet _ v).bind (makes_writeVoice hn _ v))))))) rfl ?_
  cases quiet <;> rfl

/-! ### The modulation envelope -/

section modulation

variable {v : Voice} {value : Int} {k : Nat}

/-- The modulation envelope's loop stops at stage counter `j` (44_envelope.md R541). -/
def modulationStops (v : Voice) (value : Int) (j : Nat) : Bool :=
  modulationHolds v j || decide ((entry v.menv.offset j).toInt ≠ value)

theorem modulationStops_six (v : Voice) (value : Int) (j : Nat) (h : 6 ≤ j) : modulationStops v value j = true := by
  have := finalStage_le v
  have holds : modulationHolds v j = true := decide_eq_true (.inl (by rw [← finalStage_eq]; omega))
  rw [modulationStops, holds, Bool.true_or]

theorem lastModulationStage_eq (v : Voice) (value : Int) (k : Nat) :
    lastModulationStage v value k = stopFrom (modulationStops v value) k := rfl

theorem modulationHolds_iff (v : Voice) (k : Nat) :
    modulationHolds v k = true ↔ v.finalStage < k ∨ (k = v.firstRelease ∧ v.held = true) := by
  unfold modulationHolds
  rw [decide_eq_true_eq, held_iff]
  rfl

theorem withMenvStage_congr (v : Voice) (x : Nat) (j : Nat) :
    modulationHolds (Voice.withMenvStage x v) j = modulationHolds v j ∧
      modulationStops (Voice.withMenvStage x v) value j = modulationStops v value j := ⟨rfl, rfl⟩

/-- A stage whose target is the value already is passed. -/
theorem modulationReached_of_passes (h : modulationStops v value k = false) (x : Nat) :
    modulationReached v value k = modulationReached (Voice.withMenvStage x v) value (k + 1) := by
  have last : lastModulationStage v value k = lastModulationStage (Voice.withMenvStage x v) value (k + 1) := by
    rw [lastModulationStage_eq, stop_of_false (modulationStops_six v value) h]
    rfl
  unfold modulationReached
  rw [last]
  rfl

theorem modulationChecks_of_passes (h : modulationStops v value k = false) (x : Nat) :
    modulationChecks v value k =
      followed v.menv k :: modulationChecks (Voice.withMenvStage x v) value (k + 1) := by
  have last : lastModulationStage v value k = lastModulationStage (Voice.withMenvStage x v) value (k + 1) := by
    rw [lastModulationStage_eq, stop_of_false (modulationStops_six v value) h]
    rfl
  have le : k + 1 ≤ lastModulationStage (Voice.withMenvStage x v) value (k + 1) :=
    le_stop (modulationStops_six v value) (k + 1)
  unfold modulationChecks
  rw [last]
  change _ = (followed v.menv k) :: List.map (followed v.menv) (List.range' (k + 1) (if modulationHolds v _ then _ else _))
  rw [← List.map_cons, ← List.range'_succ]
  dsimp only
  congr 2
  split <;> omega

theorem modulationReached_of_holds (hv : v.menv.value.toInt = value) (hk : v.menv.stage.toNat = k)
    (h : modulationHolds v k = true) : modulationReached v value k = { v.menv with inc := 0 } := by
  have last : lastModulationStage v value k = k := stop_of_true (by rw [h, Bool.true_or])
  unfold modulationReached
  rw [last]
  dsimp only
  rw [if_pos h, ← hv, ← hk, BitVec.ofInt_toInt, BitVec.ofNat_toNat, BitVec.setWidth_eq]

theorem modulationChecks_of_holds (h : modulationHolds v k = true) : modulationChecks v value k = [] := by
  have last : lastModulationStage v value k = k := stop_of_true (by rw [h, Bool.true_or])
  unfold modulationChecks
  rw [last]
  dsimp only
  rw [if_pos h, Nat.sub_self]
  rfl

theorem modulationReached_of_enters (hv : v.menv.value.toInt = value) (h : modulationHolds v k = false)
    (hd : (entry v.menv.offset k).toInt ≠ value) :
    modulationReached v value k =
      (let delta := (entry v.menv.offset k).toInt - value
       let rate := narrow (followed v.menv k)
       { v.menv with
         stage := BitVec.ofNat 32 (k + 1), target := entry v.menv.offset k
         inc := BitVec.ofInt 32 (if delta < 0 then -(clamp 1 (-delta) rate) else rate) }) := by
  have last : lastModulationStage v value k = k := stop_of_true (by rw [decide_eq_true hd, Bool.or_true])
  unfold modulationReached
  rw [last]
  dsimp only
  rw [if_neg (by rw [h]; decide), ← hv, BitVec.ofInt_toInt]

theorem modulationChecks_of_enters (h : modulationHolds v k = false) (hd : (entry v.menv.offset k).toInt ≠ value) :
    modulationChecks v value k = [followed v.menv k] := by
  have last : lastModulationStage v value k = k := stop_of_true (by rw [decide_eq_true hd, Bool.or_true])
  unfold modulationChecks
  rw [last]
  dsimp only
  rw [if_neg (by rw [h]; decide), Nat.add_sub_cancel_left]
  rfl

theorem makes_menvRecompute (hn : n < s.voices.length) (value : Int) (fuel : Nat) : ∀ (v : Voice) (k : Nat),
    v.menv.value.toInt = value → v.menv.stage.toNat = k → 1 ≤ fuel → 7 ≤ fuel + k →
    Makes s n (menvRecompute fuel n) v ()
      ({ v with menv := modulationReached v value k }, modulationChecks v value k) := by
  induction fuel with
  | zero => exact fun v k _ _ h => absurd h (by decide)
  | succ fuel ih =>
    intro v k hv hk _ hfuel
    unfold menvRecompute
    refine Makes.read hn ?_
    rw [hk, hv]
    dsimp only
    by_cases holds : v.finalStage < k ∨ (k = v.firstRelease ∧ v.held = true)
    · have turn := makes_writeVoice (s := s) hn (Voice.withMenvInc 0) v
      rw [modulationReached_of_holds hv hk ((modulationHolds_iff v k).2 holds),
        modulationChecks_of_holds ((modulationHolds_iff v k).2 holds)]
      rcases holds with hf | hr
      · exact Makes.of_pos hf turn
      · by_cases hf : k > v.finalStage
        · exact Makes.of_pos hf turn
        · exact Makes.of_neg hf (Makes.of_pos hr turn)
    · have hf : k ≤ v.finalStage := by omega
      have := finalStage_le v
      have free : modulationHolds v k = false := by
        rw [← Bool.not_eq_true, modulationHolds_iff]
        exact holds
      refine Makes.of_neg (by omega) (Makes.of_neg (fun h => holds (.inr h)) ?_)
      by_cases hd : (entry v.menv.offset k).toInt = value
      · have goes : modulationStops v value k = false := by
          rw [modulationStops, free, decide_eq_false (not_not.2 hd), Bool.false_or]
        have stage : (BitVec.ofNat 32 (k + 1)).toNat = k + 1 := by
          rw [BitVec.toNat_ofNat]
          omega
        have rest := ih (Voice.withMenvStage (k + 1) v) (k + 1) hv stage (by omega) (by omega)
        rw [← modulationReached_of_passes goes] at rest
        rw [modulationChecks_of_passes goes (k + 1)]
        exact Makes.write hn _ (Makes.scale (r := (_, _)) 16 _ _ (Makes.of_pos (by omega) rest))
      · have delta : (entry v.menv.offset k).toInt - value ≠ 0 := by omega
        have rate : Int.sign ((entry v.menv.offset k).toInt - value) *
            (if (entry v.menv.offset k).toInt - value < 0 then
              clampInt (narrow (followed v.menv k)) 1 ((entry v.menv.offset k).toInt - value).natAbs
            else narrow (followed v.menv k)) =
            if (entry v.menv.offset k).toInt - value < 0 then
              -(clamp 1 (-((entry v.menv.offset k).toInt - value)) (narrow (followed v.menv k)))
            else narrow (followed v.menv k) := by
          rw [sign_mul_eq _ _ delta]
          split
          · rw [clampInt_natAbs ‹_›]
          · rfl
        have turn := makes_writeVoice (s := s) hn (Voice.withMenvRamp (entry v.menv.offset k).toInt
          (Int.sign ((entry v.menv.offset k).toInt - value) *
            (if (entry v.menv.offset k).toInt - value < 0 then
              clampInt (narrow (followed v.menv k)) 1 ((entry v.menv.offset k).toInt - value).natAbs
            else narrow (followed v.menv k)))) (Voice.withMenvStage (k + 1) v)
        rw [modulationReached_of_enters hv free hd, modulationChecks_of_enters free hd]
        refine Makes.write hn _ (Makes.scale (r := (_, [])) 16 _ _ (Makes.of_neg delta (turn.cast rfl ?_)))
        rw [rate]
        unfold Voice.withMenvRamp
        rw [wordOf_toInt_self]
        rfl

/-- The voice with MENV_VALUE `x`. -/
def menvValued (x : Int) (v : Voice) : Voice := { v with menv := { v.menv with value := BitVec.ofInt 32 x } }

theorem withMenvValue_eq (x : Int) (v : Voice) : Voice.withMenvValue x v = menvValued (clamp 0 0x3FFFFFFF x) v := by
  unfold Voice.withMenvValue
  rw [clampEnv_eq]
  rfl

/-- The modulation envelope's own turn, before MENV_OUT (44_envelope.md R541). -/
def menvTurn (v : Voice) : Voice × List Int :=
  let moved := clamp 0 0x3FFFFFFF (v.menv.value.toInt + v.menv.inc.toInt)
  let snapped := clamp 0 0x3FFFFFFF v.menv.target.toInt
  if v.menv.inc.toInt = 0 then (v, [])
  else if crossed v.menv.inc.toInt moved v.menv.target.toInt then
    ({ v with menv := modulationReached v snapped v.menv.stage.toNat },
      modulationChecks v snapped v.menv.stage.toNat)
  else (menvValued moved v, [])

theorem makes_menvUpdate (hn : n < s.voices.length) (v : Voice) : Makes s n (menvUpdate n) v () (menvTurn v) := by
  unfold menvUpdate menvTurn
  refine Makes.read hn ?_
  dsimp only
  by_cases hinc : v.menv.inc.toInt = 0
  · simp only [if_pos hinc]
    exact makes_pure () v
  · simp only [if_neg hinc]
    refine Makes.write hn _ ?_
    rw [withMenvValue_eq, clampEnv_eq, clamp_clamp]
    by_cases hc : crossed v.menv.inc.toInt (clamp 0 0x3FFFFFFF (v.menv.value.toInt + v.menv.inc.toInt))
        v.menv.target.toInt
    · simp only [if_pos hc]
      refine Makes.write hn _ ?_
      rw [withMenvValue_eq]
      exact makes_menvRecompute hn _ stageFuel (menvValued (clamp 0 0x3FFFFFFF v.menv.target.toInt) v) _
        (ofInt_clamp_toInt _) rfl (by decide) (by unfold stageFuel; omega)
    · simp only [if_neg hc]
      exact makes_pure () _

theorem makes_menvApply (hn : n < s.voices.length) (v : Voice) : Makes s n (menvApply n) v () (exposed v, []) := by
  unfold menvApply exposed
  refine Makes.read hn ?_
  dsimp only
  by_cases h : BitVec.ofInt 32 (v.menv.value.toInt / 2 ^ 14) = v.menvOut
  · rw [if_pos h]
    exact Makes.of_neg (not_not.2 h) (makes_pure () v)
  · rw [if_neg h]
    exact Makes.of_pos h (makes_writeVoice hn _ v)

theorem makes_modulate (body : Cmd Unit) {r : Voice × List Int} (h : Makes s n body v () r) :
    Makes s n (modulate body) v () (if s.ctrl.getLsbD 0 = false then (v, []) else r) := by
  unfold modulate
  refine makes_getState_bind fun m vs => ?_
  by_cases hm : s.ctrl.getLsbD 0 = false
  · rw [if_pos hm]
    exact Makes.of_neg (fun on => Bool.noConfusion (hm.symm.trans on)) (makes_pure () v)
  · rw [if_neg hm]
    exact Makes.of_pos (eq_true_of_ne_false hm) h

theorem modulationTurn_eq (s : State) (v : Voice) :
    modulationTurn s v = if s.ctrl.getLsbD 0 = false then (v, []) else (exposed (menvTurn v).1, (menvTurn v).2) := by
  unfold modulationTurn menvTurn crossed
  simp only [decide_eq_true_eq]
  split_ifs <;> rfl

theorem makes_modulationTurn (hn : n < s.voices.length) (v : Voice) :
    Makes s n (modulate (do
      menvUpdate n
      menvApply n)) v () (modulationTurn s v) := by
  rw [modulationTurn_eq]
  exact makes_modulate _ ((makes_menvUpdate hn v).before (makes_menvApply hn (menvTurn v).1))

/-- The modulation envelope restarted by an update of its stage counter. -/
theorem makes_modulationStart (hn : n < s.voices.length) {f : Voice → Voice}
    (hv : (f v).menv.value.toInt = v.menv.value.toInt) (hk : (f v).menv.stage.toNat = k)
    (hr : { f v with menv := modulationReached (f v) v.menv.value.toInt k } =
      { v with menv := modulationReached v v.menv.value.toInt k })
    (hc : modulationChecks (f v) v.menv.value.toInt k = modulationChecks v v.menv.value.toInt k) :
    Makes s n (modulate (do
      writeVoice n f
      menvRecompute stageFuel n
      menvApply n)) v () (modulationStart s k v) := by
  have run := makes_menvRecompute hn _ stageFuel (f v) k hv hk (by decide) (by unfold stageFuel; omega)
  rw [hr, hc] at run
  exact makes_modulate _ (Makes.write (r := (_, _)) hn f (run.before (makes_menvApply hn _)))

end modulation

/-! ### The level -/

theorem makes_envTable (base : Nat) (e : Int) (w : Voice) :
    Makes s n (envTable base e) w (s.tramWord (base + (e / 2 ^ 20).toNat)).toInt (w, []) := by
  unfold envTable
  exact Makes.table _ (makes_pure _ w)

/-- The level before tremolo and the numbers it narrows (44_envelope.md R550). -/
def levelOf (s : State) (v : Voice) : Int × List Int :=
  let e := v.env.value.toInt
  let table := fun (base : Nat) (x : Int) => (s.tramWord (base + (x / 2 ^ 20).toNat)).toInt
  let stretched := scaled 16 e v.lsr.toInt
  let back := scaled 16 (table 1024 (clamp 0 0x3FFFFFFF (narrow stretched))) v.lss.toInt
  let early := decide (v.env.stage.toNat ≤ 1)
  let releasing := decide (v.firstRelease < v.env.stage.toNat)
  (if early then table 0 e else if releasing then narrow back else table 1024 e,
    if early then [] else if releasing then [stretched, back] else [])

theorem makes_envLevel (v w : Voice) : Makes s n (envLevel v) w (levelOf s v).1 (w, (levelOf s v).2) := by
  unfold envLevel levelOf
  dsimp only
  by_cases early : v.env.stage.toNat ≤ 1
  · simp only [if_pos early, decide_eq_true early, if_true]
    exact makes_envTable _ _ w
  · simp only [if_neg early, decide_eq_false early, Bool.false_eq_true, if_false]
    by_cases releasing : v.firstRelease < v.env.stage.toNat
    · simp only [decide_eq_true releasing, if_true]
      refine Makes.of_neg (by omega) (Makes.scale (r := (_, _)) 16 _ _ ?_)
      rw [clampEnv_eq]
      exact (makes_envTable _ _ w).after (makes_fmul 16 _ _ w)
    · simp only [decide_eq_false releasing, Bool.false_eq_true, if_false]
      exact Makes.of_pos (by omega) (makes_envTable _ _ w)

/-- The level with tremolo, and the numbers narrowed. -/
def amplitude (s : State) (v : Voice) : Int × List Int :=
  let dipped := scaled 16 (levelOf s v).1 v.trem.mul.toInt
  (if v.ctrl.getLsbD 7 then narrow dipped else (levelOf s v).1, if v.ctrl.getLsbD 7 then [dipped] else [])

theorem levelled_eq (s : State) (v : Voice) :
    levelled s v =
      (let amp := (amplitude s v).1
       let left := scaled 16 amp v.mix.panL.toInt
       let right := scaled 16 amp v.mix.panR.toInt
       let w := Voice.withAmp amp (narrow left) (narrow right) v
       (if (v.status = .off ∨ v.status = .sustained) ∧ amp ≤ 0 then reclaimed w else w,
         (levelOf s v).2 ++ (amplitude s v).2 ++ [left, right])) := rfl

theorem makes_silenced (hn : n < s.voices.length) (p : Prop) [Decidable p] {w : Voice} (h : w.status ≠ .free) :
    Makes s n (if p then freeVoice n else pure false) w (decide ((if p then reclaimed w else w).status = .free))
      (if p then reclaimed w else w, []) := by
  split
  · exact makes_freeVoice hn w
  · exact (makes_pure false w).cast (decide_eq_false h).symm rfl

theorem makes_envAmp (hn : n < s.voices.length) {v : Voice} (h : v.status ≠ .free) :
    Makes s n (envAmp n) v (decide ((levelled s v).1.status = .free)) (levelled s v) := by
  rw [levelled_eq]
  dsimp only
  rw [List.append_assoc]
  unfold envAmp
  refine Makes.read hn ((makes_envLevel v v).bind (r' := (_, _)) (Makes.bind (a := (amplitude s v).1)
    (r := (v, (amplitude s v).2)) (r' := (_, [_, _])) ?_ (Makes.scale (r := (_, [_])) 16 _ _
      (Makes.scale (r := (_, [])) 16 _ _ (Makes.write hn _ (makes_silenced hn _ h))))))
  unfold amplitude Voice.tremEn
  dsimp only
  split
  · exact makes_fmul 16 _ _ v
  · exact makes_pure _ v

/-! ### `update_signal` and the restarts -/

theorem shaken_status (quiet : Bool) (s : State) (v : Voice) : (shaken quiet s v).1.status = v.status := rfl

theorem exposed_status (v : Voice) : (exposed v).status = v.status := by
  unfold exposed
  dsimp only
  split <;> rfl

theorem modulationTurn_status (s : State) (v : Voice) : (modulationTurn s v).1.status = v.status := by
  rw [modulationTurn_eq]
  split
  · rfl
  · rw [exposed_status]
    unfold menvTurn
    dsimp only
    split_ifs <;> rfl

theorem modulationStart_status (s : State) (k : Nat) (v : Voice) : (modulationStart s k v).1.status = v.status := by
  unfold modulationStart
  split
  · rfl
  · exact exposed_status _

/-- A further turn, unless the voice was freed, by a command that answers whether it frees it. -/
theorem Makes.unlessFreed {c d : Cmd Bool} {v : Voice} {r : Voice × List Int} {turn : Voice → Voice × List Int}
    (hc : Makes s n c v (decide (r.1.status = .free)) r)
    (hd : r.1.status ≠ .free → Makes s n d r.1 (decide ((turn r.1).1.status = .free)) (turn r.1)) :
    Makes s n (c >>= fun died => if died then pure true else d) v
      (decide ((unlessFreed r turn).1.status = .free)) (unlessFreed r turn) := by
  unfold Claims.unlessFreed
  by_cases h : r.1.status = .free
  · rw [if_pos h]
    rw [decide_eq_true h] at hc ⊢
    exact hc.before (makes_pure true r.1)
  · rw [if_neg h]
    rw [decide_eq_false h] at hc
    exact hc.bind (hd h)

theorem makes_updateSignal (hn : n < s.voices.length) (quiet : Bool) {v : Voice} (h : v.status ≠ .free) :
    Makes s n (updateSignal quiet n) v (decide ((updated quiet s v).1.status = .free)) (updated quiet s v) := by
  unfold updateSignal updated
  refine (makes_envUpdate hn h).unlessFreed fun live => Makes.read hn ?_
  generalize (enveloped s v).1 = u at live ⊢
  have trem : Makes s n (if u.tremEn = true ∧ u.trem.inc ≠ 0 then tremUpdate quiet n else pure ()) u ()
      (if u.ctrl.getLsbD 7 = true ∧ u.trem.inc ≠ 0 then shaken quiet s u else (u, [])) := by
    by_cases ht : u.ctrl.getLsbD 7 = true ∧ u.trem.inc ≠ 0
    · rw [if_pos ht]
      exact Makes.of_pos ht (makes_tremUpdate hn quiet u)
    · rw [if_neg ht]
      exact Makes.of_neg ht (makes_pure () u)
  have same : (if u.ctrl.getLsbD 7 = true ∧ u.trem.inc ≠ 0 then shaken quiet s u else (u, [])).1.status = u.status := by
    split <;> rfl
  dsimp only
  generalize (if u.ctrl.getLsbD 7 = true ∧ u.trem.inc ≠ 0 then shaken quiet s u else (u, [])) = r at trem same ⊢
  exact (trem.bind ((makes_modulationTurn hn r.1).bind (makes_envAmp hn (by
    rwa [modulationTurn_status, same])))).cast rfl (by unfold andThen; rw [List.append_assoc])

/-- The modulation envelope restarted and the level, for a voice that its chain of stages did not free. -/
theorem makes_restarted (hn : n < s.voices.length) {c : Cmd Bool} {f : Voice → Voice} {v : Voice} {k : Nat}
    {r : Voice × List Int} (hc : Makes s n c v (decide (r.1.status = .free)) r)
    (hv : (f r.1).menv.value.toInt = r.1.menv.value.toInt) (hk : (f r.1).menv.stage.toNat = k)
    (hr : { f r.1 with menv := modulationReached (f r.1) r.1.menv.value.toInt k } =
      { r.1 with menv := modulationReached r.1 r.1.menv.value.toInt k })
    (hn' : modulationChecks (f r.1) r.1.menv.value.toInt k = modulationChecks r.1 r.1.menv.value.toInt k) :
    Makes s n (c >>= fun died => if died then pure () else
      (modulate (do
        writeVoice n f
        menvRecompute stageFuel n
        menvApply n) >>= fun _ => envAmp n >>= fun _ => pure ())) v () (restarted s k r) := by
  unfold restarted Claims.unlessFreed
  by_cases h : r.1.status = .free
  · rw [if_pos h]
    rw [decide_eq_true h] at hc
    exact hc.before (makes_pure () r.1)
  · rw [if_neg h]
    rw [decide_eq_false h] at hc
    have level := (makes_envAmp hn (v := (modulationStart s k r.1).1) (by rwa [modulationStart_status])).before
      (k := fun _ => pure ()) (makes_pure () _)
    exact hc.bind ((makes_modulationStart hn hv hk hr hn').bind level)

end Sys2Proof.Proofs
end

section
/-! PROOFS. The envelope commands (44_envelope.md section 8): O38 to O44. -/

namespace Sys2Proof.Proofs

open Sys2Proof.Machine Sys2Proof.Claims

-- Proofs elaborated one after another need less memory.
set_option Elab.async false

variable {s : State} {n rd : Nat} {v : Voice}

theorem lt_of_voice (h : s.voices[n]? = some v) : n < s.voices.length := (List.getElem?_eq_some_iff.1 h).1

/-- A voice command with no destination, from what its body makes of the voice. -/
theorem runCmd_of_makes (hv : s.voices[n]? = some v) (h : v.status ≠ .free) {onFree body : Cmd Unit}
    {r : Voice × List Int} (hb : Makes s n body v () r) :
    runCmd (withVoice n onFree body) s = .next { s with
      voices := s.voices.set n r.1, status := satIf r.2 s.status, cmdSeq := s.cmdSeq + 1 } :=
  runCmd_of_ok ((withVoice_ok hv h).trans (hb.run hv))

/-- A voice command that answers whether it freed the voice. -/
theorem runCmd_of_makes_died (hv : s.voices[n]? = some v) (h : v.status ≠ .free) {onFree : Cmd Unit} {body : Cmd Bool}
    {r : Voice × List Int} (hb : Makes s n body v (decide (r.1.status = .free)) r) :
    runCmd (withVoice n onFree (body >>= fun died => writeReg rd (bitWord died))) s = .next { s with
      regs := s.regs.setIfInBounds rd (if r.1.status = .free then 1 else 0), voices := s.voices.set n r.1,
      status := satIf r.2 s.status, cmdSeq := s.cmdSeq + 1 } := by
  have word : bitWord (decide (r.1.status = .free)) = if r.1.status = .free then 1 else 0 := by
    unfold bitWord
    simp only [decide_eq_true_eq]
  refine (runCmd_of_ok ((withVoice_ok hv h).trans ((bind_of_ok (hb.run hv)).trans (writeReg_run ..)))).trans ?_
  rw [word]
  rfl

theorem exec_envupd (hv : s.voices[n]? = some v) (h : v.status ≠ .free) :
    exec (.envupd rd n) s = .next { s with
      regs := s.regs.setIfInBounds rd (if (updated true s v).1.status = .free then 1 else 0)
      voices := s.voices.set n (updated true s v).1
      status := satIf (updated true s v).2 s.status, cmdSeq := s.cmdSeq + 1 } :=
  runCmd_of_makes_died hv h (makes_updateSignal (lt_of_voice hv) true h)

theorem exec_envamp (hv : s.voices[n]? = some v) (h : v.status ≠ .free) :
    exec (.envamp rd n) s = .next { s with
      regs := s.regs.setIfInBounds rd (if (levelled s v).1.status = .free then 1 else 0)
      voices := s.voices.set n (levelled s v).1
      status := satIf (levelled s v).2 s.status, cmdSeq := s.cmdSeq + 1 } :=
  runCmd_of_makes_died hv h (makes_envAmp (lt_of_voice hv) h)

theorem exec_tremupd (hv : s.voices[n]? = some v) (h : v.status ≠ .free) :
    exec (.tremupd n) s = .next { s with
      voices := s.voices.set n (shaken false s v).1
      status := satIf (shaken false s v).2 s.status, cmdSeq := s.cmdSeq + 1 } :=
  runCmd_of_makes hv h (makes_tremUpdate (lt_of_voice hv) false v)

theorem exec_menvupd (hv : s.voices[n]? = some v) (h : v.status ≠ .free) :
    exec (.menvupd n) s = .next { s with
      voices := s.voices.set n (modulationTurn s v).1
      status := satIf (modulationTurn s v).2 s.status, cmdSeq := s.cmdSeq + 1 } :=
  runCmd_of_makes hv h (makes_modulationTurn (lt_of_voice hv) v)

/-- A voice at the start of its first stage. -/
def attacking (v : Voice) : Voice := { v with env := { v.env with stage := 0, inc := 0 } }

/-- A voice at stage counter `k`. -/
def atStage (k : Nat) (v : Voice) : Voice := { v with env := { v.env with stage := BitVec.ofNat 32 k } }

/-- What a chain of stages from `k` does: the voice, and the numbers narrowed. -/
def chained (s : State) (v : Voice) (value : Int) (k : Nat) : Voice × List Int :=
  (stageReached s v value k, stageChecks s v value k)

theorem makes_chained (hn : n < s.voices.length) (h : v.status ≠ .free) {k : Nat} (hk : v.env.stage.toNat = k) :
    Makes s n (envRecompute stageFuel n) v (decide ((chained s v v.env.value.toInt k).1.status = .free))
      (chained s v v.env.value.toInt k) := by
  have run := makes_envRecompute (s := s) hn v.env.value.toInt stageFuel v k rfl hk (by decide)
    (by unfold stageFuel; omega)
  rwa [chainFrees_iff h] at run

/-- Where the modulation envelope starts reads neither its stage counter nor its increment. -/
theorem modulationReached_restart (u : Voice) (x : Int) (k : Nat) :
    modulationReached (Voice.withMenvInc 0 (Voice.withMenvStage 0 u)) x k = modulationReached u x k := by
  unfold modulationReached
  by_cases h : modulationHolds u (lastModulationStage u x k) = true
  · exact (if_pos h).trans (if_pos h).symm
  · exact (if_neg h).trans (if_neg h).symm

theorem exec_envstart (hv : s.voices[n]? = some v) (h : v.status ≠ .free) :
    exec (.envstart n) s = .next { s with
      voices := s.voices.set n (restarted s 0 (chained s (attacking v) v.env.value.toInt 0)).1
      status := satIf (restarted s 0 (chained s (attacking v) v.env.value.toInt 0)).2 s.status
      cmdSeq := s.cmdSeq + 1 } := by
  have hn := lt_of_voice hv
  have value : ∀ u : Voice,
      (Voice.withMenvInc 0 (Voice.withMenvStage 0 u)).menv.value.toInt = u.menv.value.toInt := fun _ => rfl
  have stage : ∀ u : Voice, (Voice.withMenvInc 0 (Voice.withMenvStage 0 u)).menv.stage.toNat = 0 := fun _ => rfl
  have reached : ∀ u : Voice, { Voice.withMenvInc 0 (Voice.withMenvStage 0 u) with
      menv := modulationReached (Voice.withMenvInc 0 (Voice.withMenvStage 0 u)) u.menv.value.toInt 0 } =
      { u with menv := modulationReached u u.menv.value.toInt 0 } := fun u =>
    congrArg (fun e => { u with menv := e }) (modulationReached_restart u _ 0)
  have checks : ∀ u : Voice, modulationChecks (Voice.withMenvInc 0 (Voice.withMenvStage 0 u)) u.menv.value.toInt 0 =
      modulationChecks u u.menv.value.toInt 0 := fun _ => rfl
  exact runCmd_of_makes hv h (Makes.write hn _ (makes_restarted (r := chained s (attacking v) v.env.value.toInt 0)
    (f := fun u => Voice.withMenvInc 0 (Voice.withMenvStage 0 u)) hn
    (makes_chained (v := attacking v) hn h rfl) (value _) (stage _) (reached _) (checks _)))

theorem firstRelease_toNat (v : Voice) : (BitVec.ofNat 32 v.firstRelease).toNat = v.firstRelease := by
  unfold Voice.firstRelease
  split <;> rfl

theorem exec_envrel (hv : s.voices[n]? = some v) (h : v.status ≠ .free) :
    exec (.envrel n) s = .next { s with
      voices := s.voices.set n
        (restarted s v.firstRelease (chained s (atStage v.firstRelease v) v.env.value.toInt v.firstRelease)).1
      status := satIf
        (restarted s v.firstRelease (chained s (atStage v.firstRelease v) v.env.value.toInt v.firstRelease)).2 s.status
      cmdSeq := s.cmdSeq + 1 } := by
  have hn := lt_of_voice hv
  have value : ∀ (k : Nat) (u : Voice), (Voice.withMenvStage k u).menv.value.toInt = u.menv.value.toInt := fun _ _ => rfl
  have stage : ∀ u : Voice, u.firstRelease = v.firstRelease →
      (Voice.withMenvStage u.firstRelease u).menv.stage.toNat = v.firstRelease := fun u hu =>
    (firstRelease_toNat u).trans hu
  have reached : ∀ (k : Nat) (u : Voice), { Voice.withMenvStage k u with
      menv := modulationReached (Voice.withMenvStage k u) u.menv.value.toInt v.firstRelease } =
      { u with menv := modulationReached u u.menv.value.toInt v.firstRelease } := fun _ _ => rfl
  have checks : ∀ (k : Nat) (u : Voice), modulationChecks (Voice.withMenvStage k u) u.menv.value.toInt v.firstRelease =
      modulationChecks u u.menv.value.toInt v.firstRelease := fun _ _ => rfl
  exact runCmd_of_makes hv h (Makes.write hn _ (makes_restarted
    (r := chained s (atStage v.firstRelease v) v.env.value.toInt v.firstRelease)
    (f := fun u => Voice.withMenvStage u.firstRelease u) hn
    (makes_chained (v := atStage v.firstRelease v) hn h (firstRelease_toNat v)) (value _ _)
    (stage _ (stageReached_firstRelease ..)) (reached _ _) (checks _ _)))

/-! ### The frames (O38) -/

/-- `v` with the registers of `x` that ENVUPD may change. -/
def updFrame (x v : Voice) : Voice := { v with
  ctrl := x.ctrl, status := x.status, lss := x.lss, lsr := x.lsr, menvOut := x.menvOut
  env := { v.env with stage := x.env.stage, value := x.env.value, target := x.env.target, inc := x.env.inc }
  menv := { v.menv with stage := x.menv.stage, value := x.menv.value, target := x.menv.target, inc := x.menv.inc }
  trem := { v.trem with
    phase := x.trem.phase, sweepPos := x.trem.sweepPos, sweepInc := x.trem.sweepInc, mul := x.trem.mul }
  mix := { v.mix with amp := x.mix.amp, leftMix := x.mix.leftMix, rightMix := x.mix.rightMix } }

/-- `v` with the registers of `x` that ENVSTART and ENVREL may change. -/
def startFrame (x v : Voice) : Voice := { v with
  ctrl := x.ctrl, status := x.status, lss := x.lss, lsr := x.lsr, menvOut := x.menvOut
  env := { v.env with stage := x.env.stage, target := x.env.target, inc := x.env.inc }
  menv := { v.menv with stage := x.menv.stage, target := x.menv.target, inc := x.menv.inc }
  mix := { v.mix with amp := x.mix.amp, leftMix := x.mix.leftMix, rightMix := x.mix.rightMix } }

/-- `v` with the registers of `x` that MENVUPD may change. -/
def menvFrame (x v : Voice) : Voice := { v with
  ctrl := x.ctrl, menvOut := x.menvOut
  menv := { v.menv with stage := x.menv.stage, value := x.menv.value, target := x.menv.target, inc := x.menv.inc } }

/-- Two voices differ in the registers of a frame at most. -/
def SameBut (frame : Voice → Voice → Voice) (v w : Voice) : Prop := ∀ x, frame x v = frame x w

theorem updMoves : EnvMoves (SameBut updFrame) ∧ MenvMoves (SameBut updFrame) where
  left := {
    refl := fun _ _ => rfl
    trans := fun _ _ _ h h' x => (h x).trans (h' x)
    freed := fun _ _ => rfl
    amp := fun _ _ _ _ _ => rfl
    stage := fun _ _ _ => rfl
    ramp := fun _ _ _ _ => rfl
    inc := fun _ _ _ => rfl
    last := fun _ _ _ _ => rfl }
  right := {
    refl := fun _ _ => rfl
    trans := fun _ _ _ h h' x => (h x).trans (h' x)
    stage := fun _ _ _ => rfl
    ramp := fun _ _ _ _ => rfl
    inc := fun _ _ _ => rfl
    out := fun _ _ _ => rfl }

theorem startMoves : EnvMoves (SameBut startFrame) ∧ MenvMoves (SameBut startFrame) where
  left := {
    refl := fun _ _ => rfl
    trans := fun _ _ _ h h' x => (h x).trans (h' x)
    freed := fun _ _ => rfl
    amp := fun _ _ _ _ _ => rfl
    stage := fun _ _ _ => rfl
    ramp := fun _ _ _ _ => rfl
    inc := fun _ _ _ => rfl
    last := fun _ _ _ _ => rfl }
  right := {
    refl := fun _ _ => rfl
    trans := fun _ _ _ h h' x => (h x).trans (h' x)
    stage := fun _ _ _ => rfl
    ramp := fun _ _ _ _ => rfl
    inc := fun _ _ _ => rfl
    out := fun _ _ _ => rfl }

/-- MENVUPD changes V_CTRL by FILT_DIRTY alone (44_envelope.md R542). -/
def MenvMoved (v w : Voice) : Prop := SameBut menvFrame v w ∧ (w.ctrl = v.ctrl ∨ w.ctrl = v.ctrl ||| 0x100)

theorem menvMoves : MenvMoves MenvMoved where
  refl := fun _ => ⟨fun _ => rfl, .inl rfl⟩
  trans := by
    rintro a b c ⟨hab, cab⟩ ⟨hbc, cbc⟩
    refine ⟨fun x => (hab x).trans (hbc x), ?_⟩
    rcases cab with h | h <;> rcases cbc with h' | h' <;> rw [h', h]
    · exact .inl rfl
    · exact .inr rfl
    · exact .inr rfl
    · exact .inr (by rw [BitVec.or_assoc, BitVec.or_self])
  stage := fun _ _ => ⟨fun _ => rfl, .inl rfl⟩
  ramp := fun _ _ _ => ⟨fun _ => rfl, .inl rfl⟩
  inc := fun _ _ => ⟨fun _ => rfl, .inl rfl⟩
  out := fun _ _ => ⟨fun _ => rfl, .inr rfl⟩

/-- A command that changes voice `n` and SAT leaves a state of this form. -/
theorem voiceState_eq (s : State) (n : Nat) (vs : List Int) (w : Voice) :
    voiceState s n s.sram vs w = { s with
      status := (voiceState s n s.sram vs w).status, voices := s.voices.set n w } := rfl

theorem voiceState_status (s : State) (n : Nat) (m : Memory) (vs : List Int) (w : Voice) :
    (voiceState s n m vs w).status = s.status ∨ (voiceState s n m vs w).status = s.status ||| 1 := by
  show satIf vs s.status = _ ∨ satIf vs s.status = _
  unfold satIf
  split
  · exact .inl rfl
  · exact .inr rfl

/-- What a function that may free the voice leaves of its status. -/
def FreedOrKept (R : Voice → Voice → Prop) (w : Voice) (_ : Unit) (w' : Voice) : Prop :=
  R w w' ∧ (w'.status = .free ∨ w'.status = w.status)

/-- The part of ENVSTART and ENVREL after the stage counter is set. -/
theorem does_restart {R : Voice → Voice → Prop} (E : EnvMoves R) (F : MenvMoves R) (hn : n < s.voices.length)
    {f : Voice → Voice} (hf : ∀ w, R w (f w) ∧ (f w).status = w.status) :
    DoesV s n any (envRecompute stageFuel n >>= fun died => if died then pure () else
      (modulate (do
        writeVoice n f
        menvRecompute stageFuel n
        menvApply n) >>= fun _ => envAmp n >>= fun _ => pure ())) (FreedOrKept R) := by
  refine does_bind memStep_eq (does_envRecompute hn E stageFuel) fun w died _ => ?_
  refine does_ite (fun hd => does_pure memStep_eq _ ?_) fun hd => ?_
  · rintro w' ⟨hr, hs⟩
    exact ⟨hr, .inl (by rw [hs, if_pos hd])⟩
  have write : DoesV s n any (writeVoice n f) (Moves R) := does_writeVoice memStep_eq hn f fun w _ => hf w
  have restart := does_modulate F.refl (does_two F.trans write
    (does_two F.trans (does_menvRecompute hn F stageFuel) (does_menvApply hn F)))
  have level : DoesV s n any (envAmp n >>= fun _ => pure ()) (FreedOrKept R) := by
    refine does_bind memStep_eq (does_envAmp hn E.toAmpMoves) fun w b _ => does_pure memStep_eq () ?_
    rintro w' ⟨hr, hs⟩
    refine ⟨hr, ?_⟩
    rw [hs]
    cases b
    · exact .inr rfl
    · exact .inl rfl
  refine does_mono (does_then restart (fun _ => level) fun w w1 _ w' h hs q =>
    ⟨E.trans _ _ _ h q.1, by rw [← hs]; exact q.2⟩) (fun _ _ => trivial) ?_
  rintro w1 _ w' ⟨hr, hs⟩ ⟨hr', hs'⟩
  rw [if_neg hd] at hs
  exact ⟨E.trans _ _ _ hr hr', by rw [← hs]; exact hs'⟩

theorem updFrame_trem (w : Voice) (t : Tremolo) (ht : TremMoved w.trem t) : SameBut updFrame w { w with trem := t } := by
  obtain ⟨hi, hd⟩ := ht
  intro x
  unfold updFrame
  dsimp only
  rw [hi, hd]

/-- A voice command from a triple of its body. -/
theorem runCmd_of_does (hv : s.voices[n]? = some v) (h : v.status ≠ .free) {onFree body : Cmd Unit}
    {Q : Voice → Unit → Voice → Prop} (hb : DoesV s n any body Q) :
    ∃ t w, runCmd (withVoice n onFree body) s = .next t ∧
      t = { s with status := t.status, voices := s.voices.set n w, cmdSeq := s.cmdSeq + 1 } ∧
      (t.status = s.status ∨ t.status = s.status ||| 1) ∧ Q v () w := by
  obtain ⟨_, m, vs, w, run, q, rfl⟩ := hb.at_state hv trivial
  exact ⟨_, w, runCmd_of_ok ((withVoice_ok hv h).trans run), rfl, voiceState_status s n s.sram vs w, q⟩

/-- An update of the voice before a restart. -/
theorem does_write {R : Voice → Voice → Prop} (ht : ∀ a b c, R a b → R b c → R a c) (hn : n < s.voices.length) {f : Voice → Voice}
    (hf : ∀ w, R w (f w) ∧ (f w).status = w.status) {c : Cmd Unit} (hc : DoesV s n any c (FreedOrKept R)) :
    DoesV s n any (writeVoice n f >>= fun _ => c) (FreedOrKept R) :=
  does_then (does_writeVoice memStep_eq hn f fun w _ => hf w) (fun _ => hc) fun _ _ _ _ h hs q =>
    ⟨ht _ _ _ h q.1, by rw [← hs]; exact q.2⟩

/-- Settles O38: each envelope function is a triple for the relation of its frame. -/
theorem envelopeCommandFrames : Obligations.EnvelopeCommandFrames := by
  intro s v rd n hv h
  have hn := lt_of_voice hv
  refine ⟨?_, ?_, ?_⟩
  · obtain ⟨died, m, vs, w, run, ⟨frame, status⟩, rfl⟩ := (does_updateSignal hn true updMoves.1 updMoves.2
      (fun _ _ _ => rfl) (fun _ _ _ => rfl) updFrame_trem).at_state hv trivial
    have word : bitWord died = if w.status = .free then 1 else 0 := by
      rw [status]
      cases died
      · exact (if_neg h).symm
      · exact (if_pos rfl).symm
    refine ⟨_, w, runCmd_of_ok ((withVoice_ok hv h).trans ((bind_of_ok run).trans (writeReg_run ..))), ?_,
      voiceState_status s n s.sram vs w, ?_, ?_⟩
    · rw [word]
      rfl
    · rw [status]
      cases died
      · exact .inr rfl
      · exact .inl rfl
    · exact (frame w).symm
  · intro i hi
    have restarts : ∃ t w, exec i s = .next t ∧
        t = { s with status := t.status, voices := s.voices.set n w, cmdSeq := s.cmdSeq + 1 } ∧
        (t.status = s.status ∨ t.status = s.status ||| 1) ∧ FreedOrKept (SameBut startFrame) v () w := by
      rcases hi with rfl | rfl
      · exact runCmd_of_does hv h (does_write (f := fun v => Voice.withEnvInc 0 (Voice.withEnvStage 0 v))
          startMoves.1.trans hn (fun _ => ⟨fun _ => rfl, rfl⟩)
          (does_restart (f := fun v => Voice.withMenvInc 0 (Voice.withMenvStage 0 v)) startMoves.1 startMoves.2 hn
            fun _ => ⟨fun _ => rfl, rfl⟩))
      · exact runCmd_of_does hv h (does_write (f := fun v => Voice.withEnvStage v.firstRelease v)
          startMoves.1.trans hn (fun _ => ⟨fun _ => rfl, rfl⟩)
          (does_restart (f := fun v => Voice.withMenvStage v.firstRelease v) startMoves.1 startMoves.2 hn
            fun _ => ⟨fun _ => rfl, rfl⟩))
    obtain ⟨t, w, run, ht, hs, frame, status⟩ := restarts
    exact ⟨t, w, run, ht, hs, status, (frame w).symm⟩
  · obtain ⟨t, w, run, ht, hs, ⟨frame, ctrl⟩, -⟩ := runCmd_of_does hv h (onFree := pure ())
      (does_modulate menvMoves.refl (does_two menvMoves.trans (does_menvUpdate hn menvMoves
        (fun _ _ => ⟨fun _ => rfl, .inl rfl⟩)) (does_menvApply hn menvMoves)))
    exact ⟨t, w, run, ht, hs, (frame w).symm, ctrl⟩

/-! ### The level and tremolo (O39) -/

/-- A value register within its range reads the same signed and unsigned. -/
theorem toInt_of_le {w : Word} (h : w.toNat ≤ 0x3FFFFFFF) : w.toInt = (w.toNat : Int) :=
  BitVec.toInt_eq_toNat_of_lt (by omega)

theorem clamp_toNat_div (x : Int) :
    (clamp 0 0x3FFFFFFF x / 2 ^ 20).toNat = (clamp 0 0x3FFFFFFF x).toNat / 2 ^ 20 := by
  have h := clamp_mem (lo := 0) (hi := 0x3FFFFFFF) (by decide) x
  omega

/-- The level by the value register's bits. -/
theorem levelOf_registers (hval : v.env.value.toNat ≤ 0x3FFFFFFF) :
    levelOf s v =
      (let e := v.env.value.toNat
       let late := fun x : Nat => (s.tramWord (1024 + x / 2 ^ 20)).toInt
       let r := scaled 16 e v.lsr.toInt
       let back := scaled 16 (late (clamp 0 0x3FFFFFFF (narrow r)).toNat) v.lss.toInt
       let releasing := decide ((if v.ctrl.getLsbD 0 then 4 else 3) < v.env.stage.toNat)
       (if v.env.stage.toNat ≤ 1 then (s.tramWord (e / 2 ^ 20)).toInt
         else if releasing then narrow back else late e,
         if releasing && decide (1 < v.env.stage.toNat) then [r, back] else [])) := by
  have index : ((v.env.value.toNat : Int) / 2 ^ 20).toNat = v.env.value.toNat / 2 ^ 20 := by omega
  unfold levelOf
  dsimp only
  rw [toInt_of_le hval, clamp_toNat_div, index, Nat.zero_add, firstRelease_eq]
  by_cases early : v.env.stage.toNat ≤ 1
  · simp only [early, decide_true, if_true, show ¬1 < v.env.stage.toNat by omega, decide_false, Bool.and_false,
      Bool.false_eq_true, if_false]
  · simp only [early, decide_false, if_false, show 1 < v.env.stage.toNat by omega, decide_true, Bool.and_true,
      Bool.false_eq_true]

/-- ENVAMP with its level named. -/
theorem exec_envamp_level (hv : s.voices[n]? = some v) (h : v.status ≠ .free) {level : Int × List Int}
    (hl : levelOf s v = level) :
    let shaken := scaled 16 level.1 v.trem.mul.toInt
    let a := if v.ctrl.getLsbD 7 then narrow shaken else level.1
    let l := scaled 16 a v.mix.panL.toInt
    let rr := scaled 16 a v.mix.panR.toInt
    let dies := decide ((v.status = .off ∨ v.status = .sustained) ∧ a ≤ 0)
    exec (.envamp rd n) s = .next { s with
      regs := s.regs.setIfInBounds rd (if dies then 1 else 0)
      voices := s.voices.set n { v with
        status := if dies then .free else v.status, ctrl := if dies then v.ctrl ||| 0x200 else v.ctrl
        mix := { v.mix with
          amp := BitVec.ofInt 32 a, leftMix := BitVec.ofInt 32 (narrow l), rightMix := BitVec.ofInt 32 (narrow rr) } }
      status := satIf (level.2 ++ (if v.ctrl.getLsbD 7 then [shaken] else []) ++ [l, rr]) s.status
      cmdSeq := s.cmdSeq + 1 } := by
  subst hl
  dsimp only
  rw [exec_envamp hv h, levelled_eq]
  unfold amplitude
  dsimp only
  by_cases dies : (v.status = .off ∨ v.status = .sustained) ∧
      (if v.ctrl.getLsbD 7 then narrow (scaled 16 (levelOf s v).1 v.trem.mul.toInt) else (levelOf s v).1) ≤ 0
  · simp only [if_pos dies, decide_eq_true dies]
    rfl
  · have live : ∀ a l r, (Voice.withAmp a l r v).status ≠ .free := fun _ _ _ => h
    simp only [if_neg dies, decide_eq_false dies, if_neg (live _ _ _)]
    rfl

/-- Over a unipolar wave the multiplier stays between 0 and 1.0 (44_envelope.md R531). -/
theorem multiplier_unipolar {depth pos wave : Int} (hd : 0 ≤ depth ∧ depth ≤ 65536) (hp : 0 ≤ pos ∧ pos ≤ 65536)
    (hw : 0 ≤ wave ∧ wave ≤ 65536) :
    let m := 65536 - narrow (scaled 16 (narrow (scaled 16 depth pos)) wave)
    0 ≤ m ∧ m ≤ 65536 ∧ narrow m = m := by
  have scaled_mem : ∀ a b : Int, 0 ≤ a ∧ a ≤ 65536 → 0 ≤ b ∧ b ≤ 65536 →
      0 ≤ narrow (scaled 16 a b) ∧ narrow (scaled 16 a b) ≤ 65536 := by
    intro a b ha hb
    have lo : 0 ≤ a * b := Int.mul_nonneg ha.1 hb.1
    have hi : a * b ≤ 65536 * 65536 := Int.mul_le_mul ha.2 hb.2 hb.1 (by decide)
    rw [scaled_eq]
    unfold fmulExact narrow clamp
    omega
  have dip := scaled_mem _ _ (scaled_mem depth pos hd hp) hw
  dsimp only
  generalize narrow (scaled 16 (narrow (scaled 16 depth pos)) wave) = q at dip
  unfold narrow clamp
  omega

/-- The sweep position after a step stays between 0 and 1.0 in a legal voice. -/
theorem sweep_unipolar {t : Tremolo} (h : t.sweepPos.toNat ≤ 65536) :
    0 ≤ (sweptOnce t).sweepPos.toInt ∧ (sweptOnce t).sweepPos.toInt ≤ 65536 := by
  have pos : t.sweepPos.toInt = (t.sweepPos.toNat : Int) := BitVec.toInt_eq_toNat_of_lt (by omega)
  by_cases full : t.sweepInc ≠ 0 ∧ 65536 ≤ sweepEnd t
  · have at_end : (sweptOnce t).sweepPos = 65536 := by
      unfold sweptOnce
      rw [decide_eq_true full]
      rfl
    rw [at_end]
    decide
  · have step : (sweptOnce t).sweepPos = BitVec.ofInt 32 (narrow (sweepEnd t)) := by
      unfold sweptOnce
      rw [decide_eq_false full]
      rfl
    have below : 0 ≤ sweepEnd t ∧ sweepEnd t ≤ 65536 := by
      rw [not_and] at full
      unfold sweepEnd at full ⊢
      split_ifs at full ⊢ with hi
      · omega
      · have := full hi
        omega
    have fits : narrow (sweepEnd t) = sweepEnd t := by
      unfold narrow clamp
      omega
    rw [step, fits, show (BitVec.ofInt 32 (sweepEnd t)).toInt = sweepEnd t from wordOf_toInt (by omega)]
    exact below

/-- The sweep position written from its exact sum: narrowing changes only sums the sweep's end replaces, or none. -/
theorem sweptOnce_pos (t : Tremolo) :
    (sweptOnce t).sweepPos =
      BitVec.ofInt 32 (if decide (t.sweepInc ≠ 0 ∧ 65536 ≤ sweepEnd t) then 65536 else sweepEnd t) := by
  unfold sweptOnce
  by_cases full : t.sweepInc ≠ 0 ∧ 65536 ≤ sweepEnd t
  · rw [decide_eq_true full]
    rfl
  · have fits : narrow (sweepEnd t) = sweepEnd t := by
      have := word_toInt_bounds t.sweepPos
      rw [not_and] at full
      unfold sweepEnd narrow clamp at *
      split_ifs at full ⊢ with hi
      · omega
      · have := full hi
        omega
    rw [decide_eq_false full, fits]
    rfl

/-- Settles O39: ENVAMP leaves the levelled voice, TREMUPD the shaken one. -/
theorem levelAndTremoloResults : Obligations.LevelAndTremoloResults := by
  refine ⟨?_, ?_⟩
  · intro s v rd n hv h hval
    have run := exec_envamp_level (rd := rd) hv h (levelOf_registers hval)
    dsimp only at run ⊢
    exact run
  · intro s v n hv h
    dsimp only
    have pos := sweptOnce_pos v.trem
    rw [exec_tremupd hv h, shaken_eq]
    refine ⟨?_, fun hd hp hw hw' => ?_⟩
    · dsimp only
      rw [pos]
      rfl
    · have depth : v.trem.depth.toInt = (v.trem.depth.toNat : Int) := BitVec.toInt_eq_toNat_of_lt (by omega)
      have sweep := sweep_unipolar hp
      rw [pos] at sweep
      exact multiplier_unipolar (by omega) sweep ⟨hw, hw'⟩

/-! ### ENVUPD (O40) -/

/-- The stage counter does not go down. -/
def StageUp (v w : Voice) : Prop := v.env.stage.toNat ≤ w.env.stage.toNat

theorem stageUpMoves : EnvMoves StageUp ∧ MenvMoves StageUp where
  left := {
    refl := fun _ => Nat.le_refl _
    trans := fun _ _ _ => Nat.le_trans
    freed := fun _ => Nat.le_refl _
    amp := fun _ _ _ _ => Nat.le_refl _
    stage := fun w h => by
      show w.env.stage.toNat ≤ (BitVec.ofNat 32 (w.env.stage.toNat + 1)).toNat
      rw [BitVec.toNat_ofNat]
      omega
    ramp := fun _ _ _ => Nat.le_refl _
    inc := fun _ _ => Nat.le_refl _
    last := fun _ _ _ => Nat.le_refl _ }
  right := {
    refl := fun _ => Nat.le_refl _
    trans := fun _ _ _ => Nat.le_trans
    stage := fun _ _ => Nat.le_refl _
    ramp := fun _ _ _ => Nat.le_refl _
    inc := fun _ _ => Nat.le_refl _
    out := fun _ _ => Nat.le_refl _ }

/-- Settles O40: ENVUPD leaves the updated voice; the amplitude envelope's stage counter only goes up. -/
theorem envelopeUpdateResult : Obligations.EnvelopeUpdateResult := by
  refine ⟨?_, fun s v rd n hv h => exec_envupd hv h⟩
  intro s t v w rd n hv h run hw
  have hn := lt_of_voice hv
  obtain ⟨died, m, vs, u, hu, ⟨up, -⟩, rfl⟩ := (does_updateSignal hn true stageUpMoves.1 stageUpMoves.2
    (fun _ _ => Nat.le_refl _) (fun _ _ => Nat.le_refl _) fun _ _ _ => Nat.le_refl _).at_state hv trivial
  have ran : exec (.envupd rd n) s = _ :=
    runCmd_of_ok ((withVoice_ok hv h).trans ((bind_of_ok hu).trans (writeReg_run ..)))
  rw [ran] at run
  injection run with ht
  subst ht
  have same : (s.voices.set n u)[n]? = some w := hw
  rw [List.getElem?_set_self hn] at same
  injection same with hwu
  rw [← hwu]
  exact up

/-! ### ENVSTART and ENVREL (O41 to O43) -/

theorem levelled_env (s : State) (u : Voice) :
    (levelled s u).1.env = u.env ∧ (levelled s u).1.lss = u.lss ∧ (levelled s u).1.lsr = u.lsr := by
  rw [levelled_eq]
  dsimp only
  split <;> exact ⟨rfl, rfl, rfl⟩

theorem exposed_env (u : Voice) : (exposed u).env = u.env ∧ (exposed u).lss = u.lss ∧ (exposed u).lsr = u.lsr := by
  unfold exposed
  dsimp only
  split <;> exact ⟨rfl, rfl, rfl⟩

theorem modulationStart_env (s : State) (k : Nat) (u : Voice) :
    (modulationStart s k u).1.env = u.env ∧ (modulationStart s k u).1.lss = u.lss ∧
      (modulationStart s k u).1.lsr = u.lsr := by
  unfold modulationStart
  split
  · exact ⟨rfl, rfl, rfl⟩
  · exact exposed_env _

/-- What follows the chain of stages leaves the amplitude envelope as the chain did. -/
theorem restarted_env (s : State) (k : Nat) (r : Voice × List Int) :
    (restarted s k r).1.env = r.1.env ∧ (restarted s k r).1.lss = r.1.lss ∧ (restarted s k r).1.lsr = r.1.lsr := by
  unfold restarted unlessFreed
  split
  · exact ⟨rfl, rfl, rfl⟩
  · obtain ⟨e, l, l'⟩ := modulationStart_env s k r.1
    obtain ⟨e', m, m'⟩ := levelled_env s (modulationStart s k r.1).1
    exact ⟨e'.trans e, m.trans l, m'.trans l'⟩

theorem neg_limited (p : Prop) [Decidable p] (a b : Int) :
    (if p then -(if p then a else b) else if p then a else b) = if p then -a else b := by
  split <;> rfl

/-- Settles O41: the chain of stages from stage 0, which a first target away from the value ends at once. -/
theorem envelopeStartsAttack : Obligations.EnvelopeStartsAttack := by
  intro s v n hv h
  dsimp only
  refine ⟨exec_envstart hv h, fun hd => ⟨_, _, exec_envstart hv h, rfl, rfl, ?_⟩⟩
  have first : (attacking v).firstRelease ≠ 0 := by
    unfold Voice.firstRelease
    split <;> decide
  have hend : stageEnd s (attacking v) v.env.value.toInt 0 = .enters := by
    unfold stageEnd
    rw [← firstRelease_eq, ← finalStage_eq, if_neg (by omega), if_neg (by omega), if_pos]
    exact fun e => hd (by rw [← e]; exact Int.sub_self _)
  obtain ⟨env, -, -⟩ := restarted_env s 0 (chained s (attacking v) v.env.value.toInt 0)
  rw [env]
  unfold chained
  rw [stageReached_of_enters hend]
  unfold stageIncrement
  dsimp only
  rw [if_neg first.symm, if_pos rfl, neg_limited]
  rfl

theorem exec_envrel_registers (hv : s.voices[n]? = some v) (h : v.status ≠ .free)
    (hval : v.env.value.toNat ≤ 0x3FFFFFFF) :
    exec (.envrel n) s = .next { s with
      voices := s.voices.set n
        (restarted s v.firstRelease (chained s (atStage v.firstRelease v) v.env.value.toNat v.firstRelease)).1
      status := satIf
        (restarted s v.firstRelease (chained s (atStage v.firstRelease v) v.env.value.toNat v.firstRelease)).2 s.status
      cmdSeq := s.cmdSeq + 1 } := by
  rw [exec_envrel hv h, toInt_of_le hval]

theorem firstRelease_mem (v : Voice) : 3 ≤ v.firstRelease ∧ v.firstRelease ≤ v.finalStage := by
  unfold Voice.firstRelease Voice.finalStage
  split <;> omega

/-- Settles O42: the chain of stages from FIRST_RELEASE, which frees a voice at 0 and enters its first stage above. -/
theorem releaseStarts : Obligations.ReleaseStarts := by
  intro s v n hv h hval
  dsimp only
  have run := exec_envrel_registers hv h hval
  obtain ⟨three, final⟩ := firstRelease_mem v
  refine ⟨fun hz => ?_, run, fun hs hpos hd => ⟨_, _, run, rfl, rfl, ?_⟩⟩
  · have hend : stageEnd s (atStage v.firstRelease v) v.env.value.toNat v.firstRelease = .freed :=
      if_pos (.inr ⟨Nat.le_refl _, hz.le⟩)
    have chain : chained s (atStage v.firstRelease v) v.env.value.toNat v.firstRelease =
        (reclaimed (atStage v.firstRelease v), []) := by
      unfold chained
      rw [stageReached_of_freed hend rfl, stageChecks_of_freed hend]
    rw [run, chain]
    rfl
  · have hend : stageEnd s (atStage v.firstRelease v) v.env.value.toNat v.firstRelease = .enters := by
      unfold stageEnd
      rw [← firstRelease_eq, ← finalStage_eq]
      refine (if_neg ?_).trans ((if_neg ?_).trans (if_pos ?_))
      · rintro (hf | ⟨-, hz⟩)
        · exact absurd final (Nat.not_le.2 hf)
        · omega
      · rintro ⟨-, hh, hm⟩
        rcases hs with hs | hs | hs
        · rcases hh with hh | hh <;> exact VoiceStatus.noConfusion (hs.symm.trans hh)
        · rcases hh with hh | hh <;> exact VoiceStatus.noConfusion (hs.symm.trans hh)
        · exact hm hs
      · exact fun e => hd (by rw [← e]; exact Int.sub_self _)
    obtain ⟨env, lss, lsr⟩ := restarted_env s v.firstRelease
      (chained s (atStage v.firstRelease v) v.env.value.toNat v.firstRelease)
    have scales : scaleKept (v.env.value.toNat : Int) v.firstRelease (atStage v.firstRelease v) =
        withScales v.env.value.toNat (atStage v.firstRelease v) := if_pos rfl
    rw [env, lss, lsr]
    unfold chained
    rw [stageReached_of_enters hend, scales]
    refine ⟨rfl, rfl, ?_⟩
    unfold stageIncrement
    dsimp only
    rw [if_pos (show v.firstRelease = (atStage v.firstRelease v).firstRelease from rfl),
      if_neg (show ¬v.firstRelease = 0 by omega), neg_limited]
    rfl

/-! The chain of stages reads V_STATUS for the sustain-decay rule alone. -/

section status

/-- The voice with another V_STATUS. -/
def withStatus (x : VoiceStatus) (v : Voice) : Voice := { v with status := x }

theorem stageEnd_withStatus (hm : s.minSustainTime.toInt = 1) (x : VoiceStatus) (v : Voice) (value : Int) (k : Nat) :
    stageEnd s (withStatus x v) value k = stageEnd s v value k := by
  unfold stageEnd
  simp only [hm, ne_eq, not_true_eq_false, and_false, if_false]
  rfl

theorem stageEnd_ne_sustains (hm : s.minSustainTime.toInt = 1) (v : Voice) (value : Int) (k : Nat) :
    stageEnd s v value k ≠ .sustains := by
  unfold stageEnd
  simp only [hm, ne_eq, not_true_eq_false, and_false, if_false]
  split_ifs <;> exact fun h => nomatch h

theorem stageReached_withStatus (hm : s.minSustainTime.toInt = 1) (x : VoiceStatus) (v : Voice) (value : Int)
    (k : Nat) :
    stageReached s (withStatus x v) value k =
      withStatus (if chainFrees s v value k then .free else x) (stageReached s v value k) ∧
    chainFrees s (withStatus x v) value k = chainFrees s v value k := by
  have last : lastStage s (withStatus x v) value k = lastStage s v value k := by
    unfold lastStage
    simp only [stageEnd_withStatus hm]
  have read : stagesRead s (withStatus x v) value k = stagesRead s v value k := by
    unfold stagesRead
    simp only [stageEnd_withStatus hm, last]
  have frees : chainFrees s (withStatus x v) value k = chainFrees s v value k := by
    unfold chainFrees
    rw [last, stageEnd_withStatus hm]
  refine ⟨?_, frees⟩
  have hs := stageEnd_ne_sustains hm v value (lastStage s v value k)
  unfold chainFrees
  rw [stageReached_eq, stageReached_eq s v, read, last, stageEnd_withStatus hm]
  generalize stageEnd s v value (lastStage s v value k) = e at hs
  change stageEnded s value (withStatus x v) (if v.firstRelease ∈ stagesRead s v value k then
    withScales value (withStatus x v) else withStatus x v) _ _ = _
  cases e
  case sustains => exact absurd rfl hs
  all_goals split <;> rfl

end status

/-- The registers that the level computation reads, V_CTRL by the bits that it reads. -/
def SameLevel (u w : Voice) : Prop :=
  u.env = w.env ∧ u.lss = w.lss ∧ u.lsr = w.lsr ∧ u.trem = w.trem ∧ u.mix = w.mix ∧
    u.ctrl.getLsbD 0 = w.ctrl.getLsbD 0 ∧ u.ctrl.getLsbD 7 = w.ctrl.getLsbD 7

theorem levelled_mix_congr {u w : Voice} (h : SameLevel u w) : (levelled s u).1.mix = (levelled s w).1.mix := by
  obtain ⟨env, lss, lsr, trem, mix, sf, te⟩ := h
  have level : levelOf s u = levelOf s w := by
    unfold levelOf
    rw [firstRelease_eq, firstRelease_eq, env, lss, lsr, sf]
  have amp : amplitude s u = amplitude s w := by
    unfold amplitude
    rw [level, trem, te]
  have of_levelled : ∀ y : Voice, (levelled s y).1.mix = { y.mix with
      amp := BitVec.ofInt 32 (amplitude s y).1
      leftMix := BitVec.ofInt 32 (narrow (scaled 16 (amplitude s y).1 y.mix.panL.toInt))
      rightMix := BitVec.ofInt 32 (narrow (scaled 16 (amplitude s y).1 y.mix.panR.toInt)) } := by
    intro y
    rw [levelled_eq]
    dsimp only
    split <;> rfl
  rw [of_levelled, of_levelled, amp, mix]

theorem exposed_sameLevel (u : Voice) : SameLevel (exposed u) u := by
  unfold exposed
  dsimp only
  split
  · exact ⟨rfl, rfl, rfl, rfl, rfl, rfl, rfl⟩
  · refine ⟨rfl, rfl, rfl, rfl, rfl, ?_, ?_⟩ <;> simp

theorem modulationStart_sameLevel (s : State) (k : Nat) (u : Voice) : SameLevel (modulationStart s k u).1 u := by
  unfold modulationStart
  split
  · exact ⟨rfl, rfl, rfl, rfl, rfl, rfl, rfl⟩
  · exact exposed_sameLevel { u with menv := modulationReached u u.menv.value.toInt k }

/-- After chains that end in voices which the level reads alike, and free both or neither, the mixes are alike. -/
theorem restarted_mix_congr {k : Nat} {r r' : Voice × List Int} (h : SameLevel r.1 r'.1)
    (hf : r.1.status = .free ↔ r'.1.status = .free) : (restarted s k r).1.mix = (restarted s k r').1.mix := by
  obtain ⟨env, lss, lsr, trem, mix, sf, te⟩ := h
  unfold restarted unlessFreed
  by_cases free : r.1.status = .free
  · rw [if_pos free, if_pos (hf.1 free)]
    exact mix
  · rw [if_neg free, if_neg (fun f => free (hf.2 f))]
    obtain ⟨env1, lss1, lsr1, trem1, mix1, sf1, te1⟩ := modulationStart_sameLevel s k r.1
    obtain ⟨env2, lss2, lsr2, trem2, mix2, sf2, te2⟩ := modulationStart_sameLevel s k r'.1
    exact levelled_mix_congr ⟨by rw [env1, env2, env], by rw [lss1, lss2, lss], by rw [lsr1, lsr2, lsr],
      by rw [trem1, trem2, trem], by rw [mix1, mix2, mix], by rw [sf1, sf2, sf], by rw [te1, te2, te]⟩

theorem restarted_voices (s : State) (vs : List Voice) (k : Nat) (r : Voice × List Int) :
    restarted { s with voices := vs } k r = restarted s k r := rfl

theorem chained_voices (s : State) (vs : List Voice) (v : Voice) (value : Int) (k : Nat) :
    chained { s with voices := vs } v value k = chained s v value k := rfl

/-- Settles O43: the chain of stages from FIRST_RELEASE ends there with the sustain-decay rule; with it skipped, the
chain does not read V_STATUS. -/
theorem sustainHoldsOrDecays : Obligations.SustainHoldsOrDecays := by
  intro s v n hv hs hval hpos
  have live : v.status ≠ .free := by
    rcases hs with hs | hs <;> rw [hs] <;> decide
  have run := exec_envrel_registers hv live hval
  obtain ⟨three, final⟩ := firstRelease_mem v
  dsimp only
  refine ⟨fun hm => ?_, fun hm => ?_⟩
  · have hend : stageEnd s (atStage v.firstRelease v) v.env.value.toNat v.firstRelease = .sustains := by
      unfold stageEnd
      rw [← firstRelease_eq, ← finalStage_eq]
      refine (if_neg ?_).trans (if_pos ⟨rfl, hs, hm⟩)
      rintro (hf | ⟨-, hz⟩)
      · exact absurd final (Nat.not_le.2 hf)
      · omega
    have chain : chained s (atStage v.firstRelease v) v.env.value.toNat v.firstRelease =
        ({ v with env := { v.env with
          stage := BitVec.ofNat 32 v.firstRelease, target := (sustainRamp s v v.env.value.toNat).1
          inc := (sustainRamp s v v.env.value.toNat).2 } }, []) := by
      unfold chained
      rw [stageReached_of_sustains hend, stageChecks_of_sustains hend]
      rfl
    rw [run, chain]
    unfold sustainRamp
    dsimp only
    rw [apply_ite Prod.fst, apply_ite Prod.snd]
    rfl
  · have hv' : (s.voices.set n (withStatus .off v))[n]? = some (withStatus .off v) :=
      List.getElem?_set_self (lt_of_voice hv)
    have run' := exec_envrel_registers (s := { s with voices := s.voices.set n (withStatus .off v) }) hv'
      (by exact fun h => nomatch h) hval
    rw [restarted_voices, chained_voices] at run'
    obtain ⟨reached, frees⟩ := stageReached_withStatus hm .off (atStage v.firstRelease v) v.env.value.toNat v.firstRelease
    have off : atStage (withStatus .off v).firstRelease (withStatus .off v) =
        withStatus .off (atStage v.firstRelease v) := rfl
    have same : SameLevel (chained s (atStage v.firstRelease v) v.env.value.toNat v.firstRelease).1
        (chained s (withStatus .off (atStage v.firstRelease v)) v.env.value.toNat v.firstRelease).1 := by
      unfold chained
      rw [reached]
      exact ⟨rfl, rfl, rfl, rfl, rfl, rfl, rfl⟩
    have free : (chained s (atStage v.firstRelease v) v.env.value.toNat v.firstRelease).1.status = .free ↔
        (chained s (withStatus .off (atStage v.firstRelease v)) v.env.value.toNat v.firstRelease).1.status = .free := by
      unfold chained
      rw [stageReached_status, stageReached_status, frees]
      cases chainFrees s (atStage v.firstRelease v) v.env.value.toNat v.firstRelease
      · exact ⟨fun h => absurd h live, fun h => nomatch h⟩
      · exact Iff.rfl
    obtain ⟨env1, lss1, lsr1⟩ := restarted_env s v.firstRelease
      (chained s (atStage v.firstRelease v) v.env.value.toNat v.firstRelease)
    obtain ⟨env2, lss2, lsr2⟩ := restarted_env s v.firstRelease
      (chained s (withStatus .off (atStage v.firstRelease v)) v.env.value.toNat v.firstRelease)
    have mix := restarted_mix_congr (s := s) (k := v.firstRelease) same free
    obtain ⟨env, lss, lsr, -⟩ := same
    refine ⟨_, _, _, _, run, rfl, run', List.set_set _, ?_⟩
    exact ⟨env1.trans (env.trans env2.symm), lss1.trans (lss.trans lss2.symm), lsr1.trans (lsr.trans lsr2.symm), mix⟩

/-! ### MENVUPD (O44) -/

theorem modulationReached_value (v : Voice) (x : Int) (k : Nat) :
    (modulationReached v x k).value = BitVec.ofInt 32 x := by
  unfold modulationReached
  dsimp only
  split <;> rfl

/-- MENV_OUT follows a value, and FILT_DIRTY its changes (44_envelope.md R542). -/
theorem exposed_of_value {u : Voice} {value : Int} (h : u.menv.value.toInt = value) :
    exposed u =
      (let out := BitVec.ofInt 32 (value / 2 ^ 14)
       { u with menvOut := out, ctrl := if out = u.menvOut then u.ctrl else u.ctrl ||| 0x100 }) := by
  unfold exposed
  rw [h]
  dsimp only
  split
  next same =>
    rw [same]
  · rfl

/-- The modulation envelope's value after its own turn (44_envelope.md R541). -/
theorem menvTurn_cases (v : Voice) :
    let inc := v.menv.inc.toInt
    let target := v.menv.target.toInt
    let moved := clamp 0 0x3FFFFFFF (v.menv.value.toInt + inc)
    let reached := decide ((0 < inc ∧ target ≤ moved) ∨ (inc < 0 ∧ moved ≤ target))
    let value := if inc = 0 then v.menv.value.toInt else if reached then clamp 0 0x3FFFFFFF target else moved
    menvTurn v = ({ v with
      menv := if reached then modulationReached v value v.menv.stage.toNat
        else { v.menv with value := BitVec.ofInt 32 value } },
      if reached then modulationChecks v value v.menv.stage.toNat else []) ∧
    (menvTurn v).1.menv.value.toInt = value := by
  dsimp only
  unfold menvTurn crossed
  dsimp only
  by_cases stopped : v.menv.inc.toInt = 0
  · have still : ¬((0 < v.menv.inc.toInt ∧
        v.menv.target.toInt ≤ clamp 0 0x3FFFFFFF (v.menv.value.toInt + v.menv.inc.toInt)) ∨
        (v.menv.inc.toInt < 0 ∧ clamp 0 0x3FFFFFFF (v.menv.value.toInt + v.menv.inc.toInt) ≤ v.menv.target.toInt)) := by
      omega
    simp only [if_pos stopped, decide_eq_false still, BitVec.ofInt_toInt]
    exact ⟨rfl, trivial⟩
  · simp only [if_neg stopped]
    by_cases reached : (0 < v.menv.inc.toInt ∧
        v.menv.target.toInt ≤ clamp 0 0x3FFFFFFF (v.menv.value.toInt + v.menv.inc.toInt)) ∨
        (v.menv.inc.toInt < 0 ∧ clamp 0 0x3FFFFFFF (v.menv.value.toInt + v.menv.inc.toInt) ≤ v.menv.target.toInt)
    · simp only [decide_eq_true reached, if_true]
      exact ⟨trivial, by rw [modulationReached_value, ofInt_clamp_toInt]⟩
    · simp only [decide_eq_false reached, Bool.false_eq_true, if_false]
      exact ⟨rfl, ofInt_clamp_toInt _⟩

/-- Settles O44: the modulation envelope's turn, and MENV_OUT after it. -/
theorem modulationEnvelopeResult : Obligations.ModulationEnvelopeResult := by
  intro s v n hv h
  dsimp only
  refine ⟨fun off => ?_, fun on => ?_⟩
  · rw [exec_menvupd hv h, modulationTurn_eq, if_pos off]
    exact congrArg (fun t : State => Host.Outcome.next { t with cmdSeq := s.cmdSeq + 1 }) (State.setVoice_self hv)
  · have turn := menvTurn_cases v
    dsimp only at turn
    obtain ⟨turn, value⟩ := turn
    rw [exec_menvupd hv h, modulationTurn_eq, if_neg (by rw [on]; decide), exposed_of_value value, turn]
    dsimp only
    rw [apply_ite (fun l => satIf l s.status)]
    rfl

end Sys2Proof.Proofs
end

section
/-! PROOFS. A command followed step by step in the terms of the statements: it completes and leaves what they say, or
halts at the first word outside sample RAM with all before it done (20_memory.md R152; 60_exceptions.md R806). -/

namespace Sys2Proof.Proofs

open Sys2Proof.Machine Sys2Proof.Claims

-- Proofs elaborated one after another need less memory.
set_option Elab.async false

/-- What the statements say of a command in the middle: a picture of a machine state, with the first word accessed
outside sample RAM, if there is one. -/
structure View (X : Type) where
  shows : X → State → Prop
  bad : X → Option Nat

variable {X α β : Type} {V : View X}

/-- From every state that `x` pictures the command leaves one that `y` pictures, and answers `a`, or has halted at
the bad word of `y`. -/
def Tracks (V : View X) (c : Cmd α) (x : X) (a : α) (y : X) : Prop :=
  ∀ t, V.shows x t →
    (V.bad y = none → ∃ u, c t = .ok a u ∧ V.shows y u) ∧
    ∀ w, V.bad y = some w → ∃ u, c t = .error (.badAddr (BitVec.ofNat 32 w))
      (takeFatal (.badAddr (BitVec.ofNat 32 w)) u) ∧ V.shows y u

theorem tracks_pure (a : α) {x : X} (hx : V.bad x = none) : Tracks V (pure a) x a x := by
  intro t ht
  refine ⟨fun _ => ⟨t, rfl, ht⟩, fun w hw => ?_⟩
  rw [hx] at hw
  cases hw

/-- What follows a command that has halted is not run. -/
theorem Tracks.halts {c : Cmd α} {k : α → Cmd β} {x y : X} {a : α} {b : β} (hc : Tracks V c x a y)
    (hy : V.bad y ≠ none) : Tracks V (c >>= k) x b y := by
  intro t ht
  refine ⟨fun h => absurd h hy, fun w hw => ?_⟩
  obtain ⟨u, run, hu⟩ := (hc t ht).2 w hw
  exact ⟨u, bind_of_error run, hu⟩

/-- A command and what follows it, which does nothing once a word accessed lies outside. -/
theorem Tracks.bind {c : Cmd α} {k : α → Cmd β} {x y z : X} {a : α} {b : β} (hc : Tracks V c x a y)
    (hz : V.bad y ≠ none → z = y) (hk : V.bad y = none → Tracks V (k a) y b z) : Tracks V (c >>= k) x b z := by
  rcases hy : V.bad y with _ | w
  · intro t ht
    obtain ⟨u, run, hu⟩ := (hc t ht).1 hy
    obtain ⟨done, halts⟩ := hk hy u hu
    rw [bind_of_ok run]
    exact ⟨done, halts⟩
  · have dead : V.bad y ≠ none := by
      rw [hy]
      exact fun h => nomatch h
    rw [hz dead]
    exact hc.halts dead

theorem tracks_getState_bind {k : State → Cmd β} {x z : X} {b : β}
    (hk : ∀ t, V.shows x t → Tracks V (k t) x b z) : Tracks V (getState >>= k) x b z := by
  intro t ht
  rw [bind_of_ok (getState_run t)]
  exact hk t ht t ht

theorem Tracks.of_pos {p : Prop} [Decidable p] {c d : Cmd α} {x y : X} {a : α} (hp : p) (h : Tracks V c x a y) :
    Tracks V (if p then c else d) x a y := by
  rwa [if_pos hp]

theorem Tracks.of_neg {p : Prop} [Decidable p] {c d : Cmd α} {x y : X} {a : α} (hp : ¬p) (h : Tracks V d x a y) :
    Tracks V (if p then c else d) x a y := by
  rwa [if_neg hp]

/-- Only a command that completes answers. -/
theorem Tracks.answer {c : Cmd α} {x y : X} {a a' : α} (h : Tracks V c x a y) (ha : V.bad y = none → a = a') :
    Tracks V c x a' y := by
  intro t ht
  obtain ⟨done, halts⟩ := h t ht
  refine ⟨fun hy => ?_, halts⟩
  rw [← ha hy]
  exact done hy

theorem Tracks.cast {c : Cmd α} {x y y' : X} {a a' : α} (h : Tracks V c x a y) (ha : a = a') (hy : y = y') :
    Tracks V c x a' y' := by
  subst ha hy
  exact h

end Sys2Proof.Proofs
end

section
/-! PROOFS. The accesses and the frames of MIXV, in the terms of the statements (45_mixer.md R600 to R620). -/

namespace Sys2Proof.Proofs

open Sys2Proof.Machine Sys2Proof.Claims

-- Proofs elaborated one after another need less memory.
set_option Elab.async false

variable {s : State} {n : Nat} {α β : Type} {x y z : Mixing} {a : α} {b : β}

/-- The state in the middle of a MIXV on voice `n` from the state `s`. -/
def mixView (s : State) (n : Nat) : View Mixing where
  shows x t := x.size = s.sramWords ∧ (∃ m, t = voiceState s n m x.checks x.voice) ∧ ∀ a, ramOf t a = x.ram a
  bad x := x.words.find? fun a => decide (x.size ≤ a)

/-- No word accessed lies outside sample RAM. -/
def Live (x : Mixing) : Prop := (x.words.find? fun a => decide (x.size ≤ a)) = none

theorem live_iff (x : Mixing) : Live x ↔ (x.words.any fun a => decide (x.size ≤ a)) = false := by
  unfold Live
  rw [List.find?_eq_none, List.any_eq_false]

theorem next_of_live (h : Live x) (y : Mixing) : x.next y = y := by
  unfold Mixing.next
  rw [(live_iff x).1 h]
  rfl

theorem next_of_dead (h : ¬Live x) (y : Mixing) : x.next y = x := by
  unfold Mixing.next
  rw [eq_true_of_ne_false fun hf => h ((live_iff x).2 hf)]
  rfl

/-! Nothing is done after a halt. -/

theorem dead_noting (h : ¬Live x) (vs : List Int) : x.noting vs = x := next_of_dead h _

theorem dead_accessing (h : ¬Live x) (a : Nat) : x.accessing a = x := next_of_dead h _

theorem dead_turn (h : ¬Live x) (f : Voice → Voice × List Int) : x.turn f = x := next_of_dead h _

theorem dead_storing (h : ¬Live x) (a : Nat) (v : Int) : x.storing a v = x := by
  unfold Mixing.storing
  dsimp only
  rw [dead_accessing h, next_of_dead h]

theorem dead_add (h : ¬Live x) (a : Nat) (c : Int) : x.add a c = x := by
  unfold Mixing.add
  rw [dead_accessing h, dead_noting h, dead_storing h]

theorem dead_send (h : ¬Live x) (base level : Word) (f side : Nat) (c : Int) : x.send base level f side c = x := by
  unfold Mixing.send
  split
  · rfl
  · rw [dead_noting h, dead_add h]

theorem dead_contributed (s : State) (h : ¬Live x) (f side : Nat) (c : Int) : contributed s f side c x = x := by
  unfold contributed
  dsimp only
  rw [dead_add h, dead_send h, dead_send h, dead_send h]

theorem dead_sided (s : State) (h : ¬Live x) (f side : Nat) (sample level : Int) :
    sided s f side sample level x = x := by
  unfold sided
  dsimp only
  rw [dead_noting h, dead_accessing h, dead_contributed s h, dead_contributed s h, dead_storing h, dead_turn h, ite_self]

theorem dead_panned (s : State) (h : ¬Live x) (f : Nat) (sample lL lR : Int) : panned s f sample lL lR x = x := by
  unfold panned
  dsimp only
  rw [dead_sided s h, ite_self, dead_sided s h, ite_self]

theorem dead_sampled (h : ¬Live x) : (sampled x).2 = x := by
  unfold sampled
  dsimp only
  rw [dead_accessing h, dead_turn h]

theorem dead_framed (s : State) (h : ¬Live x) (f : Nat) : framed s f x = x := by
  unfold framed
  dsimp only
  rw [dead_sampled h, dead_turn h, dead_panned s h]

theorem live_turn (h : Live x) (f : Voice → Voice × List Int) : Live (x.turn f) := by
  unfold Mixing.turn
  rw [next_of_live h]
  exact h

theorem live_noting (h : Live x) (vs : List Int) : Live (x.noting vs) := by
  unfold Mixing.noting
  rw [next_of_live h]
  exact h

theorem turn_of_live (h : Live x) (f : Voice → Voice × List Int) :
    x.turn f = { x with voice := (f x.voice).1, checks := x.checks ++ (f x.voice).2 } := next_of_live h _

theorem noting_of_live (h : Live x) (vs : List Int) : x.noting vs = { x with checks := x.checks ++ vs } :=
  next_of_live h _

theorem accessing_of_live (h : Live x) (a : Nat) : x.accessing a = { x with words := x.words ++ [a] } :=
  next_of_live h _

/-! ### Words -/

theorem live_accessing_iff (h : Live x) (a : Nat) : Live (x.accessing a) ↔ a < x.size := by
  rw [accessing_of_live h]
  unfold Live at h ⊢
  rw [List.find?_append, h]
  by_cases ha : x.size ≤ a
  · simp [ha]
  · simp [ha]
    omega

/-- The first bad word of an access that leaves sample RAM. -/
theorem bad_accessing (h : Live x) {a : Nat} (ha : x.size ≤ a) : (mixView s n).bad (x.accessing a) = some a := by
  rw [accessing_of_live h]
  unfold Live at h
  show (x.words ++ [a]).find? _ = _
  rw [List.find?_append, h]
  simp [ha]

theorem shows_accessing {t : State} (h : Live x) (a : Nat) (ht : (mixView s n).shows x t) :
    (mixView s n).shows (x.accessing a) t := by
  rw [accessing_of_live h]
  exact ht

/-- A word read: its value is the picture's. -/
theorem tracks_memRead_bind {k : Word → Cmd β} (hx : Live x) (w : Word)
    (hz : ¬Live (x.accessing w.toNat) → z = x.accessing w.toNat)
    (hk : Live (x.accessing w.toNat) → ∀ r : Word, r.toInt = x.ram w.toNat →
      Tracks (mixView s n) (k r) (x.accessing w.toNat) b z) : Tracks (mixView s n) (memRead w >>= k) x b z := by
  intro t ht
  obtain ⟨size, ⟨m, rfl⟩, ram⟩ := id ht
  by_cases hw : w.toNat < s.sramWords
  · have live : Live (x.accessing w.toNat) := (live_accessing_iff hx _).2 (by rw [size]; exact hw)
    rw [bind_of_ok (memRead_run_of_lt (s := voiceState s n m x.checks x.voice) hw)]
    exact hk live _ (ram _) _ (shows_accessing hx _ ht)
  · have bad := bad_accessing (s := s) (n := n) hx (a := w.toNat) (by rw [size]; omega)
    have dead : ¬Live (x.accessing w.toNat) := fun h => by
      rw [live_accessing_iff hx, size] at h
      exact hw h
    rw [hz dead]
    refine ⟨fun h => absurd h (by rw [bad]; exact fun h => nomatch h), fun a ha => ?_⟩
    rw [bad] at ha
    injection ha with ha
    rw [← ha, BitVec.ofNat_toNat, BitVec.setWidth_eq]
    exact ⟨_, bind_of_error (memRead_run_of_ge (s := voiceState s n m x.checks x.voice) (Nat.le_of_not_lt hw)),
      shows_accessing hx _ ht⟩

theorem storing_of_dead {a : Nat} (h : ¬Live (x.accessing a)) (v : Int) : x.storing a v = x.accessing a :=
  next_of_dead h _

theorem storing_of_live {a : Nat} (h : Live (x.accessing a)) (v : Int) :
    x.storing a v = { x.accessing a with ram := (x.accessing a).ram.put a v } := next_of_live h _

theorem not_live_of_bad {a : Nat} (h : (mixView s n).bad x = some a) : ¬Live x := fun hl => by
  have : (mixView s n).bad x = none := hl
  rw [this] at h
  cases h

theorem tracks_memWrite (hx : Live x) (w v : Word) :
    Tracks (mixView s n) (memWrite w v) x () (x.storing w.toNat v.toInt) := by
  intro t ht
  obtain ⟨size, ⟨m, rfl⟩, ram⟩ := id ht
  by_cases hw : w.toNat < s.sramWords
  · have live : Live (x.accessing w.toNat) := (live_accessing_iff hx _).2 (by rw [size]; exact hw)
    rw [storing_of_live live, accessing_of_live hx]
    refine ⟨fun _ => ⟨_, memWrite_run_of_lt (s := voiceState s n m x.checks x.voice) hw, size,
      ⟨memPutWord m w.toNat v, rfl⟩, fun a => ?_⟩, fun a ha => ?_⟩
    · show (State.sramWord (State.withSramWord w.toNat v (voiceState s n m x.checks x.voice)) a).toInt = _
      rw [sramWord_withSramWord]
      show _ = if a = w.toNat then v.toInt else x.ram a
      rw [← ram a]
      split <;> rfl
    · rw [accessing_of_live hx] at live
      exact absurd live (not_live_of_bad (s := s) (n := n) ha)
  · have bad := bad_accessing (s := s) (n := n) hx (a := w.toNat) (by rw [size]; omega)
    rw [storing_of_dead (not_live_of_bad bad)]
    refine ⟨fun h => absurd h (by rw [bad]; exact fun h => nomatch h), fun a ha => ?_⟩
    rw [bad] at ha
    injection ha with ha
    rw [← ha, BitVec.ofNat_toNat, BitVec.setWidth_eq]
    exact ⟨_, memWrite_run_of_ge (s := voiceState s n m x.checks x.voice) (Nat.le_of_not_lt hw),
      shows_accessing hx _ ht⟩

/-! ### Turns of the voice -/

/-- What a command makes of the voice is a turn. -/
theorem Makes.tracks {c : Cmd α} {f : Voice → Voice × List Int} (h : Makes s n c x.voice a (f x.voice)) (hx : Live x) :
    Tracks (mixView s n) c x a (x.turn f) := by
  rintro t ⟨size, ⟨m, rfl⟩, ram⟩
  refine ⟨fun _ => ⟨_, h m x.checks, ?_⟩, fun w hw => absurd (live_turn hx f) (not_live_of_bad hw)⟩
  rw [turn_of_live hx]
  exact ⟨size, ⟨m, rfl⟩, ram⟩

theorem noting_eq_turn (hx : Live x) (vs : List Int) : x.noting vs = x.turn fun w => (w, vs) := by
  rw [noting_of_live hx, turn_of_live hx]

theorem tracks_sat32 (hx : Live x) (v : Int) : Tracks (mixView s n) (sat32 v) x (narrow v) (x.noting [v]) := by
  rw [noting_eq_turn hx]
  exact Makes.tracks (f := fun w => (w, [v])) (makes_sat32 v x.voice) hx

theorem tracks_fmul (hx : Live x) (q : Nat) (u v : Int) :
    Tracks (mixView s n) (fmul q u v) x (narrow (scaled q u v)) (x.noting [scaled q u v]) := by
  rw [noting_eq_turn hx]
  exact Makes.tracks (f := fun w => (w, [scaled q u v])) (makes_fmul q u v x.voice) hx

/-! ### One side -/

theorem narrow_bounds (v : Int) : -2147483648 ≤ narrow v ∧ narrow v ≤ 2147483647 := by
  unfold narrow clamp
  omega

theorem wordOf_narrow_toInt (v : Int) : (wordOf (narrow v)).toInt = narrow v := wordOf_toInt (narrow_bounds v)

theorem tracks_memAccumulate (hx : Live x) (w : Word) (c : Int) :
    Tracks (mixView s n) (memAccumulate w c) x () (x.add w.toNat c) := by
  unfold memAccumulate Mixing.add
  refine tracks_memRead_bind hx w (fun h => by rw [dead_noting h, dead_storing h]) fun live r hr => ?_
  rw [← hr]
  refine (tracks_sat32 live _).bind (fun h => dead_storing h _ _) fun live' => ?_
  have store := tracks_memWrite (s := s) (n := n) live' w (wordOf (narrow (r.toInt + c)))
  rwa [wordOf_narrow_toInt] at store

/-- The number of a side in the statements. -/
def sideNo : Side → Nat
  | .left => 0
  | .right => 1

theorem frameAddress_eq (base : Word) (f : Nat) (side : Side) :
    (frameAddress base (BitVec.ofNat 32 f) side).toNat = frameAddr base f (sideNo side) := by
  have two : (2 * BitVec.ofNat 32 f : Word).toNat = 2 * f % 2 ^ 32 := by
    rw [BitVec.toNat_mul, BitVec.toNat_ofNat]
    show 2 * (f % 2 ^ 32) % 2 ^ 32 = _
    omega
  unfold frameAddress frameAddr sideNo
  cases side
  · dsimp only
    rw [BitVec.toNat_add, two]
    omega
  · dsimp only
    rw [BitVec.toNat_add, BitVec.toNat_add, two]
    show (_ % 2 ^ 32 + 1) % 2 ^ 32 = _
    omega

theorem toInt_eq_zero_iff (w : Word) : w.toInt = 0 ↔ w = 0 := by
  rw [← BitVec.toInt_inj]
  rfl

theorem tracks_sendTo (hx : Live x) (base level : Word) (f : Nat) (side : Side) (c : Int) :
    Tracks (mixView s n) (sendTo base (BitVec.ofNat 32 f) side level.toInt c) x ()
      (x.send base level f (sideNo side) c) := by
  unfold sendTo Mixing.send
  by_cases hl : level = 0
  · rw [if_pos hl]
    exact Tracks.of_pos ((toInt_eq_zero_iff level).2 hl) (tracks_pure () hx)
  · rw [if_neg hl]
    refine Tracks.of_neg (fun h => hl ((toInt_eq_zero_iff level).1 h)) ?_
    refine (tracks_fmul hx 16 c level.toInt).bind (fun h => dead_add h _ _) fun live => ?_
    rw [← frameAddress_eq]
    exact tracks_memAccumulate live _ _

theorem tracks_contribute (hx : Live x) {v : Voice} (hv : v.sendRev = x.voice.sendRev ∧ v.sendCho = x.voice.sendCho ∧
    v.sendDly = x.voice.sendDly) (f : Nat) (side : Side) (c : Int) :
    Tracks (mixView s n) (contribute v (BitVec.ofNat 32 f) side c) x () (contributed s f (sideNo side) c x) := by
  obtain ⟨rev, cho, dly⟩ := hv
  unfold contribute contributed
  refine tracks_getState_bind fun t ht => ?_
  obtain ⟨-, ⟨m, rfl⟩, -⟩ := ht
  rw [rev, cho, dly, show (voiceState s n m x.checks x.voice).outBase = s.outBase from rfl,
    show (voiceState s n m x.checks x.voice).busRevBase = s.busRevBase from rfl,
    show (voiceState s n m x.checks x.voice).busChoBase = s.busChoBase from rfl,
    show (voiceState s n m x.checks x.voice).busDlyBase = s.busDlyBase from rfl, ← frameAddress_eq]
  dsimp only
  refine (tracks_memAccumulate hx _ _).bind (fun h => by rw [dead_send h, dead_send h, dead_send h]) fun live => ?_
  refine (tracks_sendTo live _ _ f side c).bind (fun h => by rw [dead_send h, dead_send h]) fun live => ?_
  exact (tracks_sendTo live _ _ f side c).bind (fun h => dead_send h _ _ _ _ _) fun live => tracks_sendTo live _ _ f side c

/-! Mixing changes no register that the addresses and the pan law depend on, but the cursors. -/

theorem voice_noting (x : Mixing) (vs : List Int) : (x.noting vs).voice = x.voice := by
  unfold Mixing.noting Mixing.next
  split <;> rfl

theorem voice_accessing (x : Mixing) (a : Nat) : (x.accessing a).voice = x.voice := by
  unfold Mixing.accessing Mixing.next
  split <;> rfl

theorem voice_storing (x : Mixing) (a : Nat) (v : Int) : (x.storing a v).voice = x.voice := by
  unfold Mixing.storing
  rw [show ∀ y z : Mixing, (y.next z).voice = if (y.words.any fun a => decide (y.size ≤ a)) then y.voice else z.voice from
    fun y z => apply_ite _ _ _ _, ite_self, voice_accessing]

theorem voice_add (x : Mixing) (a : Nat) (c : Int) : (x.add a c).voice = x.voice := by
  unfold Mixing.add
  rw [voice_storing, voice_noting, voice_accessing]

theorem voice_send (x : Mixing) (base level : Word) (f side : Nat) (c : Int) :
    (x.send base level f side c).voice = x.voice := by
  unfold Mixing.send
  split
  · rfl
  · rw [voice_add, voice_noting]

theorem voice_contributed (s : State) (f side : Nat) (c : Int) (x : Mixing) :
    (contributed s f side c x).voice = x.voice := by
  unfold contributed
  dsimp only
  rw [voice_send, voice_send, voice_send, voice_add]

/-- A side written normally (45_mixer.md R602). -/
theorem tracks_mixSide (hx : Live x) {v : Voice} (hv : v.sendRev = x.voice.sendRev ∧ v.sendCho = x.voice.sendCho ∧
    v.sendDly = x.voice.sendDly) (f : Nat) (side : Side) (sample level : Int) :
    Tracks (mixView s n) (mixSide v (BitVec.ofNat 32 f) side sample level) x ()
      (contributed s f (sideNo side) (narrow (sample * level)) (x.noting [sample * level])) := by
  unfold mixSide
  refine (tracks_sat32 hx _).bind (fun h => dead_contributed s h _ _ _) fun live => ?_
  exact tracks_contribute live (by rwa [voice_noting]) f side _

/-- The delayed side (45_mixer.md R620). -/
theorem tracks_mixDelayed (hn : n < s.voices.length) (hx : Live x) (f : Nat) (side : Side) (sample level : Int) :
    let p := x.voice.pdly
    let oldest := (p.base + p.rpt).toNat
    let newest := (p.base + p.wpt).toNat
    let next := fun w : Word => BitVec.ofNat 32 ((w.toNat + 1) % p.len.toNat)
    Tracks (mixView s n) (mixDelayed n x.voice (BitVec.ofNat 32 f) side sample level) x ()
      (((contributed s f (sideNo side) (x.ram oldest) ((x.noting [sample * level]).accessing oldest)).storing newest
        (narrow (sample * level))).turn fun v => ({ v with pdly := { p with wpt := next p.wpt, rpt := next p.rpt } }, [])) := by
  dsimp only
  unfold mixDelayed
  refine (tracks_sat32 hx _).bind (fun h => by
    rw [dead_accessing h, dead_contributed s h, dead_storing h, dead_turn h]) fun live => ?_
  refine tracks_memRead_bind live _ (fun h => by rw [dead_contributed s h, dead_storing h, dead_turn h]) fun live r hr => ?_
  have voice : ((x.noting [sample * level]).accessing (x.voice.pdly.base + x.voice.pdly.rpt).toNat).voice = x.voice := by
    rw [voice_accessing, voice_noting]
  have ram : (x.noting [sample * level]).ram = x.ram := by rw [noting_of_live hx]
  rw [← ram, ← hr]
  refine (tracks_contribute live (by rw [voice]; exact ⟨rfl, rfl, rfl⟩) f side r.toInt).bind (fun h => by
    rw [dead_storing h, dead_turn h]) fun live => ?_
  have store := tracks_memWrite (s := s) (n := n) live (x.voice.pdly.base + x.voice.pdly.wpt)
    (wordOf (narrow (sample * level)))
  rw [wordOf_narrow_toInt] at store
  refine store.bind (fun h => dead_turn h _) fun live => ?_
  have turn := makes_writeVoice (s := s) hn (fun v => { v with pdly := panDelayAdvance v.pdly }) x.voice
  refine Makes.tracks ?_ live
  rw [voice_storing, voice_contributed, voice]
  exact turn

/-! ### The slots of a frame -/

theorem tracks_readVoice_bind (hn : n < s.voices.length) {k : Voice → Cmd β}
    (hk : Tracks (mixView s n) (k x.voice) x b z) : Tracks (mixView s n) (readVoice n >>= k) x b z := by
  intro t ht
  obtain ⟨-, ⟨m, rfl⟩, -⟩ := id ht
  have read : readVoice n (voiceState s n m x.checks x.voice) = .ok x.voice (voiceState s n m x.checks x.voice) :=
    readVoice_ok (s := State.narrowed x.checks { s with sram := m }) x.voice hn
  rw [bind_of_ok read]
  exact hk _ ht

/-- This side of a frame goes through the pan delay (45_mixer.md R620). -/
abbrev SideDelayed (s : State) (v : Voice) (side : Side) : Prop :=
  panDelayed s v ∧ v.ctrl.getLsbD 3 = decide (sideNo side = 1)

theorem tracks_sided (hx : Live x) {v : Voice} (hv : v.sendRev = x.voice.sendRev ∧ v.sendCho = x.voice.sendCho ∧
    v.sendDly = x.voice.sendDly) (f : Nat) (side : Side) (sample level : Int) (h : ¬SideDelayed s x.voice side) :
    Tracks (mixView s n) (mixSide v (BitVec.ofNat 32 f) side sample level) x ()
      (sided s f (sideNo side) sample level x) := by
  unfold sided
  dsimp only
  rw [if_neg h]
  exact tracks_mixSide hx hv f side sample level

theorem tracks_sided_delayed (hn : n < s.voices.length) (hx : Live x) (f : Nat) (side : Side) (sample level : Int)
    (h : SideDelayed s x.voice side) :
    Tracks (mixView s n) (mixDelayed n x.voice (BitVec.ofNat 32 f) side sample level) x ()
      (sided s f (sideNo side) sample level x) := by
  unfold sided
  dsimp only
  rw [if_pos h]
  exact tracks_mixDelayed hn hx f side sample level

theorem live_of_turn {f : Voice → Voice × List Int} (h : Live (x.turn f)) : Live x := by
  by_contra hx
  rw [dead_turn hx] at h
  exact hx h

theorem voice_sided {f side : Nat} {sample level : Int} (h : Live (sided s f side sample level x)) :
    ∃ p : PanDelay, p.len = x.voice.pdly.len ∧ (sided s f side sample level x).voice = { x.voice with pdly := p } ∧
      (¬(panDelayed s x.voice ∧ x.voice.ctrl.getLsbD 3 = decide (side = 1)) → p = x.voice.pdly) := by
  unfold sided at h ⊢
  dsimp only at h ⊢
  split_ifs at h ⊢ with hd
  · rw [turn_of_live (live_of_turn h), voice_storing, voice_contributed, voice_accessing, voice_noting]
    refine ⟨_, ?_, rfl, fun hn => absurd hd hn⟩
    rfl
  · rw [voice_contributed, voice_noting]
    exact ⟨_, rfl, rfl, fun _ => rfl⟩

theorem sends_sided {f side : Nat} {sample level : Int} (h : Live (sided s f side sample level x)) :
    x.voice.sendRev = (sided s f side sample level x).voice.sendRev ∧
      x.voice.sendCho = (sided s f side sample level x).voice.sendCho ∧
      x.voice.sendDly = (sided s f side sample level x).voice.sendDly := by
  obtain ⟨p, -, hp, -⟩ := voice_sided h
  rw [hp]
  exact ⟨rfl, rfl, rfl⟩

theorem sideDelayed_sided {f side : Nat} {sample level : Int} (h : Live (sided s f side sample level x)) (side' : Side) :
    SideDelayed s (sided s f side sample level x).voice side' ↔ SideDelayed s x.voice side' := by
  obtain ⟨p, hl, hp, -⟩ := voice_sided h
  unfold SideDelayed panDelayed panLaw
  rw [hp]
  dsimp only
  rw [hl]

theorem not_sideDelayed_of_law {v : Voice} (h : panLaw v ≠ 0) (side : Side) : ¬SideDelayed s v side := by
  unfold SideDelayed panDelayed
  rintro ⟨hd, -⟩
  exact h (of_decide_eq_true hd).1

theorem panLaw_lt (v : Voice) : panLaw v < 4 := Nat.mod_lt _ (by decide)

/-- Both sides, neither delayed. -/
theorem tracks_sides (hx : Live x) (f : Nat) (sample lL lR : Int)
    (hl : ¬SideDelayed s x.voice .left) (hr : ¬SideDelayed s x.voice .right) :
    Tracks (mixView s n) (do
      mixSide x.voice (BitVec.ofNat 32 f) .left sample lL
      mixSide x.voice (BitVec.ofNat 32 f) .right sample lR) x () (sided s f 1 sample lR (sided s f 0 sample lL x)) :=
  (tracks_sided (side := .left) hx ⟨rfl, rfl, rfl⟩ f sample lL hl).bind (fun h => dead_sided s h _ _ _ _) fun live =>
    tracks_sided (side := .right) live (sends_sided live) f sample lR (by rwa [sideDelayed_sided live])

theorem tracks_mixSlots (hn : n < s.voices.length) (hx : Live x) (f : Nat) (sample lL lR : Int) :
    Tracks (mixView s n) (mixSlots n (BitVec.ofNat 32 f) sample lL lR) x () (panned s f sample lL lR x) := by
  unfold mixSlots panned
  refine tracks_getState_bind fun t ht => tracks_readVoice_bind hn ?_
  obtain ⟨-, ⟨m, rfl⟩, -⟩ := ht
  rw [← panLaw_eq]
  dsimp only
  have lt := panLaw_lt x.voice
  have hlaw : panLaw x.voice = 0 ∨ panLaw x.voice = 1 ∨ panLaw x.voice = 2 ∨ panLaw x.voice = 3 := by omega
  rcases hlaw with law | law | law | law
  · simp only [law]
    rw [show panDelayOn (voiceState s n m x.checks x.voice) x.voice = panDelayed s x.voice from (panDelayed_eq s _).symm]
    by_cases delayed : panDelayed s x.voice = true
    · refine Tracks.of_pos delayed ?_
      by_cases right : x.voice.ctrl.getLsbD 3 = true
      · have hl : ¬SideDelayed s x.voice .left := fun h => Bool.noConfusion (right.symm.trans h.2)
        refine Tracks.of_pos right ((tracks_sided (side := .left) hx ⟨rfl, rfl, rfl⟩ f sample lL hl).bind
          (fun h => dead_sided s h _ _ _ _) fun live => ?_)
        have hr := (sideDelayed_sided live .right).2 ⟨delayed, right⟩
        obtain ⟨p, -, hp, kept⟩ := voice_sided live
        have voice : (sided s f (sideNo .left) sample lL x).voice = x.voice := by rw [hp, kept hl]
        have turn := tracks_sided_delayed (side := .right) hn live f sample lR hr
        rwa [voice] at turn
      · have left : x.voice.ctrl.getLsbD 3 = false := eq_false_of_ne_true right
        have hr : ¬SideDelayed s x.voice .right := fun h => Bool.noConfusion (left.symm.trans h.2)
        exact Tracks.of_neg right ((tracks_sided_delayed (side := .left) hn hx f sample lL ⟨delayed, left⟩).bind
          (fun h => dead_sided s h _ _ _ _) fun live =>
            tracks_sided (side := .right) live (sends_sided live) f sample lR (by rwa [sideDelayed_sided live]))
    · exact Tracks.of_neg delayed (tracks_sides hx f sample lL lR (fun h => delayed h.1) fun h => delayed h.1)
  · have free := not_sideDelayed_of_law (s := s) (v := x.voice) (by rw [law]; decide)
    simp only [law]
    exact tracks_sides hx f sample lL lL (free _) (free _)
  · have free := not_sideDelayed_of_law (s := s) (v := x.voice) (by rw [law]; decide)
    simp only [law]
    exact tracks_sided (side := .left) hx ⟨rfl, rfl, rfl⟩ f sample lL (free _)
  · have free := not_sideDelayed_of_law (s := s) (v := x.voice) (by rw [law]; decide)
    simp only [law]
    exact tracks_sided (side := .right) hx ⟨rfl, rfl, rfl⟩ f sample lR (free _)

end Sys2Proof.Proofs
end

section
/-! PROOFS. The frames and the routines of MIXV, in the terms of the statements (45_mixer.md R606 to R630). -/

namespace Sys2Proof.Proofs

open Sys2Proof.Machine Sys2Proof.Claims

-- Proofs elaborated one after another need less memory.
set_option Elab.async false

variable {s : State} {n : Nat} {α β : Type} {x y z : Mixing} {a : α} {b : β}

/-! ### The voice filter -/

theorem makes_svfStep (f q : Int) (h : Hist) (v : Int) (w : Voice) :
    Makes s n (svfStep f q h v) w ((chamberlin f q h v).1, (chamberlin f q h v).2.1) (w, (chamberlin f q h v).2.2) := by
  unfold svfStep
  exact Makes.scale (r := (_, _)) _ _ _ (Makes.narrow (r := (_, _)) _ (Makes.narrow (r := (_, _)) _
    (Makes.scale (r := (_, _)) _ _ _ (Makes.narrow (r := (_, _)) _ (Makes.scale (r := (_, _)) _ _ _
      (Makes.narrow (r := (_, _)) _ (makes_pure _ w)))))))

theorem makes_ladderPole (f p u v old : Int) (w : Voice) :
    Makes s n (ladderPole f p u v old) w (narrow (pole f p u old v).1) (w, (pole f p u old v).2) := by
  unfold ladderPole
  exact Makes.narrow (r := (_, _)) _ (Makes.scale (r := (_, _)) _ _ _ (Makes.scale (r := (_, _)) _ _ _
    (makes_sat32 _ w)))

theorem makes_moogStep (f p q : Int) (h : Hist) (v : Int) (w : Voice) :
    Makes s n (moogStep f p q h v) w ((moogLadder f p q h v).1, (moogLadder f p q h v).2.1)
      (w, (moogLadder f p q h v).2.2) := by
  unfold moogStep
  refine (Makes.scale (r := (_, _)) _ _ _ (Makes.narrow (r := (_, _)) _ ((makes_ladderPole _ _ _ _ _ w).bind (r' := (_, _))
    ((makes_ladderPole _ _ _ _ _ w).bind (r' := (_, _)) ((makes_ladderPole _ _ _ _ _ w).bind (r' := (_, _))
      ((makes_ladderPole _ _ _ _ _ w).bind (r' := (w, [])) ?_)))))).cast rfl ?_
  · exact makes_pure _ w
  unfold moogLadder
  dsimp only
  simp only [List.append_nil, List.append_assoc]
  rfl

theorem filt_eq (v : Voice) : v.filt = v.ctrl.toNat / 2 ^ 4 % 4 := by
  unfold Voice.filt
  rw [BitVec.extractLsb'_toNat, Nat.shiftRight_eq_div_pow]

theorem makes_voiceFilter (hn : n < s.voices.length) (v : Int) (w : Voice) :
    Makes s n (voiceFilter n v) w (voiceFiltered w v).1
      ({ w with filtHist := (voiceFiltered w v).2.1 }, (voiceFiltered w v).2.2) := by
  unfold voiceFilter voiceFiltered
  refine Makes.read hn ?_
  rw [← filt_eq]
  have lt : w.filt < 4 := by
    rw [filt_eq]
    exact Nat.mod_lt _ (by decide)
  have hfilt : w.filt = 0 ∨ w.filt = 1 ∨ w.filt = 2 ∨ w.filt = 3 := by omega
  rcases hfilt with filt | filt | filt | filt
  · simp only [filt, show ¬(0 : Nat) = 1 by decide, show ¬(0 : Nat) = 2 by decide, if_false]
    exact makes_pure v w
  · simp only [filt, if_true]
    exact (makes_svfStep _ _ _ _ w).before (k := fun r => do
      writeVoice n fun v => { v with filtHist := r.2 }
      pure r.1) (Makes.write hn _ (makes_pure _ _))
  · simp only [filt, if_true, show ¬(2 : Nat) = 1 by decide, if_false]
    exact (makes_moogStep _ _ _ _ _ w).before (k := fun r => do
      writeVoice n fun v => { v with filtHist := r.2 }
      pure r.1) (Makes.write hn _ (makes_pure _ _))
  · simp only [filt, show ¬(3 : Nat) = 1 by decide, show ¬(3 : Nat) = 2 by decide, if_false]
    exact makes_pure v w

/-- The next sample of the source, through the voice filter (45_mixer.md R606, R607). -/
theorem tracks_sampled (hn : n < s.voices.length) (hx : Live x) :
    Tracks (mixView s n) (nextSample n >>= voiceFilter n) x (sampled x).1 (sampled x).2 := by
  unfold nextSample sampled
  simp only [bind_assoc, pure_bind]
  refine tracks_readVoice_bind hn (tracks_memRead_bind hx _ (fun h => dead_turn h _) fun live r hr => ?_)
  rw [← hr]
  refine Makes.tracks ?_ live
  rw [voice_accessing]
  exact Makes.write hn _ (makes_voiceFilter hn r.toInt { x.voice with srcBase := x.voice.srcBase + 1 })

/-! ### Frames -/

/-- A ramp offset one frame further, before it is narrowed (45_mixer.md R617). -/
def rampNext (ofs inc : Word) : Int := if ofs = 0 then 0 else ofs.toInt + inc.toInt

theorem makes_rampAdvance (ofs inc : Word) (w : Voice) :
    Makes s n (rampAdvance ofs inc) w (wordOf (narrow (rampNext ofs inc))) (w, [rampNext ofs inc]) := by
  unfold rampAdvance rampNext
  by_cases h : ofs = 0
  · simp only [if_pos h]
    exact ((makes_pure ofs w).recast (ys := [0]) rfl).cast (h.trans rfl) rfl
  · simp only [if_neg h]
    exact Makes.narrow (r := (w, [])) _ (makes_pure _ w)

/-- The levels in effect and the voice's ramps one frame further (45_mixer.md R617). -/
def rampTurn (v : Voice) : Voice × List Int :=
  let m := v.mix
  let lL := m.leftMix.toInt + m.leftOfs.toInt
  let lR := m.rightMix.toInt + m.rightOfs.toInt
  let nextL := rampNext m.leftOfs m.leftInc
  let nextR := rampNext m.rightOfs m.rightInc
  let w := fun v : Int => BitVec.ofInt 32 (narrow v)
  ({ v with mix := { m with leftOfs := w nextL, rightOfs := w nextR, oldLeft := w lL, oldRight := w lR } },
    [lL, lR, nextL, nextR])

theorem turn_congr {f g : Voice → Voice × List Int} (h : f x.voice = g x.voice) : x.turn f = x.turn g := by
  unfold Mixing.turn
  rw [h]

/-- A command that makes a turn of the voice, and what follows it. -/
theorem Makes.tracks_bind {c : Cmd α} {k : α → Cmd β} {f : Voice → Voice × List Int}
    (h : Makes s n c x.voice a (f x.voice)) (hx : Live x) (hk : Live (x.turn f) → Tracks (mixView s n) (k a) (x.turn f) b z) :
    Tracks (mixView s n) (c >>= k) x b z :=
  (Makes.tracks h hx).bind (fun hd => absurd (live_turn hx f) hd) hk

theorem voice_turn (hx : Live x) (f : Voice → Voice × List Int) : (x.turn f).voice = (f x.voice).1 := by
  rw [turn_of_live hx]

theorem turn_turn (hx : Live x) (f g : Voice → Voice × List Int) :
    (x.turn f).turn g = x.turn fun v => andThen (f v) g := by
  rw [turn_of_live (live_turn hx f), turn_of_live hx, turn_of_live hx, List.append_assoc]
  rfl

theorem framed_eq (s : State) (f : Nat) (x : Mixing) :
    framed s f x =
      (let m := (sampled x).2.voice.mix
       panned s f (sampled x).1 (narrow (m.leftMix.toInt + m.leftOfs.toInt)) (narrow (m.rightMix.toInt + m.rightOfs.toInt))
         ((sampled x).2.turn rampTurn)) :=
  congrArg (panned s f _ _ _) (turn_congr rfl)

/-- The ramps' turn, step by step. -/
theorem turn_eq_rampTurn (hx : Live x) :
    let m := x.voice.mix
    let lL := m.leftMix.toInt + m.leftOfs.toInt
    let lR := m.rightMix.toInt + m.rightOfs.toInt
    let nextL := rampNext m.leftOfs m.leftInc
    let nextR := rampNext m.rightOfs m.rightInc
    ((((x.turn fun w => (w, [lL])).turn fun w => (w, [lR])).turn fun w => (w, [nextL])).turn fun w => (w, [nextR])).turn
      (fun w => ({ w with mix := { w.mix with
        leftOfs := wordOf (narrow nextL), rightOfs := wordOf (narrow nextR), oldLeft := wordOf (narrow lL)
        oldRight := wordOf (narrow lR) } }, [])) = x.turn rampTurn := by
  dsimp only
  rw [turn_turn hx, turn_turn hx, turn_turn hx, turn_turn hx]
  exact turn_congr rfl

theorem tracks_mixFrame (hn : n < s.voices.length) (hx : Live x) (f : Nat) :
    Tracks (mixView s n) (mixFrame n (BitVec.ofNat 32 f)) x () (framed s f x) := by
  unfold mixFrame
  rw [← bind_assoc, framed_eq]
  refine (tracks_sampled hn hx).bind (fun h => ?_) fun live => ?_
  · dsimp only
    rw [dead_turn h, dead_panned s h]
  · refine tracks_readVoice_bind hn ?_
    generalize (sampled x).2 = y at live ⊢
    have levels := turn_eq_rampTurn live
    dsimp only at levels ⊢
    rw [← levels]
    refine Makes.tracks_bind (f := fun w => (w, [_])) (makes_sat32 _ _) live fun live => ?_
    refine Makes.tracks_bind (f := fun w => (w, [_])) (makes_sat32 _ _) live fun live => ?_
    refine Makes.tracks_bind (f := fun w => (w, [_])) (makes_rampAdvance _ _ _) live fun live => ?_
    refine Makes.tracks_bind (f := fun w => (w, [_])) (makes_rampAdvance _ _ _) live fun live => ?_
    refine Makes.tracks_bind (f := fun w => (_, [])) (makes_writeVoice hn _ _) live fun live => ?_
    exact tracks_mixSlots hn live f _ _ _

theorem ofNat_succ (f : Nat) : BitVec.ofNat 32 f + 1 = (BitVec.ofNat 32 (f + 1) : Word) :=
  (BitVec.ofNat_add f 1).symm

theorem dead_staticFrames (s : State) (hx : ¬Live x) (cnt : Nat) : ∀ f, staticFrames s cnt f x = x := by
  induction cnt with
  | zero => exact fun _ => rfl
  | succ cnt ih =>
    intro f
    rw [staticFrames, dead_framed s hx, ih]

theorem tracks_mixFrames (hn : n < s.voices.length) (cnt : Nat) : ∀ (x : Mixing) (f : Nat), Live x →
    Tracks (mixView s n) (mixFrames n cnt (BitVec.ofNat 32 f)) x () (staticFrames s cnt f x) := by
  induction cnt with
  | zero => exact fun x f hx => tracks_pure () hx
  | succ cnt ih =>
    intro x f hx
    unfold mixFrames staticFrames
    refine (tracks_mixFrame hn hx f).bind (fun h => dead_staticFrames s h cnt _) fun live => ?_
    rw [ofNat_succ]
    exact ih _ (f + 1) live

/-! ### The signal routine -/

theorem makes_mixSmooth (hn : n < s.voices.length) (v : Voice) : Makes s n (mixSmooth n) v () (smoothedMix s v) := by
  unfold mixSmooth
  refine makes_getState_bind fun m vs => Makes.read hn ?_
  exact Makes.narrow (r := (_, _)) _ (Makes.narrow (r := (_, _)) _ (Makes.narrow (r := (_, _)) _
    (Makes.narrow (r := (_, [])) _ (makes_writeVoice hn _ v))))

/-- The control update's turn (45_mixer.md R611). -/
def controlTurn (s : State) (v : Voice) : Voice × List Int :=
  unlessFreed (updated false s { v with cc := s.controlRatio }) (smoothedMix s)

theorem smoothedMix_status (s : State) (v : Voice) : (smoothedMix s v).1.status = v.status := rfl

/-- The control update, where V_CC has run out. -/
theorem makes_controlUpdate (hn : n < s.voices.length) {v : Voice} (h : v.status ≠ .free) (hc : v.cc = 0) :
    Makes s n (controlUpdate n) v (decide ((controlTurn s v).1.status = .free)) (controlTurn s v) := by
  unfold controlUpdate controlTurn
  refine makes_getState_bind fun m vs => Makes.read hn (Makes.of_pos hc (Makes.write hn _ ?_))
  refine Makes.unlessFreed (makes_updateSignal hn false (v := { v with cc := s.controlRatio }) h) fun live => ?_
  exact ((makes_mixSmooth hn _).before (makes_pure false _)).cast
    (decide_eq_false (by rw [smoothedMix_status]; exact live)).symm rfl

theorem controlled_eq (s : State) (x : Mixing) : controlled s x = x.turn (controlTurn s) := rfl

/-- What a triple says of a command holds of what the command makes. -/
theorem Makes.of_does (hn : n < s.voices.length) {c : Cmd α} {v : Voice} {r : Voice × List Int}
    {Q : Voice → α → Voice → Prop} (h : Makes s n c v a r) (hd : DoesV s n any c Q) : Q v a r.1 := by
  obtain ⟨a', m', vs', w', run, q, -⟩ := hd s.sram [] v trivial
  rw [h s.sram []] at run
  injection run with ha ht
  have hw : some r.1 = some w' := by
    have hv := congrArg (fun t : State => t.voices[n]?) ht
    rwa [show (voiceState s n s.sram ([] ++ r.2) r.1).voices[n]? = some r.1 from List.getElem?_set_self hn,
      show (voiceState s n m' vs' w').voices[n]? = some w' from List.getElem?_set_self hn] at hv
  injection hw with hw
  rwa [ha, hw]

/-- The relation of two voices with the same V_CC. -/
def SameCc (v w : Voice) : Prop := w.cc = v.cc

theorem sameCcMoves : EnvMoves SameCc ∧ MenvMoves SameCc where
  left := {
    refl := fun _ => rfl
    trans := fun _ _ _ h h' => Eq.trans h' h
    freed := fun _ => rfl
    amp := fun _ _ _ _ => rfl
    stage := fun _ _ => rfl
    ramp := fun _ _ _ => rfl
    inc := fun _ _ => rfl
    last := fun _ _ _ => rfl }
  right := {
    refl := fun _ => rfl
    trans := fun _ _ _ h h' => Eq.trans h' h
    stage := fun _ _ => rfl
    ramp := fun _ _ _ => rfl
    inc := fun _ _ => rfl
    out := fun _ _ => rfl }

theorem updated_cc (hn : n < s.voices.length) {v : Voice} (h : v.status ≠ .free) : (updated false s v).1.cc = v.cc :=
  ((makes_updateSignal hn false h).of_does hn (does_updateSignal hn false sameCcMoves.1 sameCcMoves.2
    (fun _ _ => rfl) (fun _ _ => rfl) fun _ _ _ => rfl)).1

/-- A control update sets V_CC. -/
theorem controlTurn_cc (hn : n < s.voices.length) {v : Voice} (h : v.status ≠ .free) :
    (controlTurn s v).1.cc = s.controlRatio := by
  have cc := updated_cc hn (s := s) (v := { v with cc := s.controlRatio }) h
  unfold controlTurn unlessFreed
  split
  · exact cc
  · exact cc

theorem controlTurn_withCc (s : State) (v : Voice) (c : Word) : controlTurn s { v with cc := c } = controlTurn s v := rfl

/-! A frame leaves V_CC and V_STATUS. -/

/-- Two voices with the same V_CC and V_STATUS. -/
def SameClock (v w : Voice) : Prop := w.cc = v.cc ∧ w.status = v.status

theorem sameClock_turn (x : Mixing) {f : Voice → Voice × List Int} (hf : SameClock x.voice (f x.voice).1) :
    SameClock x.voice (x.turn f).voice := by
  by_cases hx : Live x
  · rwa [voice_turn hx]
  · rw [dead_turn hx]
    exact ⟨rfl, rfl⟩

theorem SameClock.trans {u v w : Voice} (h : SameClock u v) (h' : SameClock v w) : SameClock u w :=
  ⟨h'.1.trans h.1, h'.2.trans h.2⟩

theorem sameClock_of_eq {u v : Voice} (h : v = u) : SameClock u v := by
  rw [h]
  exact ⟨rfl, rfl⟩

theorem sameClock_sided (s : State) (f side : Nat) (sample level : Int) (x : Mixing) :
    SameClock x.voice (sided s f side sample level x).voice := by
  unfold sided
  dsimp only
  split
  · have kept : ((contributed s f side (x.ram (x.voice.pdly.base + x.voice.pdly.rpt).toNat)
        ((x.noting [sample * level]).accessing (x.voice.pdly.base + x.voice.pdly.rpt).toNat)).storing
        (x.voice.pdly.base + x.voice.pdly.wpt).toNat (narrow (sample * level))).voice = x.voice := by
      rw [voice_storing, voice_contributed, voice_accessing, voice_noting]
    exact (sameClock_of_eq kept).trans (sameClock_turn _ ⟨rfl, rfl⟩)
  · rw [voice_contributed, voice_noting]
    exact ⟨rfl, rfl⟩

theorem sameClock_panned (s : State) (f : Nat) (sample lL lR : Int) (x : Mixing) :
    SameClock x.voice (panned s f sample lL lR x).voice := by
  unfold panned
  have left : SameClock x.voice (if panLaw x.voice = 3 then x else sided s f 0 sample lL x).voice := by
    split
    · exact ⟨rfl, rfl⟩
    · exact sameClock_sided s f 0 sample lL x
  dsimp only
  split
  · exact left
  · exact left.trans (sameClock_sided s f 1 sample _ _)

theorem sameClock_sampled (x : Mixing) : SameClock x.voice (sampled x).2.voice := by
  unfold sampled
  have access : SameClock x.voice (x.accessing x.voice.srcBase.toNat).voice := by
    rw [voice_accessing]
    exact ⟨rfl, rfl⟩
  exact access.trans (sameClock_turn _ ⟨rfl, rfl⟩)

theorem sameClock_framed (s : State) (f : Nat) (x : Mixing) : SameClock x.voice (framed s f x).voice := by
  rw [framed_eq]
  exact (sameClock_sampled x).trans ((sameClock_turn _ ⟨rfl, rfl⟩).trans (sameClock_panned s f _ _ _ _))

theorem sameClock_staticFrames (s : State) (cnt : Nat) : ∀ (f : Nat) (x : Mixing),
    SameClock x.voice (staticFrames s cnt f x).voice := by
  induction cnt with
  | zero => exact fun _ _ => ⟨rfl, rfl⟩
  | succ cnt ih => exact fun f x => (sameClock_framed s f x).trans (ih _ _)

end Sys2Proof.Proofs
end

section
/-! PROOFS. The routines of MIXV: the signal variant and the die ramp (45_mixer.md R611, R630). -/

namespace Sys2Proof.Proofs

open Sys2Proof.Machine Sys2Proof.Claims

-- Proofs elaborated one after another need less memory.
set_option Elab.async false

variable {s : State} {n : Nat} {α β : Type} {x y z : Mixing} {a : α} {b : β}

/-! ### The signal routine -/

theorem dead_controlled (s : State) (hx : ¬Live x) : controlled s x = x := dead_turn hx _

theorem dead_signalFrames (s : State) (hx : ¬Live x) (cnt : Nat) : ∀ f k, signalFrames s cnt f k x = x := by
  induction cnt with
  | zero => exact fun _ _ => dead_turn hx _
  | succ cnt ih =>
    intro f k
    unfold signalFrames
    rw [dead_controlled s hx, dead_framed s hx, ih, ih, ite_self, ite_self]

/-- The frames before V_CC runs out are those of the static routine. -/
theorem signalFrames_block (s : State) (rest j : Nat) : ∀ (f k : Nat) (x : Mixing), k + j ≤ x.voice.cc.toNat →
    signalFrames s (j + rest) f k x = signalFrames s rest (f + j) (k + j) (staticFrames s j f x) := by
  induction j with
  | zero => exact fun f k x _ => by rw [Nat.zero_add]; rfl
  | succ j ih =>
    intro f k x h
    obtain ⟨cc, -⟩ := sameClock_framed s f x
    rw [show j + 1 + rest = (j + rest) + 1 by omega, signalFrames, if_pos (by omega), ih _ _ _ (by rw [cc]; omega),
      staticFrames, show f + 1 + j = f + (j + 1) by omega, show k + 1 + j = k + (j + 1) by omega]

/-- After the frames that V_CC counts it drops by them, and the routine goes on from there. -/
theorem signalFrames_lowered (s : State) (cnt f k : Nat) (hx : Live x) (h : cnt = 0 ∨ x.voice.cc.toNat = k) :
    signalFrames s cnt f k x =
      signalFrames s cnt f 0 (x.turn fun v => ({ v with cc := v.cc - BitVec.ofNat 32 k }, [])) := by
  cases cnt with
  | zero =>
    unfold signalFrames
    rw [turn_turn hx]
    refine turn_congr ?_
    unfold andThen
    rw [show BitVec.ofNat 32 0 = (0 : Word) from rfl]
    simp
  | succ cnt =>
    have hk : x.voice.cc.toNat = k := h.resolve_left (Nat.succ_ne_zero cnt)
    have same : controlled s (x.turn fun v => ({ v with cc := v.cc - BitVec.ofNat 32 k }, [])) = controlled s x := by
      rw [controlled_eq, controlled_eq, turn_turn hx]
      refine turn_congr ?_
      unfold andThen
      dsimp only
      rw [controlTurn_withCc]
      rfl
    have ran : (x.turn fun v => ({ v with cc := v.cc - BitVec.ofNat 32 k }, [])).voice.cc.toNat = 0 := by
      rw [voice_turn hx, ← hk, BitVec.ofNat_toNat, BitVec.setWidth_eq]
      show (x.voice.cc - x.voice.cc).toNat = 0
      rw [BitVec.sub_self]
      rfl
    unfold signalFrames
    rw [if_neg (not_not.2 hk), if_neg (not_not.2 ran), same]

/-- A control update first, where V_CC has run out. -/
theorem signalFrames_update (s : State) (cnt f : Nat) (hc : x.voice.cc = 0)
    (hy : (controlled s x).voice.cc ≠ 0) (hl : (controlled s x).voice.status ≠ .free) :
    signalFrames s (cnt + 1) f 0 x = signalFrames s (cnt + 1) f 0 (controlled s x) := by
  have run : x.voice.cc.toNat = 0 := by rw [hc]; rfl
  have left : (controlled s x).voice.cc.toNat ≠ 0 := fun h => hy (BitVec.eq_of_toNat_eq h)
  rw [signalFrames, if_neg (not_not.2 run), if_neg hl, signalFrames, if_pos left]

/-- A block of frames between control updates, and the rest of the routine. -/
theorem tracks_signalBlock (hn : n < s.voices.length) {fuel left f : Nat} (hx : Live x) (hl : 0 < left)
    (hs : x.voice.status ≠ .free) (hc : x.voice.cc ≠ 0)
    (rest : ∀ (left' f' : Nat) (y : Mixing), left' < left → Live y → y.voice.status ≠ .free →
      Tracks (mixView s n) (signalVariant n fuel left' (BitVec.ofNat 32 f')) y
        (decide ((signalFrames s left' f' 0 y).voice.status = .free)) (signalFrames s left' f' 0 y)) :
    Tracks (mixView s n) (do
        let v ← readVoice n
        let k := min v.cc.toNat left
        mixFrames n k (BitVec.ofNat 32 f)
        writeVoice n fun v => { v with cc := v.cc - BitVec.ofNat 32 k }
        signalVariant n fuel (left - k) (BitVec.ofNat 32 f + BitVec.ofNat 32 k)) x
      (decide ((signalFrames s left f 0 x).voice.status = .free)) (signalFrames s left f 0 x) := by
  refine tracks_readVoice_bind hn ?_
  have pos : x.voice.cc.toNat ≠ 0 := fun h => hc (BitVec.eq_of_toNat_eq h)
  have hk : min x.voice.cc.toNat left = left ∨ min x.voice.cc.toNat left = x.voice.cc.toNat := by omega
  have hk' : 0 < min x.voice.cc.toNat left := by omega
  have hle : min x.voice.cc.toNat left ≤ left := Nat.min_le_right _ _
  have hcc : min x.voice.cc.toNat left ≤ x.voice.cc.toNat := Nat.min_le_left _ _
  dsimp only
  generalize min x.voice.cc.toNat left = k at hk hk' hle hcc ⊢
  have block := signalFrames_block s (left - k) k f 0 x (by omega)
  rw [show k + (left - k) = left by omega, Nat.zero_add] at block
  rw [block]
  obtain ⟨cc, status⟩ := sameClock_staticFrames s k f x
  refine (tracks_mixFrames hn k x f hx).bind (fun h => dead_signalFrames s h _ _ _) fun live => ?_
  rw [signalFrames_lowered s _ _ k live (by rw [cc]; omega)]
  refine Makes.tracks_bind (f := fun v => ({ v with cc := v.cc - BitVec.ofNat 32 k }, []))
    (makes_writeVoice hn _ _) live fun live' => ?_
  rw [← BitVec.ofNat_add]
  refine rest (left - k) (f + k) _ (by omega) live' ?_
  rw [voice_turn live]
  show (staticFrames s k f x).voice.status ≠ .free
  rwa [status]

theorem tracks_signalVariant (hn : n < s.voices.length) (hr : s.controlRatio ≠ 0) (fuel : Nat) :
    ∀ (left f : Nat) (x : Mixing), left ≤ fuel → Live x → x.voice.status ≠ .free →
      Tracks (mixView s n) (signalVariant n fuel left (BitVec.ofNat 32 f)) x
        (decide ((signalFrames s left f 0 x).voice.status = .free)) (signalFrames s left f 0 x) := by
  have nothing : ∀ (f : Nat) (x : Mixing), Live x → x.voice.status ≠ .free →
      Tracks (mixView s n) (pure false) x (decide ((signalFrames s 0 f 0 x).voice.status = .free))
        (signalFrames s 0 f 0 x) := by
    intro f x hx hs
    have still : signalFrames s 0 f 0 x = x := by
      unfold signalFrames
      rw [turn_of_live hx, show BitVec.ofNat 32 0 = (0 : Word) from rfl]
      simp
    rw [still, decide_eq_false hs]
    exact tracks_pure false hx
  induction fuel with
  | zero =>
    intro left f x h hx hs
    rw [Nat.le_zero.1 h]
    exact nothing f x hx hs
  | succ fuel ih =>
    intro left f x h hx hs
    unfold signalVariant
    by_cases hl : left = 0
    · rw [hl]
      exact nothing f x hx hs
    refine Tracks.of_neg hl ?_
    have rest : ∀ (left' f' : Nat) (y : Mixing), left' < left → Live y → y.voice.status ≠ .free → _ :=
      fun left' f' y hlt hy hys => ih left' f' y (by omega) hy hys
    by_cases hc : x.voice.cc = 0
    · have turn := Makes.tracks (makes_controlUpdate hn hs hc) hx
      have after : (x.turn (controlTurn s)).voice = (controlTurn s x.voice).1 := voice_turn hx _
      obtain ⟨l, rfl⟩ := Nat.exists_eq_succ_of_ne_zero hl
      have run : x.voice.cc.toNat = 0 := by rw [hc]; rfl
      by_cases freed : (controlTurn s x.voice).1.status = .free
      · have ends : signalFrames s (l + 1) f 0 x = x.turn (controlTurn s) := by
          rw [signalFrames, if_neg (not_not.2 run), controlled_eq, after, if_pos freed]
        rw [ends, after]
        rw [decide_eq_true freed] at turn ⊢
        exact turn.bind (fun _ => rfl) fun live => tracks_pure true live
      · have cc : (controlled s x).voice.cc ≠ 0 := by
          rw [controlled_eq, after, controlTurn_cc hn hs]
          exact hr
        have status : (controlled s x).voice.status ≠ .free := by
          rw [controlled_eq, after]
          exact freed
        rw [signalFrames_update s l f hc cc status]
        rw [decide_eq_false freed] at turn
        exact turn.bind (fun h => absurd (live_turn hx _) h) fun live =>
          tracks_signalBlock hn live (by omega) status cc rest
    · have skip : Makes s n (controlUpdate n) x.voice false (x.voice, []) := by
        unfold controlUpdate
        exact makes_getState_bind fun m vs => Makes.read hn (Makes.of_neg hc (makes_pure _ _))
      have still : (x.turn fun v => (v, [])) = x := by
        rw [turn_of_live hx]
        simp
      have turn := Makes.tracks (f := fun v => (v, [])) skip hx
      rw [still] at turn
      exact turn.bind (fun h => absurd hx h) fun _ => tracks_signalBlock hn hx (by omega) hs hc rest

/-! ### The die ramp -/

theorem dead_dyingFrames (s : State) (hx : ¬Live x) (iL iR : Int) (cnt : Nat) :
    ∀ f lL lR, dyingFrames s iL iR cnt f lL lR x = x := by
  induction cnt with
  | zero => exact fun _ _ _ => rfl
  | succ cnt ih =>
    intro f lL lR
    unfold dyingFrames
    dsimp only
    rw [dead_noting hx, dead_sampled hx, dead_panned s hx, ih, ite_self]

theorem dieStep_eq (level : Int) (frames : Nat) : dieStep level frames = max 1 (Int.tdiv level frames) := by
  unfold dieStep
  split <;> omega

/-- A level of the die ramp: held at 0 in full stereo (45_mixer.md R630). -/
def dieLevel (law : Nat) (l : Int) : Int := if law = 0 then max (narrow l) 0 else narrow l

theorem dyingFrames_succ (s : State) (iL iR : Int) (cnt f : Nat) (lL lR : Int) (x : Mixing) :
    dyingFrames s iL iR (cnt + 1) f lL lR x =
      (let y := x.noting [lL - iL, lR - iR]
       let left := dieLevel (panLaw x.voice) (lL - iL)
       let right := dieLevel (panLaw x.voice) (lR - iR)
       if (if panLaw x.voice = 3 then right else left) < 0 then y
       else dyingFrames s iL iR cnt (f + 1) left right (panned s f (sampled y).1 left right (sampled y).2)) := rfl

/-- A frame of the die ramp at its levels, and the frames after it. -/
theorem tracks_dieFrame (hn : n < s.voices.length) (hx : Live x) {iL iR left right : Int} {cnt f : Nat}
    (rest : ∀ y, Live y → Tracks (mixView s n) (dieFrames n iL iR cnt (BitVec.ofNat 32 (f + 1)) left right) y ()
      (dyingFrames s iL iR cnt (f + 1) left right y)) :
    Tracks (mixView s n) (do
        let v ← nextSample n
        let y ← voiceFilter n v
        mixSlots n (BitVec.ofNat 32 f) y left right
        dieFrames n iL iR cnt (BitVec.ofNat 32 f + 1) left right) x ()
      (dyingFrames s iL iR cnt (f + 1) left right (panned s f (sampled x).1 left right (sampled x).2)) := by
  rw [← bind_assoc, ofNat_succ]
  refine (tracks_sampled hn hx).bind (fun h => by rw [dead_panned s h, dead_dyingFrames s h]) fun live => ?_
  exact (tracks_mixSlots hn live f _ _ _).bind (fun h => dead_dyingFrames s h _ _ _ _ _ _) fun live => rest _ live

theorem tracks_dieFrames (hn : n < s.voices.length) (iL iR : Int) (cnt : Nat) : ∀ (f : Nat) (lL lR : Int) (x : Mixing),
    Live x → Tracks (mixView s n) (dieFrames n iL iR cnt (BitVec.ofNat 32 f) lL lR) x ()
      (dyingFrames s iL iR cnt f lL lR x) := by
  induction cnt with
  | zero => exact fun f lL lR x hx => tracks_pure () hx
  | succ cnt ih =>
    intro f lL lR x hx
    unfold dieFrames
    rw [dyingFrames_succ]
    dsimp only
    have notes : x.noting [lL - iL, lR - iR] = (x.turn fun w => (w, [lL - iL])).turn fun w => (w, [lR - iR]) := by
      rw [noting_eq_turn hx, turn_turn hx]
      exact turn_congr rfl
    have voice : (x.noting [lL - iL, lR - iR]).voice = x.voice := voice_noting _ _
    have live := live_noting hx [lL - iL, lR - iR]
    refine Makes.tracks_bind (f := fun w => (w, [_])) (makes_sat32 _ _) hx fun live1 => ?_
    refine Makes.tracks_bind (f := fun w => (w, [_])) (makes_sat32 _ _) live1 fun live2 => tracks_readVoice_bind hn ?_
    rw [← notes, voice, ← panLaw_eq]
    by_cases full : panLaw x.voice = 0
    · have held : ∀ l, dieLevel (panLaw x.voice) l = max (narrow l) 0 := fun l => if_pos full
      rw [held, held, if_neg (show ¬(if panLaw x.voice = 3 then max (narrow (lR - iR)) 0
        else max (narrow (lL - iL)) 0) < 0 by split <;> omega)]
      exact Tracks.of_pos full (tracks_dieFrame hn live fun y hy => ih _ _ _ y hy)
    · have free : ∀ l, dieLevel (panLaw x.voice) l = narrow l := fun l => if_neg full
      rw [free, free]
      refine Tracks.of_neg full ?_
      by_cases stop : (if panLaw x.voice = 3 then narrow (lR - iR) else narrow (lL - iL)) < 0
      · simp only [if_pos stop]
        exact tracks_pure () live
      · simp only [if_neg stop]
        exact tracks_dieFrame hn live fun y hy => ih _ _ _ y hy

theorem tracks_dieRamp (hn : n < s.voices.length) (cnt f : Nat) (hx : Live x) :
    Tracks (mixView s n) (dieRamp n cnt (BitVec.ofNat 32 f)) x true (died s cnt f x) := by
  unfold dieRamp died
  refine tracks_getState_bind fun t ht => tracks_readVoice_bind hn ?_
  obtain ⟨-, ⟨m, rfl⟩, -⟩ := ht
  dsimp only
  have notes := (noting_eq_turn hx [x.voice.mix.leftMix.toInt + x.voice.mix.leftOfs.toInt,
      x.voice.mix.rightMix.toInt + x.voice.mix.rightOfs.toInt]).trans
    (turn_turn (f := fun w => (w, [x.voice.mix.leftMix.toInt + x.voice.mix.leftOfs.toInt]))
      (g := fun w => (w, [x.voice.mix.rightMix.toInt + x.voice.mix.rightOfs.toInt])) hx).symm
  rw [notes, ← dieStep_eq, ← dieStep_eq]
  refine Makes.tracks_bind (f := fun w => (w, [_])) (makes_sat32 _ _) hx fun live1 => ?_
  refine Makes.tracks_bind (f := fun w => (w, [_])) (makes_sat32 _ _) live1 fun live2 => ?_
  refine (tracks_dieFrames hn _ _ _ f _ _ _ live2).bind (fun h => dead_turn h _) fun live => ?_
  exact Makes.tracks (f := fun v => (reclaimed v, [])) (makes_freeVoice hn _) live

end Sys2Proof.Proofs
end

section
/-! PROOFS. MIXSMOOTH and MIXV (45_mixer.md section 7): O45 to O50. -/

namespace Sys2Proof.Proofs

open Sys2Proof.Machine Sys2Proof.Claims

-- Proofs elaborated one after another need less memory.
set_option Elab.async false

variable {s : State} {rd rs1 rs2 n : Nat} {v : Voice} {x : Mixing}

/-! ### MIXV -/

theorem live_mixingOf (s : State) (v : Voice) : Live (mixingOf s v) := rfl

theorem shows_mixingOf (hv : s.voices[n]? = some v) : (mixView s n).shows (mixingOf s v) s :=
  ⟨rfl, ⟨s.sram, (State.setVoice_self hv).symm⟩, fun _ => rfl⟩

theorem readVoice_of (hv : s.voices[n]? = some v) : readVoice n s = .ok v s := by
  rw [readVoice_run]
  unfold State.voiceAt
  rw [hv]
  rfl

/-- The routine of a MIXV on a live voice (45_mixer.md R610, R641). -/
def mixBody (n : Nat) (v : Voice) (cnt : Nat) (off : Word) : Cmd Bool :=
  if v.status = .die then dieRamp n cnt off else mixLive n cnt off

/-- MIXV runs its routine and answers whether it freed the voice. -/
theorem exec_mixv (hv : s.voices[n]? = some v) (h : v.status ≠ .free) (hc : s.reg rs2 ≠ 0) :
    exec (.mixv rd rs1 rs2 n) s =
      runCmd (mixBody n v (s.reg rs2).toNat (s.reg rs1) >>= fun died => writeReg rd (bitWord died)) s := by
  have read : readVoice n s = .ok v s := readVoice_of hv
  show runCmd _ s = _
  unfold runCmd
  rw [withVoice_ok hv h, bind_of_ok (readReg_run rs1 s), bind_of_ok (readReg_run rs2 s), bind_of_ok read, if_neg hc]
  rfl

/-- What the routine leaves is what MIXV leaves. -/
theorem mixDone_of_tracks (hv : s.voices[n]? = some v) (h : v.status ≠ .free) (hc : s.reg rs2 ≠ 0)
    (ht : Tracks (mixView s n) (mixBody n v (s.reg rs2).toNat (s.reg rs1)) (mixingOf s v)
      (decide (x.voice.status = .free)) x) : MixDone s rd n x (exec (.mixv rd rs1 rs2 n) s) := by
  have word : bitWord (decide (x.voice.status = .free)) = if x.voice.status = .free then 1 else 0 := by
    unfold bitWord
    simp only [decide_eq_true_eq]
  obtain ⟨done, halts⟩ := ht s (shows_mixingOf hv)
  have size : x.size = s.sramWords := by
    rcases hb : (mixView s n).bad x with _ | w
    · obtain ⟨u, -, ⟨size, -⟩⟩ := done hb
      exact size
    · obtain ⟨u, -, ⟨size, -⟩⟩ := halts w hb
      exact size
  have first : (x.words.find? fun a => decide (s.sramWords ≤ a)) = (mixView s n).bad x := by
    rw [← size]
    rfl
  rw [exec_mixv hv h hc]
  unfold MixDone
  rw [first]
  rcases hb : (mixView s n).bad x with _ | w
  · obtain ⟨u, run, -, ⟨m, rfl⟩, ram⟩ := done hb
    refine ⟨_, runCmd_of_ok ((bind_of_ok run).trans (writeReg_run ..)), ram, ?_⟩
    rw [word]
    rfl
  · obtain ⟨u, run, -, ⟨m, rfl⟩, ram⟩ := halts w hb
    exact ⟨_, runCmd_of_error (bind_of_error run), ram, rfl⟩

/-- A voice that is not dying, from the end of its pre-attack delay on (45_mixer.md R605). -/
theorem tracks_mixLive (hv : s.voices[n]? = some v) {cnt f : Nat} (hd : v.delay.toNat ≤ cnt) {died : Bool}
    (ht : Tracks (mixView s n) (mixRoutine n (cnt - v.delay.toNat) (BitVec.ofNat 32 (f + v.delay.toNat)))
      (mixingOf s { v with delay := 0 }) died x) :
    Tracks (mixView s n) (mixLive n cnt (BitVec.ofNat 32 f)) (mixingOf s v) died x := by
  have hn := lt_of_voice hv
  have waited : (mixingOf s v).turn (fun v => ({ v with delay := 0 }, [])) = mixingOf s { v with delay := 0 } :=
    turn_of_live (live_mixingOf s v) _
  unfold mixLive
  refine tracks_readVoice_bind hn (Tracks.of_neg (Nat.not_lt.2 hd) ?_)
  refine Makes.tracks_bind (f := fun v => ({ v with delay := 0 }, [])) (makes_writeVoice hn _ _)
    (live_mixingOf s v) fun _ => ?_
  rw [waited, ← BitVec.ofNat_add]
  exact ht

theorem mixBody_live (h : v.status ≠ .die) (cnt : Nat) (off : Word) :
    mixBody n v cnt off = mixLive n cnt (BitVec.ofNat 32 off.toNat) := by
  unfold mixBody
  rw [if_neg h, BitVec.ofNat_toNat, BitVec.setWidth_eq]

/-- MIXV by the static routine (45_mixer.md R612). -/
theorem mixDone_static (hv : s.voices[n]? = some v) (h : v.status ≠ .free) (hdie : v.status ≠ .die)
    (hs : v.ctrl.getLsbD 6 = false) (hc : s.reg rs2 ≠ 0) (hd : v.delay.toNat ≤ (s.reg rs2).toNat) :
    MixDone s rd n (staticFrames s ((s.reg rs2).toNat - v.delay.toNat) ((s.reg rs1).toNat + v.delay.toNat)
      (mixingOf s { v with delay := 0 })) (exec (.mixv rd rs1 rs2 n) s) := by
  have hn := lt_of_voice hv
  refine mixDone_of_tracks hv h hc ?_
  rw [mixBody_live hdie]
  refine tracks_mixLive hv hd ?_
  unfold mixRoutine staticVariant
  refine tracks_readVoice_bind hn (Tracks.of_neg (fun hx => Bool.noConfusion (hs.symm.trans hx)) ?_)
  obtain ⟨-, status⟩ := sameClock_staticFrames s ((s.reg rs2).toNat - v.delay.toNat)
    ((s.reg rs1).toNat + v.delay.toNat) (mixingOf s { v with delay := 0 })
  rw [decide_eq_false (by rw [status]; exact h)]
  exact (tracks_mixFrames hn _ _ _ (live_mixingOf _ _)).bind (fun _ => rfl) fun live => tracks_pure false live

/-- MIXV by the signal routine (45_mixer.md R611). -/
theorem mixDone_signal (hv : s.voices[n]? = some v) (h : v.status ≠ .free) (hdie : v.status ≠ .die)
    (hs : v.ctrl.getLsbD 6 = true) (hc : s.reg rs2 ≠ 0) (hr : s.controlRatio ≠ 0)
    (hd : v.delay.toNat ≤ (s.reg rs2).toNat) :
    MixDone s rd n (signalFrames s ((s.reg rs2).toNat - v.delay.toNat) ((s.reg rs1).toNat + v.delay.toNat) 0
      (mixingOf s { v with delay := 0 })) (exec (.mixv rd rs1 rs2 n) s) := by
  have hn := lt_of_voice hv
  refine mixDone_of_tracks hv h hc ?_
  rw [mixBody_live hdie]
  refine tracks_mixLive hv hd ?_
  unfold mixRoutine
  exact tracks_readVoice_bind hn (Tracks.of_pos hs
    (tracks_signalVariant hn hr _ _ _ _ (Nat.le_refl _) (live_mixingOf _ _) h))

/-- MIXV on a dying voice (45_mixer.md R630). -/
theorem mixDone_die (hv : s.voices[n]? = some v) (h : v.status = .die) (hc : s.reg rs2 ≠ 0) :
    MixDone s rd n (died s (s.reg rs2).toNat (s.reg rs1).toNat (mixingOf s v)) (exec (.mixv rd rs1 rs2 n) s) := by
  have hn := lt_of_voice hv
  have ramp := tracks_dieRamp (s := s) hn (s.reg rs2).toNat (s.reg rs1).toNat (live_mixingOf s v)
  rw [BitVec.ofNat_toNat, BitVec.setWidth_eq] at ramp
  refine mixDone_of_tracks hv (by rw [h]; decide) hc ?_
  unfold mixBody
  rw [if_pos h]
  refine ramp.answer fun live => (decide_eq_true ?_).symm
  unfold died at live ⊢
  dsimp only at live ⊢
  rw [voice_turn (live_of_turn live)]
  rfl

/-- Settles O49: the die ramp followed access by access. -/
theorem dieRampResult : Obligations.DieRampResult := fun _ _ _ _ _ _ hv h hc _ => mixDone_die hv h hc

/-- Settles O48: the signal routine followed access by access. -/
theorem mixSignalResult : Obligations.MixSignalResult :=
  fun _ _ _ _ _ _ hv h hdie hs hc _ hr hd => mixDone_signal hv h hdie hs hc hr hd

/-! ### One frame spelled out (O47) -/

/-- A word in sample RAM added to. -/
theorem add_of_lt (hx : Live x) {a : Nat} (ha : a < x.size) (c : Int) :
    x.add a c = { x with
      checks := x.checks ++ [x.ram a + c], words := x.words ++ [a, a], ram := x.ram.put a (narrow (x.ram a + c)) } ∧
    Live (x.add a c) := by
  have live := (live_accessing_iff hx a).2 ha
  have live1 := live_noting live [x.ram a + c]
  have size : ((x.accessing a).noting [x.ram a + c]).size = x.size := by
    rw [noting_of_live live, accessing_of_live hx]
  have live2 := (live_accessing_iff live1 a).2 (by rwa [size])
  have stored := storing_of_live live2 (narrow (x.ram a + c))
  unfold Mixing.add
  rw [stored]
  refine ⟨?_, live2⟩
  rw [accessing_of_live live1, noting_of_live live, accessing_of_live hx]
  dsimp only
  rw [List.append_assoc]
  rfl

/-- The voice sends nowhere. -/
def NoSends (v : Voice) : Prop := v.sendRev = 0 ∧ v.sendCho = 0 ∧ v.sendDly = 0

/-- One side of a frame with no sends and no pan delay. -/
theorem sided_plain (hx : Live x) (hs : NoSends x.voice) {f side : Nat}
    (hd : ¬(panDelayed s x.voice ∧ x.voice.ctrl.getLsbD 3 = decide (side = 1))) (ha : frameAddr s.outBase f side < x.size)
    (sample level : Int) :
    let a := frameAddr s.outBase f side
    let c := sample * level
    sided s f side sample level x = { x with
      checks := x.checks ++ [c, x.ram a + narrow c], words := x.words ++ [a, a]
      ram := x.ram.put a (narrow (x.ram a + narrow c)) } ∧
    Live (sided s f side sample level x) := by
  obtain ⟨rev, cho, dly⟩ := hs
  have noted := noting_of_live hx [sample * level]
  have plain : sided s f side sample level x =
      (x.noting [sample * level]).add (frameAddr s.outBase f side) (narrow (sample * level)) := by
    unfold sided contributed Mixing.send
    dsimp only
    rw [if_neg hd, voice_noting, if_pos rev, if_pos cho, if_pos dly]
  obtain ⟨sum, live⟩ := add_of_lt (live_noting hx [sample * level]) (a := frameAddr s.outBase f side)
    (by rw [noted]; exact ha) (narrow (sample * level))
  dsimp only
  rw [plain]
  refine ⟨?_, live⟩
  rw [sum, noted]
  dsimp only
  rw [List.append_assoc]
  rfl

/-- A sample with no voice filter. -/
theorem sampled_plain (hx : Live x) (hf : x.voice.ctrl.toNat / 2 ^ 4 % 4 = 0 ∨ x.voice.ctrl.toNat / 2 ^ 4 % 4 = 3)
    (ha : x.voice.srcBase.toNat < x.size) :
    sampled x = (x.ram x.voice.srcBase.toNat, { x with
      voice := { x.voice with srcBase := x.voice.srcBase + 1 }, words := x.words ++ [x.voice.srcBase.toNat] }) ∧
    Live (sampled x).2 := by
  have plain : voiceFiltered x.voice (x.ram x.voice.srcBase.toNat) =
      (x.ram x.voice.srcBase.toNat, x.voice.filtHist, []) := by
    unfold voiceFiltered
    rw [if_neg (by omega), if_neg (by omega)]
  have live := (live_accessing_iff hx _).2 ha
  unfold sampled
  dsimp only
  rw [plain]
  refine ⟨?_, live_turn live _⟩
  rw [turn_of_live live, accessing_of_live hx]
  dsimp only
  rw [List.append_nil]

/-- The levels and ramps after a frame, with no filter, no sends and no pan delay. -/
def plainVoice (v : Voice) : Voice := (rampTurn { v with srcBase := v.srcBase + 1 }).1

theorem framed_plain {f : Nat} (hf : v.ctrl.toNat / 2 ^ 4 % 4 = 0 ∨ v.ctrl.toNat / 2 ^ 4 % 4 = 3)
    (ha : v.srcBase.toNat < s.sramWords) :
    framed s f (mixingOf s v) =
      panned s f (ramOf s v.srcBase.toNat) (narrow (v.mix.leftMix.toInt + v.mix.leftOfs.toInt))
        (narrow (v.mix.rightMix.toInt + v.mix.rightOfs.toInt))
        { voice := plainVoice v, ram := ramOf s, checks := (rampTurn v).2, words := [v.srcBase.toNat]
          size := s.sramWords } ∧
    Live { voice := plainVoice v, ram := ramOf s, checks := (rampTurn v).2, words := [v.srcBase.toNat]
           size := s.sramWords } := by
  obtain ⟨sample, live⟩ := sampled_plain (live_mixingOf s v) hf ha
  rw [framed_eq]
  rw [sample] at live ⊢
  dsimp only at live ⊢
  rw [turn_of_live live]
  exact ⟨rfl, live⟩

/-- The words of one plain frame by the pan law, and the numbers narrowed. -/
theorem panned_plain {f : Nat} (hx : Live x) (hs : NoSends x.voice) (hd : panDelayed s x.voice = false)
    (hl : frameAddr s.outBase f 0 < x.size) (hr : frameAddr s.outBase f 1 < x.size)
    (hne : frameAddr s.outBase f 1 ≠ frameAddr s.outBase f 0) (sample lL lR : Int) :
    let law := panLaw x.voice
    let left := frameAddr s.outBase f 0
    let right := frameAddr s.outBase f 1
    let cL := sample * lL
    let cR := sample * if law = 1 then lL else lR
    let y := panned s f sample lL lR x
    Live y ∧ y.size = x.size ∧ y.voice = x.voice ∧
      y.checks = x.checks ++ (if law = 3 then [] else [cL, x.ram left + narrow cL]) ++
        (if law = 2 then [] else [cR, x.ram right + narrow cR]) ∧
      ∀ b, y.ram b =
        if b = left ∧ law ≠ 3 then narrow (x.ram left + narrow cL)
        else if b = right ∧ law ≠ 2 then narrow (x.ram right + narrow cR) else x.ram b := by
  have free : ∀ (w : Voice) side, panDelayed s w = false →
      ¬(panDelayed s w ∧ w.ctrl.getLsbD 3 = decide (side = 1)) := fun w side h hn => Bool.noConfusion (h.symm.trans hn.1)
  dsimp only
  unfold panned
  dsimp only
  generalize (if panLaw x.voice = 1 then lL else lR) = l
  have left := sided_plain hx hs (free _ 0 hd) hl sample lL
  have right := sided_plain hx hs (free _ 1 hd) hr sample l
  dsimp only at left right
  obtain ⟨left, live⟩ := left
  by_cases law3 : panLaw x.voice = 3
  · have law2 : panLaw x.voice ≠ 2 := by omega
    obtain ⟨right, live'⟩ := right
    simp only [if_pos law3, if_neg law2]
    refine ⟨live', by rw [right], by rw [right], by rw [right, List.append_nil], fun b => ?_⟩
    rw [right, if_neg (fun h => h.2 law3)]
    simp only [Ram.put, law2, ne_eq, not_false_eq_true, and_true]
  · simp only [if_neg law3]
    by_cases law2 : panLaw x.voice = 2
    · simp only [if_pos law2]
      refine ⟨live, by rw [left], by rw [left], by rw [left, List.append_nil], fun b => ?_⟩
      rw [left]
      simp only [Ram.put, law2, ne_eq, show ¬(2 : Nat) = 3 by decide, not_false_eq_true, not_true_eq_false, and_true,
        and_false, if_false]
    · simp only [if_neg law2]
      rw [left] at live ⊢
      have both := sided_plain (s := s) live hs (f := f) (side := 1) (free _ 1 hd) hr sample l
      dsimp only at both
      obtain ⟨both, live'⟩ := both
      refine ⟨live', by rw [both], by rw [both], ?_, fun b => ?_⟩
      · rw [both]
        dsimp only
        simp only [Ram.put, if_neg hne, List.append_assoc]
      · rw [both]
        dsimp only
        simp only [Ram.put, if_neg hne, law3, law2, ne_eq, not_false_eq_true, and_true]
        by_cases hb : b = frameAddr s.outBase f 0
        · rw [if_neg (by rw [hb]; exact hne.symm), if_pos hb, if_pos hb]
        · rw [if_neg hb, if_neg hb]

/-- The two numbers of a ramp's step that the frame narrows: a ramp that is over has none. -/
theorem rampNext_word (ofs inc : Word) :
    BitVec.ofInt 32 (narrow (rampNext ofs inc)) =
      if ofs = 0 then 0 else BitVec.ofInt 32 (narrow (ofs.toInt + inc.toInt)) := by
  unfold rampNext
  split <;> rfl

theorem fitAll_append (xs ys : List Int) : fitAll (xs ++ ys) = (fitAll xs && fitAll ys) := List.all_append

theorem fitAll_rampNext (ofs inc : Word) :
    fitAll [rampNext ofs inc] = fitAll (if ofs = 0 then [] else [ofs.toInt + inc.toInt]) := by
  unfold rampNext
  split <;> rfl

theorem ramOf_word {t : State} {a : Nat} {w : Word} (h : ramOf t a = w.toInt) : t.sramWord a = w :=
  BitVec.eq_of_toInt_eq h

/-- Words that are alike have bytes that are alike. -/
theorem sramByte_of_ramOf {t u : State} {b : Nat} (h : ramOf t (b / 4) = ramOf u (b / 4)) : t.sramByte b = u.sramByte b := by
  have word : t.sramWord (b / 4) = u.sramWord (b / 4) := BitVec.eq_of_toInt_eq h
  have split : b = 4 * (b / 4) + b % 4 := by omega
  unfold State.sramByte
  rw [split, memByte_eq_extract _ _ _ (Nat.mod_lt b (by decide)), memByte_eq_extract _ _ _ (Nat.mod_lt b (by decide))]
  exact congrArg _ word

/-- A MIXV that stays in sample RAM completes. -/
theorem mixDone_completes {o : Host.Outcome State Fault Refusal} (h : MixDone s rd n x o) (hx : Live x)
    (size : x.size = s.sramWords) :
    ∃ t, o = .next t ∧ (∀ a, ramOf t a = x.ram a) ∧ t = { s with
      regs := s.regs.setIfInBounds rd (if x.voice.status = .free then 1 else 0), status := satIf x.checks s.status
      sram := t.sram, voices := s.voices.set n x.voice, cmdSeq := s.cmdSeq + 1 } := by
  obtain ⟨t, ho, ram, ht⟩ := h
  have none : (x.words.find? fun a => decide (s.sramWords ≤ a)) = none := by
    rw [← size]
    exact hx
  rw [none] at ht
  exact ⟨t, ho, ram, ht⟩

/-- One plain frame of the static routine. -/
theorem mixDone_plain (hv : s.voices[n]? = some v) (h : v.status ≠ .free) (hdie : v.status ≠ .die)
    (hcnt : s.reg rs2 = 1) (hdelay : v.delay = 0) (hs : v.ctrl.getLsbD 6 = false)
    (hf : v.ctrl.toNat / 2 ^ 4 % 4 = 0 ∨ v.ctrl.toNat / 2 ^ 4 % 4 = 3) (hsrc : v.srcBase.toNat < s.sramWords) :
    MixDone s rd n (panned s (s.reg rs1).toNat (ramOf s v.srcBase.toNat)
      (narrow (v.mix.leftMix.toInt + v.mix.leftOfs.toInt)) (narrow (v.mix.rightMix.toInt + v.mix.rightOfs.toInt))
      { voice := plainVoice v, ram := ramOf s, checks := (rampTurn v).2, words := [v.srcBase.toNat]
        size := s.sramWords }) (exec (.mixv rd rs1 rs2 n) s) := by
  have now : { v with delay := 0 } = v := by rw [← hdelay]
  have done := mixDone_static (rd := rd) (rs1 := rs1) hv h hdie hs (by rw [hcnt]; decide) (by rw [hdelay]; exact Nat.zero_le _)
  rw [now, hdelay, hcnt] at done
  rw [← (framed_plain hf hsrc).1]
  exact done

theorem plainVoice_eq (v : Voice) :
    plainVoice v = { v with
      srcBase := v.srcBase + 1
      mix := { v.mix with
        oldLeft := BitVec.ofInt 32 (narrow (v.mix.leftMix.toInt + v.mix.leftOfs.toInt))
        oldRight := BitVec.ofInt 32 (narrow (v.mix.rightMix.toInt + v.mix.rightOfs.toInt))
        leftOfs := if v.mix.leftOfs = 0 then 0
          else BitVec.ofInt 32 (narrow (v.mix.leftOfs.toInt + v.mix.leftInc.toInt))
        rightOfs := if v.mix.rightOfs = 0 then 0
          else BitVec.ofInt 32 (narrow (v.mix.rightOfs.toInt + v.mix.rightInc.toInt)) } } := by
  rw [← rampNext_word, ← rampNext_word]
  rfl

/-- The ramp steps of a frame set SAT as the steps of the ramps that are not over. -/
theorem satIf_ramps (v : Voice) (xs ys : List Int) (st : Word) :
    satIf ((rampTurn v).2 ++ xs ++ ys) st =
      satIf ([v.mix.leftMix.toInt + v.mix.leftOfs.toInt, v.mix.rightMix.toInt + v.mix.rightOfs.toInt] ++
        (if v.mix.leftOfs = 0 then [] else [v.mix.leftOfs.toInt + v.mix.leftInc.toInt]) ++
        (if v.mix.rightOfs = 0 then [] else [v.mix.rightOfs.toInt + v.mix.rightInc.toInt]) ++ xs ++ ys) st := by
  have ramps : (rampTurn v).2 = [v.mix.leftMix.toInt + v.mix.leftOfs.toInt, v.mix.rightMix.toInt + v.mix.rightOfs.toInt] ++
      [rampNext v.mix.leftOfs v.mix.leftInc] ++ [rampNext v.mix.rightOfs v.mix.rightInc] := rfl
  unfold satIf
  rw [ramps]
  simp only [fitAll_append, fitAll_rampNext]

/-- Settles O47: the static routine followed access by access; one plain frame computed from it. -/
theorem mixStaticResult : Obligations.MixStaticResult := by
  refine ⟨fun _ _ _ _ _ _ hv h hdie hs hc _ hd => mixDone_static hv h hdie hs hc hd, ?_⟩
  intro s v rd rs1 rs2 n
  dsimp only
  intro hv h hdie hcnt hdelay hs hf rev cho dly hpan hwords hsrc hframes
  have done := mixDone_plain (rd := rd) (rs1 := rs1) hv h hdie hcnt hdelay hs hf hsrc
  have live := (framed_plain (s := s) (f := (s.reg rs1).toNat) hf hsrc).2
  have range : s.outBase.toNat + 2 * ((s.reg rs1).toNat + 1) ≤ s.sramWords := of_decide_eq_true hframes
  have left : frameAddr s.outBase (s.reg rs1).toNat 0 = s.outBase.toNat + 2 * (s.reg rs1).toNat :=
    Nat.mod_eq_of_lt (by omega)
  have right : frameAddr s.outBase (s.reg rs1).toNat 1 = s.outBase.toNat + 2 * (s.reg rs1).toNat + 1 :=
    Nat.mod_eq_of_lt (by omega)
  have undelayed : panDelayed s (plainVoice v) = false := decide_eq_false hpan
  have frame := panned_plain live ⟨rev, cho, dly⟩ undelayed (by rw [left]; show _ < s.sramWords; omega)
    (by rw [right]; show _ < s.sramWords; omega) (by rw [left, right]; omega) (ramOf s v.srcBase.toNat)
    (narrow (v.mix.leftMix.toInt + v.mix.leftOfs.toInt)) (narrow (v.mix.rightMix.toInt + v.mix.rightOfs.toInt))
  rw [left, right] at frame
  dsimp only at frame
  rw [show panLaw (plainVoice v) = v.ctrl.toNat / 2 % 4 from rfl] at frame
  obtain ⟨live', size, voice, checks, ram⟩ := frame
  generalize panned s (s.reg rs1).toNat (ramOf s v.srcBase.toNat)
    (narrow (v.mix.leftMix.toInt + v.mix.leftOfs.toInt)) (narrow (v.mix.rightMix.toInt + v.mix.rightOfs.toInt))
    { voice := plainVoice v, ram := ramOf s, checks := (rampTurn v).2, words := [v.srcBase.toNat]
      size := s.sramWords } = y at done live' size voice checks ram
  obtain ⟨t, ho, mem, ht⟩ := mixDone_completes done live' size
  have free : (plainVoice v).status ≠ .free := h
  rw [voice, plainVoice_eq, if_neg (by rw [← plainVoice_eq]; exact free), checks] at ht
  refine ⟨t, ho, ?_, ?_, ?_, fun b hb => ?_⟩
  · rw [satIf_ramps] at ht
    exact ht
  · refine ramOf_word ((mem _).trans ((ram _).trans ?_))
    by_cases law : v.ctrl.toNat / 2 % 4 = 3
    · rw [if_neg (fun hl => hl.2 law), if_neg (fun hr => by omega), if_pos law]
      rfl
    · rw [if_pos ⟨rfl, law⟩, if_neg law]
      exact (wordOf_narrow_toInt _).symm
  · refine ramOf_word ((mem _).trans ((ram _).trans ?_))
    rw [if_neg (fun hl => by omega)]
    by_cases law : v.ctrl.toNat / 2 % 4 = 2
    · rw [if_neg (fun hr => hr.2 law), if_pos law]
      rfl
    · rw [if_pos ⟨rfl, law⟩, if_neg law]
      exact (wordOf_narrow_toInt _).symm
  · refine sramByte_of_ramOf ((mem _).trans ((ram _).trans ?_))
    rw [if_neg (by omega), if_neg (by omega)]

/-! ### MIXSMOOTH (O45) -/

/-- A ramp of `m` frames whose offset goes from `-q (m - 1)` to 0 by steps of `q`, in the direction of `d`. -/
theorem ramp_reaches {d q m j : Int} (hd : d ≠ 0) (hq : 1 ≤ q) (hj : 0 ≤ j) (hm : j < m) :
    let ofs := Int.sign d * (q * (1 - m))
    let now := Int.sign d * (q * (1 - m + j))
    (now = 0 ↔ j = m - 1) ∧ now.natAbs ≤ ofs.natAbs ∧ 0 ≤ -now * Int.sign d := by
  have zero : q * (1 - m + j) = 0 ↔ j = m - 1 := by
    rw [Int.mul_eq_zero]
    omega
  have neg : q * (1 - m + j) ≤ 0 := Int.mul_nonpos_of_nonneg_of_nonpos (by omega) (by omega)
  have far : q * (1 - m) ≤ q * (1 - m + j) := Int.mul_le_mul_of_nonneg_left (by omega) (by omega)
  dsimp only
  generalize q * (1 - m + j) = now at zero neg far ⊢
  generalize q * (1 - m) = ofs at far ⊢
  rcases Int.lt_or_gt_of_ne hd with hs | hs
  · rw [Int.sign_eq_neg_one_of_neg hs]
    omega
  · rw [Int.sign_eq_one_of_pos hs]
    omega

theorem sign_mul_natAbs (d : Int) : Int.sign d * d.natAbs = d := Int.sign_mul_natAbs d

/-- The quotient of a jump by the window, by its sign and size. -/
theorem tdiv_eq_sign_mul (d w : Int) : Int.tdiv d w = Int.sign d * ((d.natAbs : Int) / w) := by
  rcases Int.lt_trichotomy d 0 with hd | hd | hd
  · rw [Int.sign_eq_neg_one_of_neg hd, Int.ofNat_natAbs_of_nonpos (by omega), ← Int.neg_neg d, Int.neg_tdiv,
      tdiv_of_nonneg (by omega), Int.neg_neg, Int.neg_one_mul]
  · rw [hd]
    simp
  · rw [Int.sign_eq_one_of_pos hd, Int.natAbs_of_nonneg (by omega), tdiv_of_nonneg (by omega), Int.one_mul]

/-- The smoothing property (45_mixer.md R616). -/
theorem smoothRamp_reaches {d w j : Int} (hw : 1 ≤ w) (hd : d ≠ 0) (hj : 0 ≤ j)
    (hm : j < if w < d.natAbs then w else (d.natAbs : Int)) :
    let inc := (smoothRamp d w).1
    let ofs := (smoothRamp d w).2
    let frames : Int := if w < d.natAbs then w else d.natAbs
    (ofs + j * inc = 0 ↔ j = frames - 1) ∧
      (ofs + j * inc).natAbs ≤ ofs.natAbs ∧ 0 ≤ -(ofs + j * inc) * Int.sign d := by
  dsimp only
  unfold smoothRamp
  by_cases big : w < d.natAbs
  · rw [if_pos big] at hm
    simp only [if_pos big, gt_iff_lt]
    have q : 1 ≤ (d.natAbs : Int) / w := Int.le_ediv_of_mul_le (by omega) (by omega)
    have ramp := ramp_reaches hd q hj hm
    rw [tdiv_eq_sign_mul]
    dsimp only at ramp
    have ofs : Int.sign d * ((d.natAbs : Int) / w) * (1 - w) = Int.sign d * ((d.natAbs : Int) / w * (1 - w)) :=
      Int.mul_assoc ..
    have now : Int.sign d * ((d.natAbs : Int) / w) * (1 - w) + j * (Int.sign d * ((d.natAbs : Int) / w)) =
        Int.sign d * ((d.natAbs : Int) / w * (1 - w + j)) := by ring
    rw [now, ofs]
    exact ramp
  · rw [if_neg big] at hm
    simp only [if_neg big, gt_iff_lt, if_pos hd]
    have ramp := ramp_reaches hd (Int.le_refl 1) hj hm
    dsimp only at ramp
    rw [Int.one_mul, Int.one_mul] at ramp
    have whole := sign_mul_natAbs d
    have ofs : Int.sign d - d = Int.sign d * (1 - d.natAbs) := by
      rw [Int.mul_sub, whole, Int.mul_one]
    have now : Int.sign d - d + j * Int.sign d = Int.sign d * (1 - d.natAbs + j) := by
      rw [ofs]
      ring
    rw [now, ofs]
    exact ramp

/-- Settles O45: MIXSMOOTH leaves the smoothed voice; a ramp ends at the window's last frame. -/
theorem mixSmoothResult : Obligations.MixSmoothResult := by
  refine ⟨fun s v n hv h => ?_, fun d w hw hd => ?_⟩
  · exact runCmd_of_makes hv h (makes_mixSmooth (lt_of_voice hv) v)
  · exact fun j hj hm => smoothRamp_reaches hw hd hj hm

/-! ### MIXV of no frames, and inside the pre-attack delay (O46) -/

/-- Settles O46: no frames, and fewer frames than the pre-attack delay. -/
theorem preAttackDelayWaits : Obligations.PreAttackDelayWaits := by
  refine ⟨fun s v rd rs1 rs2 n hv h hc => ?_, fun s v rd rs1 rs2 n hv h hdie hc hd => ?_⟩
  · have read : readVoice n s = .ok v s := readVoice_of hv
    refine runCmd_of_ok (t := State.withReg rd 0 s) ((withVoice_ok hv h).trans ?_)
    rw [bind_of_ok (readReg_run rs1 s), bind_of_ok (readReg_run rs2 s), bind_of_ok read, if_pos hc]
    rfl
  · have hn := lt_of_voice hv
    have lowered : BitVec.ofNat 32 (v.delay.toNat - (s.reg rs2).toNat) = v.delay - s.reg rs2 := by
      apply BitVec.eq_of_toNat_eq
      rw [BitVec.toNat_ofNat, BitVec.toNat_sub_of_le (Nat.le_of_lt hd), Nat.mod_eq_of_lt (by have := v.delay.isLt; omega)]
    have wait : Makes s n (mixBody n v (s.reg rs2).toNat (s.reg rs1)) v false
        ({ v with delay := v.delay - s.reg rs2 }, []) := by
      rw [mixBody_live hdie, ← lowered]
      unfold mixLive
      exact Makes.read hn (Makes.of_pos hd (Makes.write hn _ (makes_pure false _)))
    rw [exec_mixv hv h hc]
    have run : (mixBody n v (s.reg rs2).toNat (s.reg rs1) >>= fun died => writeReg rd (bitWord died)) s =
        .ok () (State.withReg rd (bitWord false)
          (voiceState s n s.sram [] { v with delay := v.delay - s.reg rs2 })) :=
      (bind_of_ok (wait.run hv)).trans (writeReg_run ..)
    exact runCmd_of_ok run

/-! ### MIXV in range (O50) -/

/-- Settles O50: each routine is a triple over the words that MIXV may store to. -/
theorem mixCompletes : Obligations.MixCompletes := by
  intro s v rd rs1 rs2 n hv h hc hw hr
  have hn := lt_of_voice hv
  obtain ⟨-, hout, -, -, -, hpan⟩ := mixInRange_iff.1 hr
  have range : s.outBase.toNat + 2 * ((s.reg rs1).toNat + (s.reg rs2).toNat) ≤ s.sramWords := of_decide_eq_true hout
  have start : MixAt s v 0 v := ⟨rfl, rfl, rfl, rfl, rfl, rfl, rfl, fun hp => (hpan hp).2⟩
  have body : ∃ died m vs w, mixBody n v (s.reg rs2).toNat (s.reg rs1) s = .ok died (voiceState s n m vs w) ∧
      (w.status = if died then .free else v.status) ∧ (v.status = .die → w.status = .free ∧ w.died = true) ∧
      Outside (mixWord s v (s.reg rs1).toNat (s.reg rs2).toNat) s.sram m := by
    unfold mixBody
    by_cases hdie : v.status = .die
    · obtain ⟨died, m, vs, w, run, ⟨rfl, status, flag⟩, outside⟩ := (does_dieRamp hn hw hr
        (count := (s.reg rs2).toNat) (f := s.reg rs1) (Nat.le_refl _) (fun _ => ⟨Nat.le_refl _, Nat.le_refl _⟩)
        (by omega)).at_state hv start
      rw [if_pos hdie]
      exact ⟨true, m, vs, w, run, status, fun _ => ⟨status, flag⟩, outside⟩
    · obtain ⟨died, m, vs, w, run, q, outside⟩ := (does_mixLive hn hw hr (f := s.reg rs1) rfl (by omega)).at_state hv start
      rw [if_neg hdie]
      refine ⟨died, m, vs, w, run, ?_, fun hd => absurd hd hdie, outside⟩
      exact q.2
  obtain ⟨died, m, vs, w, run, status, die, outside⟩ := body
  have word : bitWord died = if w.status = .free then 1 else 0 := by
    rw [status]
    cases died
    · exact (if_neg h).symm
    · exact (if_pos rfl).symm
  rw [exec_mixv hv h hc]
  refine ⟨_, w, runCmd_of_ok ((bind_of_ok run).trans (writeReg_run ..)), ?_, voiceState_status s n m vs w, die,
    fun b hb => outside b hb⟩
  rw [word]
  rfl

end Sys2Proof.Proofs
end

section
/-! PROOFS. What FXINIT builds from, and what FXFREE and FXINIT leave of a slot (46_effects.md R701 to R712, R730, R750,
R755, R770, R772). -/

namespace Sys2Proof.Proofs

open Sys2Proof.Machine Sys2Proof.Claims

-- Proofs elaborated one after another need less memory.
set_option Elab.async false

variable {s : State} {x : Slot} {i : Nat}

/-! ### Engines by their tags (R701) -/

theorem hasEngine_iff (x : Slot) :
    hasEngine x = true ↔ x.fxType = 1 ∨ x.fxType = 2 ∨ x.fxType = 3 ∨ x.fxType = 4 := by
  unfold hasEngine
  rw [decide_eq_true_eq]
  constructor
  · intro h
    have : x.fxType.toNat = 1 ∨ x.fxType.toNat = 2 ∨ x.fxType.toNat = 3 ∨ x.fxType.toNat = 4 := by omega
    rcases this with e | e | e | e
    · exact .inl (BitVec.eq_of_toNat_eq e)
    · exact .inr (.inl (BitVec.eq_of_toNat_eq e))
    · exact .inr (.inr (.inl (BitVec.eq_of_toNat_eq e)))
    · exact .inr (.inr (.inr (BitVec.eq_of_toNat_eq e)))
  · rintro (e | e | e | e) <;> rw [e] <;> decide

variable (rate : Nat)

theorem build_freeverb (h : x.fxType = 1) : engineValid x = freeverbValid x.params ∧
    engineLengths rate x = freeverbLengths rate x.params ∧
    ∀ ls, engineFresh x ls = .freeverb (freeverbFresh x.params ls) := by
  unfold engineValid engineLengths engineFresh
  rw [h]
  exact ⟨rfl, rfl, fun _ => rfl⟩

theorem build_plate (h : x.fxType = 2) : engineValid x = plateValid x.params ∧
    engineLengths rate x = plateLengths rate x.params ∧ ∀ ls, engineFresh x ls = .plate (plateFresh x.params ls) := by
  unfold engineValid engineLengths engineFresh
  rw [h]
  exact ⟨rfl, rfl, fun _ => rfl⟩

theorem build_chorus (h : x.fxType = 3) : engineValid x = chorusValid x.params ∧
    engineLengths rate x = [chorusLength x.params, chorusLength x.params] ∧
    ∀ ls, engineFresh x ls = .chorus (chorusFresh x.params ls) := by
  unfold engineValid engineLengths engineFresh
  rw [h]
  exact ⟨rfl, rfl, fun _ => rfl⟩

theorem build_hexa (h : x.fxType = 4) : engineValid x = hexaValid x.params ∧
    engineLengths rate x = [(hexaLength x.params).toNat] ∧
    ∀ ls, engineFresh x ls = .hexa (hexaFresh x.params ls) := by
  unfold engineValid engineLengths engineFresh
  rw [h]
  exact ⟨rfl, rfl, fun _ => rfl⟩

/-! ### Lengths (R711, R730, R734, R750, R755) -/

theorem freeverb_reference {p : FxParams} (scale : paramU p 7 = 65536) (spread : paramU p 8 = 23) :
    freeverbLengths 44100 p =
      [1117, 1193, 1277, 1361, 1423, 1493, 1559, 1619, 1151, 1213, 1301, 1381, 1447, 1523, 1583, 1657,
        557, 443, 347, 227, 587, 467, 367, 251] := by
  unfold freeverbLengths
  rw [scale, spread]
  decide +kernel

theorem plate_reference {p : FxParams} (pre : paramU p 9 = 0) (excursion : paramU p 11 = 1048576) :
    plateLengths 44100 p = [210, 158, 561, 410, 1020, 6598, 2667, 5512, 1370, 6248, 3935, 4686] := by
  unfold plateLengths plateTankLengths plateModLength plateExcursion
  rw [pre, excursion]
  decide +kernel

/-- The deepest tap of the hexa chorus is one of the six, and none is deeper. -/
theorem hexaDeepest_spec (p : FxParams) : (∃ i < 6, hexaDeepest p = hexaDelay p i + hexaDepth p i) ∧
    ∀ j < 6, hexaDelay p j + hexaDepth p j ≤ hexaDeepest p := by
  unfold hexaDeepest
  have spec : ∀ (tap : Nat → Int) (n : Nat),
      (∃ i ≤ n, (List.range n).foldl (fun m i => max m (tap i)) (tap 0) = tap i ∧ (i = 0 ∨ i < n)) ∧
        ∀ j < n, tap j ≤ (List.range n).foldl (fun m i => max m (tap i)) (tap 0) := by
    intro tap n
    induction n with
    | zero => exact ⟨⟨0, Nat.le_refl _, rfl, .inl rfl⟩, fun j hj => absurd hj (Nat.not_lt_zero j)⟩
    | succ n ih =>
      obtain ⟨⟨k, hk, e, hk'⟩, le⟩ := ih
      simp only [List.range_succ, List.foldl_append, List.foldl_cons, List.foldl_nil]
      refine ⟨?_, fun j hj => ?_⟩
      · rcases le_total (tap n) ((List.range n).foldl (fun m i => max m (tap i)) (tap 0)) with h | h
        · exact ⟨k, by omega, by rw [max_eq_left h, e], by omega⟩
        · exact ⟨n, by omega, by rw [max_eq_right h], by omega⟩
      · rcases Nat.lt_succ_iff_lt_or_eq.1 hj with h | rfl
        · exact (le j h).trans (le_max_left _ _)
        · exact le_max_right _ _
  obtain ⟨⟨k, -, e, hk⟩, le⟩ := spec (fun i => hexaDelay p i + hexaDepth p i) 6
  exact ⟨⟨k, by omega, e⟩, le⟩

/-- Settles O54. -/
theorem engineBuildRules : Obligations.EngineBuildRules := by
  refine ⟨hasEngine_iff, slotAllocates_iff, fun x rate => ⟨fun h => ?_, fun h => ?_, fun h => ?_, fun h => ?_⟩, fun p =>
    ⟨fun scale spread => ?_, fun pre excursion => ?_⟩⟩
  · obtain ⟨valid, lengths, -⟩ := build_freeverb rate h
    rw [valid, lengths]
    exact ⟨decide_eq_true_iff, rfl⟩
  · obtain ⟨valid, lengths, -⟩ := build_plate rate h
    rw [valid, lengths]
    refine ⟨decide_eq_true_iff, ?_⟩
    show (if 0 < paramU x.params 9 then _ else _) ++ plateTankLengths rate x.params =
      (if paramU x.params 9 = 0 then _ else _) ++ _
    congr 1
    by_cases pre : paramU x.params 9 = 0
    · rw [if_pos pre, if_neg (by omega)]
    · rw [if_neg pre, if_pos (by omega)]
      rfl
  · obtain ⟨valid, lengths, -⟩ := build_chorus rate h
    rw [valid, lengths]
    exact ⟨decide_eq_true_iff, rfl⟩
  · obtain ⟨valid, lengths, -⟩ := build_hexa rate h
    obtain ⟨⟨i, hi, e⟩, le⟩ := hexaDeepest_spec x.params
    have length : hexaLength x.params = (hexaDelay x.params i + hexaDepth x.params i) / 2 ^ 16 + 2 :=
      congrArg (fun d => d / 2 ^ 16 + 2) e
    have longest : ∀ j < 6, (hexaDelay x.params j + hexaDepth x.params j) / 2 ^ 16 + 2 ≤ hexaLength x.params :=
      fun j hj => Int.add_le_add_right (Int.ediv_le_ediv (by decide) (le j hj)) 2
    rw [valid, lengths]
    refine ⟨?_, i, hi, fun j hj => (longest j hj).trans (le_of_eq length), congrArg (fun l => [Int.toNat l]) length⟩
    unfold hexaValid
    simp only [decide_eq_true_eq, List.mem_range]
    constructor
    · rintro ⟨low, high, delay, depth, short⟩
      exact ⟨low, high, fun j hj => ⟨delay j hj, depth j hj, (longest j hj).trans short⟩⟩
    · rintro ⟨low, high, all⟩
      exact ⟨low, high, fun j hj => (all j hj).1, fun j hj => (all j hj).2.1, length ▸ (all i hi).2.2⟩
  · exact ⟨freeverb_reference scale spread, by rw [freeverb_reference scale spread]; decide +kernel⟩
  · exact ⟨plate_reference pre excursion, by rw [plate_reference pre excursion]; decide +kernel⟩

/-! ### Freed and not built (R706, R707, R772) -/

theorem modify_slots (hx : s.slots[i]? = some x) (f : Slot → Slot) : s.slots.modify i f = s.slots.set i (f x) := by
  rw [List.modify_eq_set_getElem?, hx]
  rfl

theorem slot_lt (hx : s.slots[i]? = some x) : i < s.slots.length := (List.getElem?_eq_some_iff.1 hx).1

theorem slotAt_of (hx : s.slots[i]? = some x) : s.slotAt i = x := by
  unfold State.slotAt
  rw [hx]
  rfl

theorem buildSlot_without (hx : s.slots[i]? = some x) (he : hasEngine x = false) :
    buildSlot i s = .ok () { s with slots := s.slots.set i { x with used := 0, record := .empty } } := by
  unfold buildSlot
  rw [bind_of_ok (update_run _ _), bind_of_ok (getState_run _), modify_slots hx]
  have here : State.slotAt { s with slots := s.slots.set i (discardSlot x) } i = discardSlot x :=
    slotAt_of (List.getElem?_set_self (slot_lt hx))
  rw [here, show hasEngine (discardSlot x) = false from he]
  rfl

/-- Settles O51. -/
theorem effectFreedOrNotBuilt : Obligations.EffectFreedOrNotBuilt := by
  intro s x i hx
  have hi := slot_lt hx
  refine ⟨?_, fun he => ?_, fun he hv => ?_⟩
  · refine (runCmd_of_ok ((withSlot_ok hi).trans (update_run _ _))).trans ?_
    rw [modify_slots hx]
    rfl
  · exact runCmd_of_ok ((withSlot_ok hi).trans (buildSlot_without hx he))
  · exact runCmd_of_ok ((withSlot_ok hi).trans ((buildSlot_run s x i hx he).trans (if_pos hv)))

/-! ### Built (R704, R705) -/

theorem layLines_cursor (lens : List Nat) : ∀ base k l, (layLines base lens)[k]? = some l →
    l.wpt = 0 ∧ l.base = BitVec.ofNat 32 (base + (lens.take k).sum) := by
  induction lens with
  | nil => exact fun base k l h => absurd h (by simp [layLines])
  | cons n rest ih =>
    intro base k l h
    cases k with
    | zero =>
      injection h with h
      rw [← h]
      exact ⟨rfl, rfl⟩
    | succ k =>
      obtain ⟨cursor, place⟩ := ih (base + n) k l h
      rw [List.take_succ_cons, List.sum_cons, ← Nat.add_assoc]
      exact ⟨cursor, place⟩

theorem state_engineFresh (x : Slot) (ls : List Line) : (engineFresh x ls).state = 1 := by
  unfold engineFresh
  split <;> rfl

theorem combs_empty (ls : List Line) : ∀ c ∈ ls.map fun l => ({ line := l, st := 0 } : CombLine), c.st = 0 := by
  intro c hc
  obtain ⟨l, -, rfl⟩ := List.mem_map.1 hc
  rfl

/-- Settles O52. -/
theorem effectBuilt : Obligations.EffectBuilt := by
  intro s x i hx he hv hw ha lengths total
  obtain ⟨bounds, -, fits⟩ := (slotAllocates_iff s x lengths).1 ha
  have lines : recordLines (engineFresh x (layLines x.base.toNat lengths)) = layLines x.base.toNat lengths :=
    recordLines_engineFresh _ x _ he
  obtain ⟨lens, inside⟩ := layLines_spec s.sramWords x.base.toNat total hw fits lengths x.base.toNat (Nat.le_refl _)
    (Nat.le_refl _) bounds
  have count := layLines_length lengths x.base.toNat
  refine ⟨_, engineFresh x (layLines x.base.toNat lengths), runCmd_of_ok ((withSlot_ok (slot_lt hx)).trans
    ((buildSlot_run s x i hx he).trans ((if_neg (by rw [hv]; decide)).trans (if_pos ha)))), rfl,
    state_engineFresh _ _, by rw [lines, lens], ?_, by rwa [lines], fun h => ?_, fun h => ?_, fun h => ?_, fun h => ?_,
    fun b => memByte_memZeroWords _ _ _ _ _⟩
  · intro k l hl
    rw [lines] at hl
    obtain ⟨cursor, place⟩ := layLines_cursor lengths x.base.toNat k l hl
    refine ⟨cursor, ?_⟩
    have le : (lengths.take k).sum ≤ total := (List.take_sublist k lengths).sum_le_sum fun _ _ => Nat.zero_le _
    rw [place, BitVec.toNat_ofNat]
    exact Nat.mod_eq_of_lt (by omega)
  · obtain ⟨-, e, fresh⟩ := build_freeverb s.sampleRate.toNat h
    have many : (layLines x.base.toNat lengths).length = 24 := count.trans (congrArg List.length e)
    refine ⟨_, fresh _, rfl, ?_, ?_, ?_, ?_, fun c hc => ?_⟩
    · simp [freeverbFresh, many]
    · simp [freeverbFresh, many]
    · simp [freeverbFresh, many]
    · simp [freeverbFresh, many]
    · rcases List.mem_append.1 hc with hc | hc
      · exact combs_empty _ c hc
      · exact combs_empty _ c hc
  · obtain ⟨-, e, fresh⟩ := build_plate s.sampleRate.toNat h
    refine ⟨_, fresh _, rfl, ?_, rfl, rfl, rfl, rfl, rfl, rfl, rfl⟩
    have pre : x.params[9] = 0 ↔ paramU x.params 9 = 0 :=
      ⟨fun h => congrArg BitVec.toNat h, fun h => BitVec.eq_of_toNat_eq h⟩
    rw [pre]
    show (if 0 < paramU x.params 9 then (layLines x.base.toNat lengths).head? else none) = none ↔ _
    by_cases h0 : paramU x.params 9 = 0
    · rw [if_neg (by omega)]
      exact ⟨fun _ => h0, fun _ => rfl⟩
    · rw [if_pos (by omega)]
      refine ⟨fun hn => absurd (List.head?_eq_none_iff.1 hn) ?_, fun hz => absurd hz h0⟩
      intro empty
      have none : lengths.length = 0 := by rw [← count, empty]; rfl
      rw [show lengths = plateLengths s.sampleRate.toNat x.params from e, plateLengths] at none
      simp [plateTankLengths] at none
  · obtain ⟨-, -, fresh⟩ := build_chorus s.sampleRate.toNat h
    exact ⟨_, fresh _, rfl, rfl, rfl, rfl⟩
  · obtain ⟨-, -, fresh⟩ := build_hexa s.sampleRate.toNat h
    exact ⟨_, fresh _, rfl, rfl, rfl⟩

/-! ### Not allocated (R353, R705, R708) -/

theorem buildSlot_fails (hx : s.slots[i]? = some x) (he : hasEngine x = true) (hv : engineValid x = true)
    (ha : slotAllocates s x (engineLengths s.sampleRate.toNat x) = false) :
    let failed : Fault := .alloc (totalInfo (engineLengths s.sampleRate.toNat x).sum)
    buildSlot i s =
      .error failed (takeFatal failed { s with slots := s.slots.set i { x with used := 0, record := .empty } }) :=
  (buildSlot_run s x i hx he).trans ((if_neg (by rw [hv]; decide)).trans (if_neg (by rw [ha]; decide)))

theorem lazyInit_builds (hx : s.slots[i]? = some x) (hn : needsInit x = true) : lazyInit i s = buildSlot i s := by
  unfold needsInit at hn
  rw [Bool.and_eq_true, beq_iff_eq] at hn
  unfold lazyInit
  rw [bind_of_ok (getState_run s), slotAt_of hx, if_pos hn]

theorem lazyInit_keeps (hx : s.slots[i]? = some x) (hn : needsInit x = false) : lazyInit i s = .ok () s := by
  have h : ¬(x.record = .empty ∧ hasEngine x = true) := fun h => by
    unfold needsInit at hn
    rw [h.1, h.2] at hn
    exact absurd hn (by decide)
  unfold lazyInit
  rw [bind_of_ok (getState_run s), slotAt_of hx, if_neg h]
  rfl

/-- The frames of an FXPROC, or nothing on a slot that makes no access (R709). -/
def procFrames (i cnt : Nat) (f : Word) : Cmd Unit := do
  let t ← getState
  if passThrough (t.slotAt i) = true ∧ (t.slotAt i).bus = .insert then pure () else processFrames i cnt f

/-- FXPROC builds an empty slot and processes its frames (R771). -/
theorem exec_fxproc (hx : s.slots[i]? = some x) (rs1 rs2 : Nat) : exec (.fxproc rs1 rs2 i) s =
    runCmd (lazyInit i >>= fun _ => procFrames i (s.reg rs2).toNat (s.reg rs1)) s := by
  show runCmd _ s = _
  have run : withSlot i (do
      let off ← readReg rs1
      let cnt ← readReg rs2
      lazyInit i
      procFrames i cnt.toNat off) s = (lazyInit i >>= fun _ => procFrames i (s.reg rs2).toNat (s.reg rs1)) s :=
    (withSlot_ok (slot_lt hx)).trans ((bind_of_ok (readReg_run rs1 s)).trans (bind_of_ok (readReg_run rs2 s)))
  unfold runCmd
  rw [← run]
  rfl

/-- Settles O53. -/
theorem allocationFailureHalts : Obligations.AllocationFailureHalts := by
  constructor
  · intro s d rs1 rs2 u hd base len hl
    rw [exec_dlcfg rs1 rs2 hd, if_neg]
    · rfl
    · exact fun h => hl ((allocates_iff ..).1 h)
  · intro s x i hx he hv ha total
    have fails := buildSlot_fails hx he hv ha
    refine ⟨_, runCmd_of_error ((withSlot_ok (slot_lt hx)).trans fails), rfl, fun ht => ?_, fun empty rs1 rs2 => ?_⟩
    · show totalInfo total = _
      unfold totalInfo
      rw [if_pos ht]
    · have hn : needsInit x = true := by
        unfold needsInit
        rw [empty, he]
        rfl
      rw [exec_fxproc hx]
      exact runCmd_of_error (bind_of_error ((lazyInit_builds hx hn).trans fails))

end Sys2Proof.Proofs
end

section
/-! PROOFS. The steps on the lines of an effect in the terms of the statements (46_effects.md R715, R716): they complete,
and leave sample RAM, the numbers narrowed and the operands tested as a scene says. -/

namespace Sys2Proof.Proofs

open Sys2Proof.Machine Sys2Proof.Claims

-- Proofs elaborated one after another need less memory.
set_option Elab.async false

/-- `t` is the machine `b` with sample RAM and the flags of the scene `m`. -/
structure Pictures (b : State) (m : Scene) (t : State) : Prop where
  size : m.size = b.sramWords
  state : ∃ mem, t = (State.narrowed m.checks { b with sram := mem }).ranged m.outside
  ram : ∀ a, ramOf t a = m.ram a

variable {b t : State} {m m' m'' : Scene} {α β : Type} {l : Line}

theorem Pictures.noting (h : Pictures b m t) (vs : List Int) : Pictures b (m.noting vs) (t.narrowed vs) := by
  obtain ⟨size, ⟨mem, rfl⟩, ram⟩ := h
  refine ⟨size, ⟨mem, ?_⟩, ram⟩
  rw [State.narrowed_ranged, State.narrowed_narrowed]
  rfl

theorem Pictures.testing (h : Pictures b m t) (outside : Bool) :
    Pictures b (m.testing outside) (t.ranged outside) := by
  obtain ⟨size, ⟨mem, rfl⟩, ram⟩ := h
  refine ⟨size, ⟨mem, ?_⟩, ram⟩
  rw [State.ranged_ranged]
  rfl

theorem Pictures.put (h : Pictures b m t) (a : Nat) {v : Int} (hv : (wordOf v).toInt = v) :
    Pictures b (m.put a v) (State.withSramWord a (wordOf v) t) := by
  obtain ⟨size, ⟨mem, rfl⟩, ram⟩ := h
  refine ⟨size, ⟨memPutWord mem a (wordOf v), rfl⟩, fun c => ?_⟩
  unfold ramOf
  rw [sramWord_withSramWord]
  show _ = if c = a then v else m.ram c
  rw [← ram c]
  split
  · exact hv
  · rfl

theorem Pictures.word (h : Pictures b m t) (a : Nat) : (t.sramWord a).toInt = m.ram a := h.ram a

theorem Pictures.sramWords (h : Pictures b m t) : t.sramWords = b.sramWords := by
  obtain ⟨-, ⟨mem, rfl⟩, -⟩ := h
  rfl

/-- The order of the numbers narrowed does not show. -/
theorem Pictures.reorder (h : Pictures b m t) {vs : List Int} (hv : m.checks.Perm vs) :
    Pictures b { m with checks := vs } t := by
  obtain ⟨size, ⟨mem, rfl⟩, ram⟩ := h
  have same : fitAll m.checks = fitAll vs := hv.all_eq
  refine ⟨size, ⟨mem, ?_⟩, ram⟩
  unfold State.narrowed satIf
  rw [same]

/-- On the machine `b` the command answers `a` and makes the scene `m'` of the scene `m`. -/
def Paints (b : State) (c : Cmd α) (m : Scene) (a : α) (m' : Scene) : Prop :=
  m'.words = m.words ∧ ∀ t, Pictures b m t → ∃ u, c t = .ok a u ∧ Pictures b m' u

variable {c : Cmd α} {k : α → Cmd β} {a a' : α} {d : β}

theorem paints_pure (a : α) : Paints b (pure a) m a m := ⟨rfl, fun t ht => ⟨t, rfl, ht⟩⟩

theorem Paints.bind (hc : Paints b c m a m') (hk : Paints b (k a) m' d m'') : Paints b (c >>= k) m d m'' := by
  obtain ⟨words, run⟩ := hc
  obtain ⟨words', run'⟩ := hk
  refine ⟨words'.trans words, fun t ht => ?_⟩
  obtain ⟨u, e, hu⟩ := run t ht
  obtain ⟨w, e', hw⟩ := run' u hu
  exact ⟨w, (bind_of_ok e).trans e', hw⟩

theorem Paints.cast (h : Paints b c m a m') (ha : a = a') (hm : m' = m'') : Paints b c m a' m'' := by
  subst ha hm
  exact h

/-- The order of the numbers narrowed does not show. -/
theorem Paints.reorder (h : Paints b c m a m') {vs : List Int} (hv : m'.checks.Perm vs) :
    Paints b c m a { m' with checks := vs } := by
  obtain ⟨words, run⟩ := h
  refine ⟨words, fun t ht => ?_⟩
  obtain ⟨u, e, hu⟩ := run t ht
  exact ⟨u, e, hu.reorder hv⟩

theorem Paints.reordered (hv : m''.checks.Perm m'.checks) (hm : { m'' with checks := m'.checks } = m')
    (h : Paints b c m a m'') : Paints b c m a m' := (h.reorder hv).cast rfl hm

theorem paints_getState_bind {k : State → Cmd β} (hk : ∀ t, Pictures b m t → Paints b (k t) m d m')
    (hw : m'.words = m.words) : Paints b (getState >>= k) m d m' := by
  refine ⟨hw, fun t ht => ?_⟩
  rw [bind_of_ok (getState_run t)]
  exact (hk t ht).2 t ht

theorem paints_sat32 (v : Int) : Paints b (sat32 v) m (narrow v) (m.noting [v]) :=
  ⟨rfl, fun t ht => ⟨_, sat32_ok v t, ht.noting _⟩⟩

theorem paints_fmul (q : Nat) (x y : Int) : Paints b (fmul q x y) m (mulQ q x y) (m.noting [scaled q x y]) :=
  ⟨rfl, fun t ht => ⟨_, fmul_ok q x y t, ht.noting _⟩⟩

theorem noting_noting (m : Scene) (vs ws : List Int) : (m.noting vs).noting ws = m.noting (vs ++ ws) := by
  unfold Scene.noting
  rw [List.append_assoc]

/-! ### Lines -/

/-- A line of the machine `b` is allocated. -/
def Laid (b : State) (l : Line) : Prop := b.sramWords ≤ 2 ^ 24 ∧ lineOk b.sramWords l = true

theorem Laid.advanced (h : Laid b l) : Laid b (advanced l) := ⟨h.1, advanced_ok h.2⟩

theorem Laid.at (h : Laid b l) (ht : Pictures b m t) : lineOk t.sramWords l = true ∧ t.sramWords ≤ 2 ^ 24 := by
  rw [ht.sramWords]
  exact ⟨h.2, h.1⟩

theorem Laid.cursor (h : Laid b l) : (lineCursor l).toNat = cursorOf l := lineCursor_toNat h.2 h.1

theorem Laid.word (h : Laid b l) (ht : Pictures b m t) :
    (t.sramWord (lineCursor l).toNat).toInt = m.ram (cursorOf l) := by
  rw [h.cursor]
  exact ht.ram _

/-- A number that 32 bits hold. -/
theorem wordOf_mulQ (q : Nat) (x y : Int) : (wordOf (mulQ q x y)).toInt = mulQ q x y := wordOf_narrow_toInt _

/-- The oldest sample of a line. -/
theorem paints_readCursor_bind {k : Word → Cmd β} (hl : Laid b l) (hw : m'.words = m.words)
    (hk : ∀ r : Word, r.toInt = m.ram (cursorOf l) → Paints b (k r) m d m') :
    Paints b (memRead (lineCursor l) >>= k) m d m' := by
  refine ⟨hw, fun t ht => ?_⟩
  obtain ⟨ok, small⟩ := hl.at ht
  rw [bind_of_ok (memRead_cursor ok small)]
  exact (hk _ (hl.word ht)).2 t ht

theorem paints_linePush (hl : Laid b l) {x : Int} (hx : (wordOf x).toInt = x) :
    Paints b (linePush l x) m (pushed l x m).1 (pushed l x m).2 := by
  refine ⟨rfl, fun t ht => ?_⟩
  obtain ⟨ok, small⟩ := hl.at ht
  refine ⟨_, linePush_ok x ok small, ?_⟩
  rw [hl.cursor]
  exact ht.put _ hx

theorem paints_lineDelay (hl : Laid b l) {x : Int} (hx : (wordOf x).toInt = x) {r : Int × Line × Scene}
    (e : delayed l x m = r) : Paints b (lineDelay l x) m (r.1, r.2.1) r.2.2 := by
  subst e
  refine paints_readCursor_bind hl rfl fun w hw => (paints_linePush hl hx).bind ?_
  rw [hw]
  exact paints_pure _

theorem paints_lowPass (st x damp : Int) {r : Int × Scene} (e : smoothed st x damp m = r) :
    Paints b (lowPass st x damp) m r.1 r.2 := by
  subst e
  exact ⟨rfl, fun t ht => ⟨_, lowPass_ok st x damp t, ht.noting _⟩⟩

theorem paints_combStep {c : CombLine} (hl : Laid b c.line) (x fb damp : Int) {r : Int × CombLine × Scene}
    (e : combed c x fb damp m = r) :
    ∃ st, Paints b (combStep c.line c.st.toInt x fb damp) m (r.1, r.2.1.line, st) r.2.2 ∧
      r.2.1 = { line := r.2.1.line, st := wordOf st } := by
  subst e
  refine ⟨_, paints_readCursor_bind hl rfl fun w hw => ?_, rfl⟩
  rw [hw]
  refine (paints_lowPass _ _ _ rfl).bind ((paints_fmul 24 _ _).bind ((paints_sat32 _).bind ?_))
  refine (paints_linePush hl (wordOf_narrow_toInt _)).bind (Paints.cast (paints_pure _) rfl ?_)
  rw [noting_noting]
  rfl

theorem paints_apfStep (hl : Laid b l) (x g : Int) {r : Int × Line × Scene} (e : allpassed l x g m = r) :
    Paints b (apfStep l x g) m (r.1, r.2.1) r.2.2 := by
  subst e
  refine paints_readCursor_bind hl rfl fun w hw => ?_
  rw [hw]
  refine (paints_sat32 _).bind ((paints_fmul 24 _ _).bind ((paints_sat32 _).bind ?_))
  refine (paints_linePush hl (wordOf_narrow_toInt _)).bind (Paints.cast (paints_pure _) rfl ?_)
  rw [noting_noting, noting_noting]
  rfl

theorem paints_latticeWith (hl : Laid b l) (d x g : Int) {r : Int × Line × Scene} (e : latticed l d x g m = r) :
    Paints b (latticeWith l d x g) m (r.1, r.2.1) r.2.2 := by
  subst e
  refine (paints_fmul 24 _ _).bind ((paints_sat32 _).bind ((paints_linePush hl (wordOf_narrow_toInt _)).bind ?_))
  refine (paints_fmul 24 _ _).bind ((paints_sat32 _).bind (Paints.cast (paints_pure _) rfl ?_))
  show ((((m.noting _).noting _).put _ _).noting _).noting _ = (m.noting _).put _ _
  rw [noting_noting, noting_noting]
  exact congrArg (fun n => Scene.put n _ _) (noting_noting m _ _)

theorem paints_latStep (hl : Laid b l) (x g : Int) {r : Int × Line × Scene}
    (e : latticed l (m.ram (cursorOf l)) x g m = r) : Paints b (latStep l x g) m (r.1, r.2.1) r.2.2 := by
  have run := paints_latticeWith hl _ x g e
  refine paints_readCursor_bind hl run.1 fun w hw => ?_
  rwa [hw]

/-- A number in a range is where its clamping leaves it. -/
theorem clamp_id {lo hi v : Int} (h : lo ≤ v ∧ v ≤ hi) : clamp lo hi v = v := by
  unfold clamp
  omega

theorem paints_lineTap (hl : Laid b l) (d : Int) : Paints b (lineTap l d) m (tapped l d m.ram)
    (m.testing (decide (¬(1 ≤ d ∧ d ≤ l.len.toNat)))) := by
  refine ⟨rfl, fun t ht => ?_⟩
  obtain ⟨ok, small⟩ := hl.at ht
  refine ⟨_, (lineTap_ok d ok small).trans ?_, ht.testing _⟩
  rw [show tapSample t l _ = tapped l d m.ram from ht.ram _]

theorem paints_lineInterpQ16 (hl : Laid b l) (dq h : Int) {r : Int × Scene} (e : interpolated l dq h m = r) :
    Paints b (lineInterpQ16 l dq h) m r.1 r.2 := by
  subst e
  refine ⟨rfl, fun t ht => ?_⟩
  obtain ⟨ok, small⟩ := hl.at ht
  have len := lineOk_iff.1 hl.2
  have low := Int.emod_nonneg dq (show (2 ^ 16 : Int) ≠ 0 by decide)
  have high := Int.emod_lt_of_pos dq (show (0 : Int) < 2 ^ 16 by decide)
  have part : 0 ≤ dq % 2 ^ 16 * 2 ^ 8 ∧ dq % 2 ^ 16 * 2 ^ 8 < 2 ^ 24 := by omega
  have frac : clamp 0 (2 ^ 24 - 1) (dq % 2 ^ 16 * 2 ^ 8) = dq % 2 ^ 16 * 2 ^ 8 := clamp_id (by omega)
  have whole : 1 ≤ clamp 1 (max ((l.len.toNat : Int) - 1) 1) (dq / 2 ^ 16) ∧
      clamp 1 (max ((l.len.toNat : Int) - 1) 1) (dq / 2 ^ 16) ≤ max ((l.len.toNat : Int) - 1) 1 := by
    unfold clamp
    omega
  have tap : ∀ d : Int, 1 ≤ d → tapSample t l (min d l.len.toNat) = tapped l d m.ram := by
    intro d hd
    have held : clamp 1 l.len.toNat d = min d l.len.toNat := by
      unfold clamp
      omega
    unfold tapped
    rw [held]
    exact ht.ram _
  have outside : decide (¬(1 ≤ dq / 2 ^ 16 ∧ dq / 2 ^ 16 ≤ (l.len.toNat : Int) - 1 ∧ 0 ≤ dq % 2 ^ 16 * 2 ^ 8 ∧
      dq % 2 ^ 16 * 2 ^ 8 < 2 ^ 24)) = decide (¬(1 ≤ dq / 2 ^ 16 ∧ dq / 2 ^ 16 ≤ (l.len.toNat : Int) - 1)) := by
    refine decide_eq_decide.2 (not_congr (and_congr_right fun _ => ?_))
    exact and_iff_left part
  refine ⟨_, (lineInterp_ok (dq / 2 ^ 16) _ h ok small).trans ?_, (ht.testing _).noting _⟩
  rw [frac, tap _ whole.1, tap _ (by omega), State.narrowed_ranged, outside]
  rfl

end Sys2Proof.Proofs
end

section
/-! PROOFS. The frames of the effect engines in the terms of the statements (46_effects.md R713, R731 to R733, R751,
R756). -/

namespace Sys2Proof.Proofs

open Sys2Proof.Machine Sys2Proof.Claims

-- Proofs elaborated one after another need less memory.
set_option Elab.async false

variable {b : State} {m : Scene}

/-- The lines of a record are allocated. -/
def AllLaid (b : State) (r : FxRecord) : Prop := ∀ l ∈ recordLines r, Laid b l

/-! ### Freeverb (R713) -/

theorem paints_combBank (x fb damp : Int) (cs : List CombLine) : (∀ c ∈ cs, Laid b c.line) → ∀ acc m,
    ∀ r, combsSum x fb damp cs acc m = r → Paints b (combBank x fb damp cs acc) m (r.1, r.2.1) r.2.2 := by
  induction cs with
  | nil =>
    rintro - acc m r rfl
    exact paints_pure _
  | cons c rest ih =>
    intro h acc m r e
    unfold combsSum at e
    generalize e1 : combed c x fb damp m = w1 at e
    obtain ⟨y, c', m1⟩ := w1
    dsimp only at e
    generalize e2 : combsSum x fb damp rest (narrow (acc + y)) (m1.noting [acc + y]) = w2 at e
    obtain ⟨total, cs', m2⟩ := w2
    subst e
    obtain ⟨st, step, store⟩ := paints_combStep (h c List.mem_cons_self) x fb damp e1
    have others := ih (fun d hd => h d (List.mem_cons_of_mem _ hd)) _ _ _ e2
    refine step.bind ((paints_sat32 _).bind (others.bind (Paints.cast (paints_pure _) ?_ rfl)))
    rw [← store]

theorem paints_apfChain (g : Int) (ls : List Line) : (∀ l ∈ ls, Laid b l) → ∀ x m,
    ∀ r, allpassChain g ls x m = r → Paints b (apfChain g ls x) m (r.1, r.2.1) r.2.2 := by
  induction ls with
  | nil =>
    rintro - x m r rfl
    exact paints_pure _
  | cons l rest ih =>
    intro h x m r e
    unfold allpassChain at e
    generalize e1 : allpassed l x g m = w1 at e
    obtain ⟨y, l', m1⟩ := w1
    dsimp only at e
    generalize e2 : allpassChain g rest y m1 = w2 at e
    obtain ⟨out, ls', m2⟩ := w2
    subst e
    have others := ih (fun d hd => h d (List.mem_cons_of_mem _ hd)) _ _ _ e2
    exact (paints_apfStep (h l List.mem_cons_self) x g e1).bind (others.bind (paints_pure _))

/-- Two numbers with a gain each (R702, R713). -/
theorem paints_blended_bind {β : Type} {k : Int → Cmd β} {d : β} {m' : Scene} (x g y h : Int) {r : Int × Scene}
    (e : blended x g y h m = r) (hk : Paints b (k r.1) r.2 d m') :
    Paints b (fmul 16 x g >>= fun p => fmul 16 y h >>= fun q => sat32 (p + q) >>= k) m d m' := by
  subst e
  refine (paints_fmul 16 x g).bind ((paints_fmul 16 y h).bind ((paints_sat32 _).bind ?_))
  rw [noting_noting, noting_noting]
  exact hk

theorem paints_freeverbFrame (r : FreeverbRec) (xL xR : Int) (h : AllLaid b (.freeverb r))
    {w : (Int × Int) × FreeverbRec × Scene} (e : freeverbStep r xL xR m = w) :
    Paints b (freeverbFrame r xL xR) m (w.1.1, w.1.2, w.2.1) w.2.2 := by
  have hcl : ∀ c ∈ r.cl, Laid b c.line := fun c hc => h _ (by
    simp only [recordLines, List.mem_append, List.mem_map]
    exact .inl (.inl (.inl ⟨c, hc, rfl⟩)))
  have hcr : ∀ c ∈ r.cr, Laid b c.line := fun c hc => h _ (by
    simp only [recordLines, List.mem_append, List.mem_map]
    exact .inl (.inl (.inr ⟨c, hc, rfl⟩)))
  have hal : ∀ l ∈ r.al, Laid b l := fun l hl => h _ (List.mem_append_left _ (List.mem_append_right _ hl))
  have har : ∀ l ∈ r.ar, Laid b l := fun l hl => h _ (List.mem_append_right _ hl)
  unfold freeverbStep at e
  dsimp only at e
  generalize e1 : combsSum _ _ _ r.cl 0 _ = w1 at e
  obtain ⟨aL, cl, m1⟩ := w1
  dsimp only at e
  generalize e2 : combsSum _ _ _ r.cr 0 _ = w2 at e
  obtain ⟨aR, cr, m2⟩ := w2
  dsimp only at e
  generalize e3 : allpassChain _ r.al _ _ = w3 at e
  obtain ⟨aL', al, m3⟩ := w3
  dsimp only at e
  generalize e4 : allpassChain _ r.ar _ _ = w4 at e
  obtain ⟨aR', ar, m4⟩ := w4
  dsimp only at e
  generalize e5 : blended aL' _ aR' _ m4 = w5 at e
  obtain ⟨wL, m5⟩ := w5
  dsimp only at e
  generalize e6 : blended aR' _ aL' _ m5 = w6 at e
  obtain ⟨wR, m6⟩ := w6
  subst e
  refine (paints_sat32 _).bind ((paints_fmul 24 _ _).bind ?_)
  rw [noting_noting]
  refine (paints_combBank _ _ _ _ hcl _ _ _ e1).bind ((paints_combBank _ _ _ _ hcr _ _ _ e2).bind ?_)
  refine (paints_apfChain _ _ hal _ _ _ e3).bind ((paints_apfChain _ _ har _ _ _ e4).bind ?_)
  exact paints_blended_bind _ _ _ _ e5 (paints_blended_bind _ _ _ _ e6 (paints_pure _))

/-! ### Plate (R731 to R733) -/

theorem paints_fxLfo (c cycle : Nat) : Paints b (fxLfo c cycle) m (lfoAt b c cycle) m := by
  refine ⟨rfl, fun t ht => ⟨t, ?_, ht⟩⟩
  obtain ⟨-, ⟨mem, rfl⟩, -⟩ := ht
  rfl

theorem paints_modLat {l : Line} (hl : Laid b l) (p : FxParams) (x v h : Int) (n : Nat) {r : Int × Int × Line × Scene}
    (e : swungLattice b p l x v h n m = r) : Paints b (modLat b.sampleRate.toNat p l x (narrow (-par p 6)) v h n)
      (m.noting [-par p 6]) (r.1, r.2.2.1, r.2.1) r.2.2.2 := by
  unfold swungLattice at e
  dsimp only at e
  generalize e1 : interpolated l _ h _ = w1 at e
  obtain ⟨d, m1⟩ := w1
  dsimp only at e
  generalize e2 : latticed l d x _ m1 = w2 at e
  obtain ⟨y, l', m2⟩ := w2
  subst e
  exact (paints_lineInterpQ16 hl _ _ e1).bind ((paints_latticeWith hl _ _ _ e2).bind (paints_pure _))

theorem latticed_word {l : Line} {d x g : Int} {m' : Scene} {y : Int} {l' : Line}
    (e : latticed l d x g m = (y, l', m')) : (wordOf y).toInt = y := by
  have hy : y = narrow (d - mulQ 24 g (narrow (x + mulQ 24 g d))) := (congrArg Prod.fst e).symm
  rw [hy]
  exact wordOf_narrow_toInt _

theorem paints_plateHalf {lm d1 al d2 : Line} (hm : Laid b lm) (h1 : Laid b d1) (h2 : Laid b al) (h3 : Laid b d2)
    (p : FxParams) (st h x v : Int) (n : Nat) {r : Int × Int × Int × (Line × Line × Line × Line) × Scene}
    (e : tankHalf b p lm d1 al d2 st h x v n m = r) :
    Paints b (plateHalf b.sampleRate.toNat p lm d1 al d2 st h x v n) m
      (r.1, r.2.2.2.1.1, r.2.2.2.1.2.1, r.2.2.2.1.2.2.1, r.2.2.2.1.2.2.2, r.2.2.1, r.2.1) r.2.2.2.2 := by
  unfold tankHalf at e
  dsimp only at e
  generalize e1 : swungLattice b p lm x v h n m = w1 at e
  have swung : (wordOf w1.1).toInt = w1.1 := by
    rw [← e1]
    exact wordOf_narrow_toInt _
  have step := paints_modLat hm p x v h n e1
  obtain ⟨y, h', lm', m1⟩ := w1
  dsimp only at e
  generalize e2 : delayed d1 y m1 = w2 at e
  obtain ⟨z, d1', m2⟩ := w2
  dsimp only at e
  generalize e3 : smoothed st z _ m2 = w3 at e
  obtain ⟨st', m3⟩ := w3
  dsimp only at e
  generalize e4 : latticed al _ _ _ _ = w4 at e
  obtain ⟨w, al', m4⟩ := w4
  dsimp only at e
  generalize e5 : delayed d2 w m4 = w5 at e
  obtain ⟨t, d2', m5⟩ := w5
  subst e
  refine (paints_sat32 _).bind (step.bind ((paints_lineDelay h1 swung e2).bind ?_))
  refine (paints_lowPass _ _ _ e3).bind ((paints_fmul 24 _ _).bind ((paints_latStep h2 _ _ e4).bind ?_))
  exact (paints_lineDelay h3 (latticed_word e4) e5).bind (paints_pure _)

theorem paints_plateNetwork (r : PlateRec) (xL xR : Int) (h : AllLaid b (.plate r))
    {w : PlateRec × Scene} (e : plateNetworkStep b r xL xR m = w) :
    Paints b (plateNetwork b.sampleRate.toNat r xL xR) m w.1 w.2 := by
  have ht : ∀ l ∈ [r.id1, r.id2, r.id3, r.id4, r.mal, r.dl1, r.al2, r.dl2, r.mar, r.dr1, r.ar2, r.dr2], Laid b l :=
    fun l hl => h l (List.mem_append_right _ hl)
  simp only [List.mem_cons, List.not_mem_nil, or_false, forall_eq_or_imp, forall_eq] at ht
  obtain ⟨t1, t2, t3, t4, t5, t6, t7, t8, t9, t10, t11, t12⟩ := ht
  unfold plateNetworkStep at e
  extract_lets p cycle mono start at e
  split at e
  rename_i x pd m0 e0
  have pre : Paints b (preDelay r.pd (mulQ 24 mono (p 8))) start (x, pd) m0 := by
    cases hpd : r.pd with
    | none =>
      rw [hpd] at e0
      injection e0 with ex rest
      injection rest with epd em
      subst ex epd em
      exact paints_pure _
    | some l =>
      rw [hpd] at e0
      have hl : Laid b l := h l (List.mem_append_left _ (by rw [hpd]; exact List.mem_singleton.2 rfl))
      injection e0 with ex rest
      injection rest with epd em
      subst ex epd em
      exact (paints_lineDelay hl (wordOf_mulQ 24 mono (p 8)) rfl).bind (paints_pure _)
  dsimp only at e
  generalize e1 : latticed r.id1 _ _ _ _ = w1 at e
  obtain ⟨a1, id1, m1⟩ := w1
  dsimp only at e
  generalize e2 : latticed r.id2 _ _ _ _ = w2 at e
  obtain ⟨a2, id2, m2⟩ := w2
  dsimp only at e
  generalize e3 : latticed r.id3 _ _ _ _ = w3 at e
  obtain ⟨a3, id3, m3⟩ := w3
  dsimp only at e
  generalize e4 : latticed r.id4 _ _ _ _ = w4 at e
  obtain ⟨a4, id4, m4⟩ := w4
  dsimp only at e
  generalize e5 : tankHalf b _ r.mal _ _ _ _ _ _ _ _ _ = w5 at e
  obtain ⟨tl, hl, lp1, ⟨mal, dl1, al2, dl2⟩, m5⟩ := w5
  dsimp only at e
  generalize e6 : tankHalf b _ r.mar _ _ _ _ _ _ _ _ _ = w6 at e
  obtain ⟨tr, hr, lp2, ⟨mar, dr1, ar2, dr2⟩, m6⟩ := w6
  subst e
  refine (paints_sat32 _).bind ((paints_fmul 24 _ _).bind ?_)
  rw [noting_noting]
  refine pre.bind ?_
  refine (paints_latStep t1 _ _ e1).bind ((paints_latStep t2 _ _ e2).bind ?_)
  refine (paints_latStep t3 _ _ e3).bind ((paints_latStep t4 _ _ e4).bind ?_)
  refine (paints_fxLfo _ _).bind ((paints_fxLfo _ _).bind ?_)
  refine (paints_fmul 24 _ _).bind ((paints_sat32 _).bind ((paints_fmul 24 _ _).bind ((paints_sat32 _).bind ?_)))
  rw [noting_noting, noting_noting, noting_noting]
  refine (paints_plateHalf t5 t6 t7 t8 _ _ _ _ _ _ e5).bind ?_
  exact (paints_plateHalf t9 t10 t11 t12 _ _ _ _ _ _ e6).bind (paints_pure _)

theorem testing_testing (m : Scene) (o o' : Bool) : (m.testing o).testing o' = m.testing (o || o') := by
  unfold Scene.testing
  rw [Bool.or_assoc]

theorem testing_false (m : Scene) : m.testing false = m := by
  unfold Scene.testing
  rw [Bool.or_false]

/-- The taps of the plate read and do not store. -/
theorem paints_plateTap_bind {β : Type} {k : Int → Cmd β} {d : β} {m' : Scene} {l : Line} {o : Bool} (hl : Laid b l)
    (n : Nat) (hk : Paints b (k (tapped l (scaledLength b n + 1) m.ram))
      (m.testing (o || decide (¬(1 ≤ (scaledLength b n : Int) + 1 ∧ (scaledLength b n : Int) + 1 ≤ l.len.toNat)))) d m') :
    Paints b (plateTap b.sampleRate.toNat l n >>= k) (m.testing o) d m' := by
  rw [← testing_testing] at hk
  exact (paints_lineTap hl _).bind hk

theorem paints_tapSums (sL sR g : Int) : Paints b (do
    let x ← sat32 sL
    let y ← sat32 sR
    let wL ← fmul 24 x g
    let wR ← fmul 24 y g
    pure (wL, wR)) m (mulQ 24 (narrow sL) g, mulQ 24 (narrow sR) g)
      (m.noting [sL, scaled 24 (narrow sL) g, sR, scaled 24 (narrow sR) g]) := by
  have run : Paints b (sat32 sL >>= fun x => sat32 sR >>= fun y => fmul 24 x g >>= fun wL => fmul 24 y g >>= fun wR =>
      pure (wL, wR)) m (mulQ 24 (narrow sL) g, mulQ 24 (narrow sR) g)
        (m.noting [sL, sR, scaled 24 (narrow sL) g, scaled 24 (narrow sR) g]) := by
    refine (paints_sat32 _).bind ((paints_sat32 _).bind ((paints_fmul 24 _ _).bind ((paints_fmul 24 _ _).bind ?_)))
    rw [noting_noting, noting_noting, noting_noting]
    exact paints_pure _
  exact run.reorder (List.Perm.append_left _ (.cons _ (.swap _ _ _)))

theorem tapsLeft_sum (r : PlateRec) (tap : Line → Nat → Int) : tap r.dr1 266 + tap r.dr1 2974 - tap r.ar2 1913 +
    tap r.dr2 1996 - tap r.dl1 1990 - tap r.al2 187 - tap r.dl2 1066 =
      ((tapsLeft r).map fun t => t.2.2 * tap t.1 t.2.1).sum := by
  simp only [tapsLeft, List.map_cons, List.map_nil, List.sum_cons, List.sum_nil]
  ring

theorem tapsRight_sum (r : PlateRec) (tap : Line → Nat → Int) : tap r.dl1 353 + tap r.dl1 3627 - tap r.al2 1228 +
    tap r.dl2 2673 - tap r.dr1 2111 - tap r.ar2 335 - tap r.dr2 121 =
      ((tapsRight r).map fun t => t.2.2 * tap t.1 t.2.1).sum := by
  simp only [tapsRight, List.map_cons, List.map_nil, List.sum_cons, List.sum_nil]
  ring

theorem paints_plateTaps (r : PlateRec) (h : AllLaid b (.plate r)) {w w' : Int × Scene}
    (e : tapsSum b r.params (tapsLeft r) m = w) (e' : tapsSum b r.params (tapsRight r) w.2 = w') :
    Paints b (plateTaps b.sampleRate.toNat r) m (w.1, w'.1) w'.2 := by
  have ht : ∀ l ∈ [r.id1, r.id2, r.id3, r.id4, r.mal, r.dl1, r.al2, r.dl2, r.mar, r.dr1, r.ar2, r.dr2], Laid b l :=
    fun l hl => h l (List.mem_append_right _ hl)
  simp only [List.mem_cons, List.not_mem_nil, or_false, forall_eq_or_imp, forall_eq] at ht
  obtain ⟨-, -, -, -, -, dl1, al2, dl2, -, dr1, ar2, dr2⟩ := ht
  have left := tapsLeft_sum r fun l n => tapped l (scaledLength b n + 1) m.ram
  have right := tapsRight_sum r fun l n => tapped l (scaledLength b n + 1) m.ram
  beta_reduce at left right
  subst e e'
  unfold plateTaps
  rw [← testing_false m]
  refine paints_plateTap_bind dr1 _ <| paints_plateTap_bind dr1 _ <| paints_plateTap_bind ar2 _ <|
    paints_plateTap_bind dr2 _ <| paints_plateTap_bind dl1 _ <| paints_plateTap_bind al2 _ <|
    paints_plateTap_bind dl2 _ <| paints_plateTap_bind dl1 _ <| paints_plateTap_bind dl1 _ <|
    paints_plateTap_bind al2 _ <| paints_plateTap_bind dl2 _ <| paints_plateTap_bind dr1 _ <|
    paints_plateTap_bind ar2 _ <| paints_plateTap_bind dr2 _ ?_
  rw [left, right]
  refine Paints.cast (paints_tapSums _ _ _) rfl ?_
  simp only [tapsSum, Scene.testing, Scene.noting, Scene.mk.injEq, true_and, and_true]
  refine ⟨by rw [List.append_assoc]; rfl, ?_⟩
  simp only [tapsLeft, tapsRight, List.any_cons, List.any_nil, Bool.or_false, Bool.false_or, Bool.or_assoc]

/-- The machine's SAMPLE_RATE while a command runs. -/
theorem Pictures.sampleRate {t : State} (h : Pictures b m t) : t.sampleRate = b.sampleRate := by
  obtain ⟨-, ⟨mem, rfl⟩, -⟩ := h
  rfl

theorem paints_plateFrame (r : PlateRec) (xL xR : Int) (h : AllLaid b (.plate r))
    (h' : AllLaid b (.plate (plateNetworkStep b r xL xR m).1))
    (hp : (plateNetworkStep b r xL xR m).1.params = r.params)
    {w : (Int × Int) × PlateRec × Scene} (e : plateStep b r xL xR m = w) :
    Paints b (plateFrame r xL xR) m (w.1.1, w.1.2, w.2.1) w.2.2 := by
  unfold plateStep at e
  dsimp only at e
  generalize e1 : plateNetworkStep b r xL xR m = w1 at e h' hp
  obtain ⟨r', m1⟩ := w1
  dsimp only at e h' hp
  rw [← hp] at e
  generalize e2 : tapsSum b r'.params (tapsLeft r') m1 = w2 at e
  generalize e3 : tapsSum b r'.params (tapsRight r') w2.2 = w3 at e
  subst e
  have network := paints_plateNetwork r xL xR h e1
  have taps := paints_plateTaps r' h' e2 e3
  refine paints_getState_bind (fun t ht => ?_) (taps.1.trans network.1)
  rw [ht.sampleRate]
  exact network.bind (taps.bind (paints_pure _))

/-! ### Choruses (R751, R756) -/

theorem paints_chorusChannel {l : Line} (hl : Laid b l) (p : FxParams) (h : Word) (x : Int) (c : Nat)
    {r : Int × Line × Scene} (e : chorusSide b p l h.toInt x c m = r) :
    Paints b (chorusChannel p l h x c) m (r.1, r.2.1) r.2.2 := by
  unfold chorusSide at e
  dsimp only at e
  generalize e1 : interpolated l _ h.toInt _ = w1 at e
  obtain ⟨y, m1⟩ := w1
  subst e
  refine (paints_fxLfo _ _).bind ((paints_fmul 16 _ _).bind ((paints_lineInterpQ16 hl _ _ e1).bind ?_))
  refine (paints_fmul 24 _ _).bind ((paints_sat32 _).bind ?_)
  rw [noting_noting]
  exact (paints_linePush hl (wordOf_narrow_toInt _)).bind (paints_pure _)

theorem paints_chorusFrame (r : ChorusRec) (xL xR : Int) (h : AllLaid b (.chorus r))
    {w : (Int × Int) × ChorusRec × Scene} (e : chorusStep b r xL xR m = w) :
    Paints b (chorusFrame r xL xR) m (w.1.1, w.1.2, w.2.1) w.2.2 := by
  unfold chorusStep at e
  dsimp only at e
  generalize e1 : chorusSide b r.params r.xl _ _ _ _ = w1 at e
  obtain ⟨wL, xl, m1⟩ := w1
  dsimp only at e
  generalize e2 : chorusSide b r.params r.xr _ _ _ _ = w2 at e
  obtain ⟨wR, xr, m2⟩ := w2
  subst e
  have left : Laid b r.xl := h r.xl (by simp [recordLines])
  have right : Laid b r.xr := h r.xr (by simp [recordLines])
  exact (paints_chorusChannel left _ _ _ _ e1).bind ((paints_chorusChannel right _ _ _ _ e2).bind (paints_pure _))

/-- The numbers that a running sum narrows, from a number on. -/
def sums : Int → List Int → List Int
  | _, [] => []
  | acc, x :: xs => (acc + x) :: sums (narrow (acc + x)) xs

/-- Where a running sum ends, from a number on. -/
def total : Int → List Int → Int
  | acc, [] => acc
  | acc, x :: xs => total (narrow (acc + x)) xs

theorem runningSum_eq (parts : List Int) (m : Scene) :
    runningSum parts m = (total 0 parts, m.noting (sums 0 parts)) := by
  have from_ : ∀ (parts : List Int) (acc : Int) (m : Scene),
      parts.foldl (fun (r : Int × Scene) x => (narrow (r.1 + x), r.2.noting [r.1 + x])) (acc, m) =
        (total acc parts, m.noting (sums acc parts)) := by
    intro parts
    induction parts with
    | nil =>
      intro acc m
      show (acc, m) = (acc, m.noting [])
      unfold Scene.noting
      rw [List.append_nil]
    | cons x xs ih =>
      intro acc m
      rw [List.foldl_cons, ih, noting_noting]
      rfl
  exact from_ parts 0 m

/-- Tap `i` of the hexa chorus over sample RAM alone. -/
def tapOver (b : State) (r : HexaRec) (ram : Ram) (i : Nat) : Int × Scene :=
  hexaTap b r i { ram := ram, checks := [], outside := false, words := [], size := 0 }

theorem hexaTap_eq (r : HexaRec) (i : Nat) (m : Scene) : hexaTap b r i m =
    ((tapOver b r m.ram i).1,
      (m.testing (tapOver b r m.ram i).2.outside).noting (tapOver b r m.ram i).2.checks) := by
  unfold tapOver hexaTap interpolated Scene.testing Scene.noting
  simp only [List.nil_append, Bool.false_or, List.append_assoc]

theorem paints_hexaTap (r : HexaRec) (hl : Laid b r.x) (i : Nat) {h : Vector Word 6}
    (hh : entry h i = entry r.h i) {β : Type} {k : Int → Cmd β} {d : β} {m' : Scene}
    (hk : Paints b (k (tapOver b r m.ram i).1)
      ((m.testing (tapOver b r m.ram i).2.outside).noting (tapOver b r m.ram i).2.checks) d m') :
    Paints b (fxLfo ((r.c + i * paramU r.params 4 / 6) % paramU r.params 4) (paramU r.params 4) >>= fun v =>
      fmul 16 (hexaDepth r.params i) v >>= fun depth =>
      lineInterpQ16 r.x (hexaDelay r.params i + depth) (entry h i).toInt >>= k) m d m' := by
  have e := hexaTap_eq (b := b) r i m
  rw [hh]
  exact (paints_fxLfo _ _).bind ((paints_fmul 16 _ _).bind ((paints_lineInterpQ16 hl _ _ e).bind hk))

/-- Numbers narrowed tap by tap, and the same numbers kind by kind. -/
theorem perm_byKind (cs n a l u r v n' a' l' u' r' v' : List Int) :
    (cs ++ (n ++ a ++ l ++ u ++ r ++ v) ++ (n' ++ a' ++ l' ++ u' ++ r' ++ v')).Perm
      (cs ++ ((n ++ n') ++ (a ++ a') ++ (l ++ l') ++ (u ++ u') ++ (r ++ r') ++ (v ++ v'))) := by
  refine List.perm_iff_count.2 fun x => ?_
  simp only [List.count_append]
  omega

/-- What tap `i` of the hexa chorus narrows: its reading, then the three sums with the two gains. -/
def tapNotes (b : State) (r : HexaRec) (ram : Ram) (i : Nat) (acc wL wR : Int) : List Int :=
  let y := (tapOver b r ram i).1
  (tapOver b r ram i).2.checks ++ [acc + y] ++ [scaled 16 y (65536 - hexaPan r.params i)] ++
    [wL + mulQ 16 y (65536 - hexaPan r.params i)] ++ [scaled 16 y (hexaPan r.params i)] ++
    [wR + mulQ 16 y (hexaPan r.params i)]

theorem paints_hexaTaps_succ (r : HexaRec) (hl : Laid b r.x) {count i : Nat} {acc wL wR : Int} {h : Vector Word 6}
    (hh : entry h i = entry r.h i) {d : Int × Int × Int × Vector Word 6} {m' : Scene}
    (hk : let y := (tapOver b r m.ram i).1
      Paints b (hexaTaps r.params r.x r.c count (i + 1) (narrow (acc + y))
        (narrow (wL + mulQ 16 y (65536 - hexaPan r.params i))) (narrow (wR + mulQ 16 y (hexaPan r.params i)))
        (h.setIfInBounds i (wordOf y)))
      ((m.testing (tapOver b r m.ram i).2.outside).noting (tapNotes b r m.ram i acc wL wR)) d m') :
    Paints b (hexaTaps r.params r.x r.c (count + 1) i acc wL wR h) m d m' := by
  refine paints_hexaTap r hl i hh ?_
  refine (paints_sat32 _).bind <| (paints_fmul 16 _ _).bind <| (paints_sat32 _).bind <| (paints_fmul 16 _ _).bind <|
    (paints_sat32 _).bind ?_
  simp only [noting_noting]
  unfold tapNotes at hk
  simp only [List.append_assoc] at hk ⊢
  exact hk

theorem paints_hexaTaps (r : HexaRec) (hl : Laid b r.x) (ram : Ram) (count : Nat) :
    ∀ i acc wL wR (h : Vector Word 6) (m : Scene), m.ram = ram → (∀ j, i ≤ j → entry h j = entry r.h j) →
    let is := List.range' i count
    let y := fun i => (tapOver b r ram i).1
    let left := is.map fun i => scaled 16 (y i) (65536 - hexaPan r.params i)
    let right := is.map fun i => scaled 16 (y i) (hexaPan r.params i)
    Paints b (hexaTaps r.params r.x r.c count i acc wL wR h) m
      (total acc (is.map y), total wL (left.map narrow), total wR (right.map narrow),
        is.foldl (fun h i => h.setIfInBounds i (wordOf (y i))) h)
      ((m.testing (is.any fun i => (tapOver b r ram i).2.outside)).noting
        (is.flatMap (fun i => (tapOver b r ram i).2.checks) ++ sums acc (is.map y) ++ left ++
          sums wL (left.map narrow) ++ right ++ sums wR (right.map narrow))) := by
  induction count with
  | zero =>
    intro i acc wL wR h m _ _
    refine Paints.cast (paints_pure _) rfl ?_
    show m = (m.testing false).noting []
    rw [testing_false]
    unfold Scene.noting
    rw [List.append_nil]
  | succ count ih =>
    rintro i acc wL wR h m rfl hh
    simp only [List.range'_succ, List.map_cons, List.foldl_cons, List.any_cons, List.flatMap_cons]
    have run := paints_hexaTaps_succ r hl (hh i (Nat.le_refl i)) <| ih (i + 1) _ _ _ _
      ((m.testing (tapOver b r m.ram i).2.outside).noting (tapNotes b r m.ram i acc wL wR)) rfl
      fun j hj => by rw [entry_setIfInBounds_ne _ _ (by omega), hh j (by omega)]
    refine (run.reorder (perm_byKind m.checks _ _ _ _ _ _ _ _ _ _ _ _)).cast rfl ?_
    unfold Scene.testing Scene.noting
    rw [Bool.or_assoc]
    rfl

theorem foldl_hexaTap (r : HexaRec) (ram : Ram) (is : List Nat) : ∀ m : Scene, m.ram = ram →
    is.foldl (fun m i => (hexaTap b r i m).2) m =
      (m.testing (is.any fun i => (tapOver b r ram i).2.outside)).noting
        (is.flatMap fun i => (tapOver b r ram i).2.checks) := by
  induction is with
  | nil =>
    intro m _
    show m = (m.testing false).noting []
    rw [testing_false]
    unfold Scene.noting
    rw [List.append_nil]
  | cons i is ih =>
    rintro m rfl
    rw [List.foldl_cons, hexaTap_eq]
    refine (ih _ (by rfl)).trans ?_
    rw [List.any_cons, List.flatMap_cons]
    unfold Scene.testing Scene.noting
    simp only [List.append_assoc, Bool.or_assoc]

/-- Six histories stored one after another. -/
theorem histories_stored (h : Vector Word 6) (y : Nat → Int) :
    [0, 1, 2, 3, 4, 5].foldl (fun h i => h.setIfInBounds i (wordOf (y i))) h =
      Vector.ofFn fun i : Fin 6 => BitVec.ofInt 32 (y i.val) := by
  refine Vector.ext fun i hi => ?_
  simp only [List.foldl_cons, List.foldl_nil, Vector.getElem_ofFn, Vector.getElem_setIfInBounds]
  interval_cases i <;> rfl

/-- The frame's sums in the order of the statement. -/
theorem perm_mixed (cs x n a l u r v e : List Int) : (cs ++ x ++ (n ++ a ++ l ++ u ++ r ++ v) ++ e).Perm
    (cs ++ x ++ n ++ a ++ u ++ v ++ (l ++ r ++ e)) := by
  refine List.perm_iff_count.2 fun z => ?_
  simp only [List.count_append]
  omega

theorem paints_hexaFrame (r : HexaRec) (xL xR : Int) (h : AllLaid b (.hexa r))
    {w : (Int × Int) × HexaRec × Scene} (e : hexaStep b r xL xR m = w) :
    Paints b (hexaFrame r xL xR) m (w.1.1, w.1.2, w.2.1) w.2.2 := by
  have hl : Laid b r.x := h r.x (List.mem_singleton.2 rfl)
  have taps := paints_hexaTaps r hl m.ram 6 0 0 0 0 r.h (m.noting [xL + xR]) rfl fun _ _ => rfl
  have y : ∀ i, (hexaTap b r i m).1 = (tapOver b r m.ram i).1 := fun i => by
    rw [hexaTap_eq]
  have pan : ∀ i : Nat, clamp 0 65536 (32768 + (2 * (i : Int) - 5) * par r.params 8) = hexaPan r.params i :=
    fun i => clamp_eq 0 65536 _ (by decide)
  subst e
  unfold hexaStep
  simp only [y, pan, foldl_hexaTap r m.ram [0, 1, 2, 3, 4, 5] (m.noting [xL + xR]) rfl, runningSum_eq,
    ← histories_stored r.h fun i => (tapOver b r m.ram i).1]
  refine Paints.reordered ?_ ?_ ((paints_sat32 _).bind (taps.bind ((paints_fmul 24 _ _).bind ((paints_sat32 _).bind
    ((paints_linePush hl (wordOf_narrow_toInt _)).bind (Paints.cast (paints_pure _) rfl rfl))))))
  · show List.Perm (((m.checks ++ _) ++ _) ++ [_] ++ [_]) _
    rw [List.append_assoc _ [_]]
    exact perm_mixed m.checks _ _ _ _ _ _ _ _
  · rfl

end Sys2Proof.Proofs
end

section
/-! PROOFS. The frames of FXPROC in the terms of the statements: the pairs read and delivered, up to the access that
halts (46_effects.md R702, R703, R771). -/

namespace Sys2Proof.Proofs

open Sys2Proof.Machine Sys2Proof.Claims

-- Proofs elaborated one after another need less memory.
set_option Elab.async false

/-- A machine in the middle of an FXPROC: `p.1` with sample RAM and the flags of the scene `p.2`. -/
def sceneView : View (State × Scene) where
  shows p t := Pictures p.1 p.2 t
  bad p := p.2.words.find? fun a => decide (p.2.size ≤ a)

variable {b s : State} {m : Scene} {α β : Type} {d : β} {z : State × Scene}

/-- No word accessed lies outside sample RAM. -/
def Ongoing (m : Scene) : Prop := m.halted = false

theorem bad_none_iff (b : State) (m : Scene) : sceneView.bad (b, m) = none ↔ Ongoing m := by
  show m.words.find? _ = none ↔ m.words.any _ = false
  rw [List.find?_eq_none, List.any_eq_false]

theorem bad_of_halted (b : State) (h : ¬Ongoing m) : sceneView.bad (b, m) ≠ none :=
  fun hn => h ((bad_none_iff b m).1 hn)

/-- One word accessed. -/
def accessed (m : Scene) (a : Nat) : Scene := { m with words := m.words ++ [a] }

theorem access_of_ongoing (h : Ongoing m) (a : Nat) (use : Scene → Scene) :
    m.access a use = if (accessed m a).halted then accessed m a else use (accessed m a) := if_neg (by rw [h]; decide)

theorem access_of_halted (h : ¬Ongoing m) (a : Nat) (use : Scene → Scene) : m.access a use = m :=
  if_pos (eq_true_of_ne_false h)

theorem ongoing_accessed_iff (h : Ongoing m) (a : Nat) : Ongoing (accessed m a) ↔ a < m.size := by
  unfold Ongoing Scene.halted at h ⊢
  show (m.words ++ [a]).any (fun c => decide (m.size ≤ c)) = false ↔ _
  rw [List.any_append, h, Bool.false_or, List.any_cons, List.any_nil, Bool.or_false, decide_eq_false_iff_not, Nat.not_le]

/-- The first bad word of an access that leaves sample RAM. -/
theorem bad_accessed (b : State) (h : Ongoing m) {a : Nat} (ha : m.size ≤ a) :
    sceneView.bad (b, accessed m a) = some a := by
  have none := (bad_none_iff b m).2 h
  show (m.words ++ [a]).find? (fun c => decide (m.size ≤ c)) = _
  rw [List.find?_append, show m.words.find? (fun c => decide (m.size ≤ c)) = _ from none]
  simp [ha]

theorem Pictures.accessed {t : State} (h : Pictures b m t) (a : Nat) : Pictures b (Proofs.accessed m a) t :=
  ⟨h.size, h.state, h.ram⟩

/-! ### Words of the buffers -/

/-- An access of a word outside sample RAM halts. -/
theorem tracks_bad_access {c : Cmd α} (hm : Ongoing m) (w : Word) (d : α)
    (run : ∀ t : State, t.sramWords ≤ w.toNat → c t = .error (.badAddr w) (takeFatal (.badAddr w) t))
    (hw : ¬Ongoing (accessed m w.toNat)) : Tracks sceneView c (b, m) d (b, accessed m w.toNat) := by
  intro t ht
  have ht : Pictures b m t := ht
  have out : m.size ≤ w.toNat := Nat.le_of_not_lt fun h => hw ((ongoing_accessed_iff hm _).2 h)
  refine ⟨fun hn => absurd ((bad_none_iff _ _).1 hn) hw, fun a ha => ?_⟩
  rw [bad_accessed b hm out] at ha
  injection ha with ha
  rw [← ha, BitVec.ofNat_toNat, BitVec.setWidth_eq]
  refine ⟨t, run t ?_, ht.accessed _⟩
  rw [ht.sramWords, ← ht.size]
  exact out

theorem Pictures.lt_sramWords {t : State} (h : Pictures b m t) (hm : Ongoing m) {a : Nat}
    (ha : Ongoing (Proofs.accessed m a)) : a < t.sramWords := by
  rw [h.sramWords, ← h.size]
  exact (ongoing_accessed_iff hm a).1 ha

/-- A word read: its value is the scene's. -/
theorem tracks_read_bind {k : Word → Cmd β} (hm : Ongoing m) (w : Word)
    (hz : ¬Ongoing (accessed m w.toNat) → z = (b, accessed m w.toNat))
    (hk : Ongoing (accessed m w.toNat) → ∀ r : Word, r.toInt = m.ram w.toNat →
      Tracks sceneView (k r) (b, accessed m w.toNat) d z) : Tracks sceneView (memRead w >>= k) (b, m) d z := by
  by_cases hw : Ongoing (accessed m w.toNat)
  · intro t ht
    have ht : Pictures b m t := ht
    rw [bind_of_ok (memRead_run_of_lt (ht.lt_sramWords hm hw))]
    exact hk hw _ (ht.ram _) t (ht.accessed _)
  · rw [hz hw]
    exact Tracks.halts (tracks_bad_access hm w (0 : Word) (fun t h => memRead_run_of_ge h) hw) (bad_of_halted b hw)

theorem tracks_storing (hm : Ongoing m) (w v : Word) :
    Tracks sceneView (memWrite w v) (b, m) () (b, m.storing w.toNat v.toInt) := by
  unfold Scene.storing
  rw [access_of_ongoing hm]
  by_cases hw : Ongoing (accessed m w.toNat)
  · rw [if_neg (by rw [show (accessed m w.toNat).halted = false from hw]; decide)]
    intro t ht
    have ht : Pictures b m t := ht
    have value : wordOf v.toInt = v := BitVec.ofInt_toInt
    have put := (ht.accessed w.toNat).put w.toNat (v := v.toInt) (congrArg BitVec.toInt value)
    rw [value] at put
    refine ⟨fun _ => ⟨_, memWrite_run_of_lt (ht.lt_sramWords hm hw), put⟩, fun a ha => ?_⟩
    have none := (bad_none_iff b (accessed m w.toNat)).2 hw
    exact absurd (ha.symm.trans none) nofun
  · rw [if_pos (eq_true_of_ne_false hw)]
    exact tracks_bad_access hm w () (fun t h => memWrite_run_of_ge h) hw

/-- What a scene makes of a command that does not halt. -/
theorem Paints.tracks {c : Cmd α} {a : α} {m' : Scene} (h : Paints b c m a m') (hm : Ongoing m) (hs : m'.size = m.size) :
    Tracks sceneView c (b, m) a (b, m') := by
  obtain ⟨words, run⟩ := h
  intro t ht
  obtain ⟨u, e, hu⟩ := run t ht
  refine ⟨fun _ => ⟨u, e, hu⟩, fun a ha => ?_⟩
  have none := (bad_none_iff b m).2 hm
  have same : sceneView.bad (b, m') = sceneView.bad (b, m) := by
    show m'.words.find? (fun a => decide (m'.size ≤ a)) = _
    rw [words, hs]
    rfl
  exact absurd (ha.symm.trans (same.trans none)) nofun

theorem storing_of_halted (h : ¬Ongoing m) (a : Nat) (v : Int) : m.storing a v = m := access_of_halted h a _

theorem adding_of_halted (h : ¬Ongoing m) (a : Nat) (v : Int) : m.adding a v = m := access_of_halted h a _

theorem tracks_adding (hm : Ongoing m) (w : Word) (c : Int) :
    Tracks sceneView (memAccumulate w c) (b, m) () (b, m.adding w.toNat c) := by
  unfold Scene.adding
  rw [access_of_ongoing hm]
  by_cases hw : Ongoing (accessed m w.toNat)
  · rw [if_neg (by rw [show (accessed m w.toNat).halted = false from hw]; decide)]
    intro t ht
    have ht : Pictures b m t := ht
    have put := ((ht.accessed w.toNat).noting [m.ram w.toNat + c]).put w.toNat (wordOf_narrow_toInt (m.ram w.toNat + c))
    have run := memAccumulate_ok (a := w) (c := c) (ht.lt_sramWords hm hw)
    rw [ht.word] at run
    refine ⟨fun _ => ⟨_, run, put⟩, fun a ha => ?_⟩
    have none := (bad_none_iff b (accessed m w.toNat)).2 hw
    exact absurd (ha.symm.trans none) nofun
  · rw [if_pos (eq_true_of_ne_false hw)]
    refine Tracks.halts (a := (0 : Word)) (tracks_bad_access hm w (0 : Word) (fun t h => memRead_run_of_ge h) hw)
      (bad_of_halted b hw)

/-! ### Pairs (R703) -/

theorem deliveredPair_of_halted (h : ¬Ongoing m) (s : State) (bus : FxBus) (f : Nat) (y : Int × Int) :
    deliveredPair s bus f y m = m := by
  unfold deliveredPair
  dsimp only
  rw [storing_of_halted h, storing_of_halted h, adding_of_halted h, adding_of_halted h, storing_of_halted h,
    storing_of_halted h, ite_self]

theorem storing_pair_of_halted (h : ¬Ongoing m) (a c : Nat) (u v : Int) : (m.storing a u).storing c v = m := by
  rw [storing_of_halted h, storing_of_halted h]

theorem adding_pair_of_halted (h : ¬Ongoing m) (a c e : Nat) (u v w : Int) :
    ((m.adding a u).storing c v).storing e w = m := by
  rw [adding_of_halted h, storing_pair_of_halted h]

theorem reading_of_halted (h : ¬Ongoing m) (base : Word) (f : Nat) : m.reading base f = m := access_of_halted h _ _

theorem Pictures.buffers {t : State} (h : Pictures b m t) (bus : FxBus) :
    t.outBase = b.outBase ∧ inputBase t bus = inputBase b bus := by
  obtain ⟨-, ⟨mem, rfl⟩, -⟩ := h
  refine ⟨rfl, ?_⟩
  cases bus <;> rfl

theorem Pictures.access {t : State} (h : Pictures b m t) (a : Nat) {use : Scene → Scene}
    (hu : ∀ m, Pictures b m t → Pictures b (use m) t) : Pictures b (m.access a use) t := by
  by_cases hm : Ongoing m
  · rw [access_of_ongoing hm]
    split
    · exact h.accessed a
    · exact hu _ (h.accessed a)
  · rw [access_of_halted hm]
    exact h

theorem Pictures.reading {t : State} (h : Pictures b m t) (base : Word) (f : Nat) : Pictures b (m.reading base f) t :=
  h.access _ fun _ h => h.access _ fun _ h => h

theorem tracks_deliver (hm : Ongoing m) (bus : FxBus) (f : Nat) {yL yR : Int} (hL : (wordOf yL).toInt = yL)
    (hR : (wordOf yR).toInt = yR) : Tracks sceneView (deliver bus (BitVec.ofNat 32 f) yL yR) (b, m) ()
      (b, deliveredPair b bus f (yL, yR) m) := by
  have store : ∀ {m : Scene}, Ongoing m → ∀ (base : Word) (side : Side) (y : Int), (wordOf y).toInt = y →
      Tracks sceneView (memWrite (frameAddress base (BitVec.ofNat 32 f) side) (wordOf y)) (b, m) ()
        (b, m.storing (frameAddr base f (sideNo side)) y) := by
    intro m hm base side y hy
    have run := tracks_storing (b := b) hm (frameAddress base (BitVec.ofNat 32 f) side) (wordOf y)
    rwa [hy, frameAddress_eq] at run
  have add : ∀ {m : Scene}, Ongoing m → ∀ (base : Word) (side : Side) (y : Int),
      Tracks sceneView (memAccumulate (frameAddress base (BitVec.ofNat 32 f) side) y) (b, m) ()
        (b, m.adding (frameAddr base f (sideNo side)) y) := by
    intro m hm base side y
    have run := tracks_adding (b := b) hm (frameAddress base (BitVec.ofNat 32 f) side) y
    rwa [frameAddress_eq] at run
  have on : ∀ {m : Scene}, sceneView.bad (b, m) = none → Ongoing m := fun h => (bad_none_iff b _).1 h
  have off : ∀ {m : Scene}, sceneView.bad (b, m) ≠ none → ¬Ongoing m := fun h hm => h ((bad_none_iff b _).2 hm)
  unfold deliver deliveredPair
  refine tracks_getState_bind fun t ht => ?_
  obtain ⟨out, input⟩ := Pictures.buffers ht bus
  rw [out, input]
  dsimp only
  by_cases h : bus = .insert
  · simp only [if_pos h]
    exact (store hm _ .left _ hL).bind (fun h => congrArg _ (storing_of_halted (off h) _ _)) fun h =>
      store (on h) _ .right _ hR
  · simp only [if_neg h]
    refine (add hm _ .left _).bind (fun h => congrArg _ (adding_pair_of_halted (off h) _ _ _ _ _ _)) fun h => ?_
    refine (add (on h) _ .right _).bind (fun h => congrArg _ (storing_pair_of_halted (off h) _ _ _ _)) fun h => ?_
    exact (store (on h) _ .left 0 rfl).bind (fun h => congrArg _ (storing_of_halted (off h) _ _)) fun h =>
      store (on h) _ .right 0 rfl

/-- A frame's input pair. -/
theorem tracks_reading_bind {k : Word → Word → Cmd β} (hm : Ongoing m) (base : Word) (f : Nat)
    (hz : ¬Ongoing (m.reading base f) → z = (b, m.reading base f))
    (hk : Ongoing (m.reading base f) → ∀ l r : Word, l.toInt = m.ram (frameAddr base f 0) →
      r.toInt = m.ram (frameAddr base f 1) → Tracks sceneView (k l r) (b, m.reading base f) d z) :
    Tracks sceneView (memRead (frameAddress base (BitVec.ofNat 32 f) .left) >>= fun l =>
      memRead (frameAddress base (BitVec.ofNat 32 f) .right) >>= k l) (b, m) d z := by
  have left : (frameAddress base (BitVec.ofNat 32 f) .left).toNat = frameAddr base f 0 := frameAddress_eq base f .left
  have right : (frameAddress base (BitVec.ofNat 32 f) .right).toNat = frameAddr base f 1 := frameAddress_eq base f .right
  unfold Scene.reading at hz hk
  rw [access_of_ongoing hm] at hz hk
  refine tracks_read_bind hm _ (fun h => ?_) fun h l hl => ?_
  · rw [left] at h ⊢
    rw [if_pos (eq_true_of_ne_false h)] at hz
    exact hz h
  · rw [left] at h hl ⊢
    rw [if_neg (by rw [show (accessed m _).halted = false from h]; decide), access_of_ongoing h, id, ite_self] at hz hk
    refine tracks_read_bind h _ (fun h' => ?_) fun h' r hr => ?_
    · rw [right] at h' ⊢
      exact hz h'
    · rw [right] at h' hr ⊢
      exact hk h' l r hl hr

/-! ### Frames of a slot (R702, R771) -/

/-- The machine with another record in slot `i`. -/
def withRecord (s : State) (i : Nat) (x : Slot) (r : FxRecord) : State :=
  { s with slots := s.slots.set i { x with record := r } }

/-- What the frames of a slot need of its engine: a frame is a step of the statements, it keeps the lines in their
places and the parameters, and it is what the slot runs. -/
structure EngineRule (s : State) {R : Type} (step : R → Int → Int → Scene → (Int × Int) × R × Scene)
    (frame : R → Int → Int → Cmd (Int × Int × R)) (mk : R → FxRecord) (params : R → FxParams) : Prop where
  paints : ∀ slots r xL xR m t, AllLaid { s with slots := slots } (mk r) → Pictures { s with slots := slots } m t →
    Paints { s with slots := slots } (frame r xL xR) m
      ((step r xL xR m).1.1, (step r xL xR m).1.2, (step r xL xR m).2.1) (step r xL xR m).2.2
  runs : ∀ {words : Nat} {A : Nat → Bool}, words ≤ 2 ^ 24 → ∀ r xL xR, (∀ l ∈ recordLines (mk r), LineIn words A l) →
    Runs words A (frame r xL xR) fun o => SameLines words (recordLines (mk r)) (recordLines (mk o.2.2))
  kept : ∀ r xL xR m, params (step r xL xR m).2.1 = params r
  slot : ∀ (t : State) i xL xR r, (t.slotAt i).record = mk r → hasEngine (t.slotAt i) = true →
    slotFrame i xL xR t = (frame r xL xR >>= fun w => finishFrame i (params r) xL xR w.1 w.2.1 (mk w.2.2)) t

variable {R : Type} {step : R → Int → Int → Scene → (Int × Int) × R × Scene}
  {frame : R → Int → Int → Cmd (Int × Int × R)} {mk : R → FxRecord} {params : R → FxParams} {i : Nat} {x : Slot}

/-- What a triple says of a command that a scene describes. -/
theorem Paints.of_runs {c : Cmd α} {a : α} {m' : Scene} {t : State} {A : Nat → Bool} {Q : α → Prop}
    (hp : Paints b c m a m') (hr : Runs b.sramWords A c Q) (ht : Pictures b m t) :
    Q a ∧ m'.size = m.size ∧ ∀ w, A w = false → m'.ram w = m.ram w := by
  obtain ⟨u, run, hu⟩ := hp.2 t ht
  obtain ⟨a', mem, k, run', hq, out, -⟩ := hr t ht.sramWords
  rw [run] at run'
  injection run' with ha hs
  subst ha
  refine ⟨hq, hu.size.trans ht.size.symm, fun w hw => ?_⟩
  have word : u.sramWord w = t.sramWord w := memWord_congr _ _ _ _ fun k h0 h1 => by
    rw [hs]
    exact out k (by rw [show k / 4 = w by omega]; exact hw)
  rw [← hu.ram w, ← ht.ram w]
  exact congrArg BitVec.toInt word

theorem Tracks.congr {c c' : Cmd α} {p q : State × Scene} {a : α} (h : Tracks sceneView c' p a q)
    (hc : ∀ t, sceneView.shows p t → c t = c' t) : Tracks sceneView c p a q := by
  intro t ht
  rw [hc t ht]
  exact h t ht

theorem paints_dryWet (p : FxParams) (x w : Int) {r : Int × Scene} (e : blended x (par p 0) w (par p 1) m = r) :
    Paints b (dryWet p x w) m r.1 r.2 := by
  subst e
  refine (paints_fmul 16 _ _).bind ((paints_fmul 16 _ _).bind (Paints.cast (paints_sat32 _) rfl ?_))
  rw [noting_noting, noting_noting]
  rfl

theorem tracks_setRecord (hx : s.slots[i]? = some x) (r r' : FxRecord) (hm : Ongoing m) :
    Tracks sceneView (setRecord i r') (withRecord s i x r, m) () (withRecord s i x r', m) := by
  have hi := slot_lt hx
  intro t ht
  obtain ⟨size, ⟨mem, rfl⟩, ram⟩ : Pictures _ _ _ := ht
  refine ⟨fun _ => ⟨_, update_run _ _, size, ⟨mem, ?_⟩, ram⟩, fun a ha => ?_⟩
  · have slots : (withRecord s i x r).slots.modify i (fun y => { y with record := r' }) = (withRecord s i x r').slots := by
      rw [modify_slots (List.getElem?_set_self hi)]
      exact List.set_set ..
    show State.ranged _ (State.narrowed _ { withRecord s i x r with
      sram := mem, slots := (withRecord s i x r).slots.modify i _ }) = _
    rw [slots]
    rfl
  · have none := (bad_none_iff s m).2 hm
    exact absurd (ha.symm.trans none) nofun

theorem blended_word (x g y h : Int) (m : Scene) : (wordOf (blended x g y h m).1).toInt = (blended x g y h m).1 :=
  wordOf_narrow_toInt _

/-- What the frames of a slot start from: the slot holds the record, whose lines are allocated. -/
structure SlotHolds (s : State) (i : Nat) (x : Slot) (r : FxRecord) : Prop where
  slot : s.slots[i]? = some x
  engine : hasEngine x = true
  small : s.sramWords ≤ 2 ^ 24
  lines : ∀ l ∈ recordLines r, lineOk s.sramWords l = true

theorem SlotHolds.laid {r : FxRecord} (h : SlotHolds s i x r) : AllLaid (withRecord s i x r) r :=
  fun l hl => ⟨h.small, h.lines l hl⟩

theorem SlotHolds.next {r r' : FxRecord} (h : SlotHolds s i x r)
    (hs : SameLines s.sramWords (recordLines r) (recordLines r')) : SlotHolds s i x r' := by
  obtain ⟨slot, engine, small, lines⟩ := h
  refine ⟨slot, engine, small, fun l hl => ?_⟩
  exact (sameLines_in (A := fun _ => true) hs (fun l hl => ⟨lines l hl, fun _ _ => rfl⟩) l hl).ok

/-- The engine's part of a frame and its mix with the input. -/
theorem tracks_slotFrame (E : EngineRule s step frame mk params) {r : R} (h : SlotHolds s i x (mk r)) {t : State}
    (ht : Pictures (withRecord s i x (mk r)) m t) (hm : Ongoing m) (xL xR : Int) {w : (Int × Int) × R × Scene}
    (e : step r xL xR m = w) {yL yR : Int × Scene} (eL : blended xL (par (params r) 0) w.1.1 (par (params r) 1) w.2.2 = yL)
    (eR : blended xR (par (params r) 0) w.1.2 (par (params r) 1) yL.2 = yR) :
    Tracks sceneView (slotFrame i xL xR) (withRecord s i x (mk r), m) (yL.1, yR.1)
      (withRecord s i x (mk w.2.1), yR.2) ∧ Ongoing yR.2 ∧
      SlotHolds s i x (mk w.2.1) := by
  have run := E.paints _ r xL xR m t h.laid ht
  have keep := run.of_runs (A := fun _ => true)
    (E.runs h.small r xL xR fun l hl => ⟨h.lines l hl, fun _ _ => rfl⟩) ht
  obtain ⟨lines, size, -⟩ := keep
  rw [e] at run lines size
  have mixed := fun b : State => paints_dryWet (b := b) (m := w.2.2) (params r) xL w.1.1 eL
  have mixed' := fun b : State => paints_dryWet (b := b) (m := yL.2) (params r) xR w.1.2 eR
  have sizeL : yL.2.size = w.2.2.size := by
    rw [← eL]
    rfl
  have sizeR : yR.2.size = yL.2.size := by
    rw [← eR]
    rfl
  have on : ∀ {m m' : Scene}, Ongoing m → m'.words = m.words → m'.size = m.size → Ongoing m' := by
    intro m m' hm hw hs
    unfold Ongoing Scene.halted
    rw [hw, hs]
    exact hm
  have onW := on hm run.1 size
  have onL := on onW (mixed s).1 sizeL
  have onR := on onL (mixed' s).1 sizeR
  refine ⟨?_, onR, h.next lines⟩
  refine Tracks.congr (c' := frame r xL xR >>= fun w => finishFrame i (params r) xL xR w.1 w.2.1 (mk w.2.2)) ?_ fun t ht => ?_
  · have alive : ∀ {b : State} {m : Scene}, Ongoing m → ¬sceneView.bad (b, m) ≠ none :=
      fun hm h => h ((bad_none_iff _ _).2 hm)
    refine (run.tracks hm size).bind (fun h => absurd h (alive onW)) fun _ => ?_
    refine (tracks_setRecord h.slot (mk r) (mk w.2.1) onW).bind (fun h => absurd h (alive onW)) fun _ => ?_
    refine ((mixed _).tracks onW sizeL).bind (fun h => absurd h (alive onL)) fun _ => ?_
    refine ((mixed' _).tracks onL sizeR).bind (fun h => absurd h (alive onR)) fun _ => ?_
    exact tracks_pure _ ((bad_none_iff _ _).2 onR)
  · obtain ⟨-, ⟨mem, rfl⟩, -⟩ : Pictures _ _ _ := ht
    have here : State.slotAt (((State.narrowed m.checks { withRecord s i x (mk r) with sram := mem })).ranged m.outside) i =
        { x with record := mk r } := slotAt_of (List.getElem?_set_self (slot_lt h.slot))
    exact E.slot _ i xL xR r (by rw [here]) (by rw [here]; exact h.engine)

theorem Pictures.slotAt {t : State} {r : FxRecord} (h : Pictures (withRecord s i x r) m t) (hx : s.slots[i]? = some x) :
    t.slotAt i = { x with record := r } := by
  obtain ⟨-, ⟨mem, rfl⟩, -⟩ := h
  exact slotAt_of (List.getElem?_set_self (slot_lt hx))

theorem inputBase_withRecord (s : State) (i : Nat) (x : Slot) (r : FxRecord) (bus : FxBus) :
    inputBase (withRecord s i x r) bus = inputBase s bus := by
  cases bus <;> rfl

theorem deliveredPair_withRecord (s : State) (i : Nat) (x : Slot) (r : FxRecord) (bus : FxBus) (f : Nat) (y : Int × Int)
    (m : Scene) : deliveredPair (withRecord s i x r) bus f y m = deliveredPair s bus f y m := by
  unfold deliveredPair
  rw [inputBase_withRecord]
  rfl

theorem tracks_deliver_withRecord (hm : Ongoing m) (r : FxRecord) (bus : FxBus) (f : Nat) {yL yR : Int}
    (hL : (wordOf yL).toInt = yL) (hR : (wordOf yR).toInt = yR) :
    Tracks sceneView (deliver bus (BitVec.ofNat 32 f) yL yR) (withRecord s i x r, m) ()
      (withRecord s i x r, deliveredPair s bus f (yL, yR) m) := by
  rw [← deliveredPair_withRecord s i x r]
  exact tracks_deliver hm bus f hL hR

theorem slotStep_of_halted {r : R} {p : FxParams} {bus : FxBus} {f : Nat}
    (h : ¬Ongoing (m.reading (inputBase s bus) f)) :
    slotStep step p s bus f r m = (r, m.reading (inputBase s bus) f) := if_pos (eq_true_of_ne_false h)

theorem slotStep_of_ongoing {r : R} {p : FxParams} {bus : FxBus} {f : Nat}
    (h : Ongoing (m.reading (inputBase s bus) f)) {xL xR : Int} (hL : xL = m.ram (frameAddr (inputBase s bus) f 0))
    (hR : xR = m.ram (frameAddr (inputBase s bus) f 1)) :
    let w := step r xL xR (m.reading (inputBase s bus) f)
    let yL := blended xL (par p 0) w.1.1 (par p 1) w.2.2
    let yR := blended xR (par p 0) w.1.2 (par p 1) yL.2
    slotStep step p s bus f r m = (w.2.1, deliveredPair s bus f (yL.1, yR.1) yR.2) := by
  subst hL hR
  exact if_neg (by rw [show (m.reading (inputBase s bus) f).halted = false from h]; decide)

/-- One frame of a slot (R771). -/
theorem tracks_processFrame (E : EngineRule s step frame mk params) {r : R} (h : SlotHolds s i x (mk r))
    (hm : Ongoing m) (f : Nat) {w : R × Scene} (e : slotStep step (params r) s x.bus f r m = w) :
    Tracks sceneView (processFrame i (BitVec.ofNat 32 f)) (withRecord s i x (mk r), m) ()
      (withRecord s i x (mk w.1), w.2) := by
  unfold processFrame
  refine tracks_getState_bind fun t ht => ?_
  have ht : Pictures (withRecord s i x (mk r)) m t := ht
  rw [ht.slotAt h.slot]
  dsimp only
  rw [(ht.buffers x.bus).2, inputBase_withRecord]
  refine tracks_reading_bind hm _ f (fun halted => ?_) fun on l r' hl hr => ?_
  · rw [← e, slotStep_of_halted halted]
  · obtain ⟨run, going, -⟩ := tracks_slotFrame E h (ht.reading _ f) on l.toInt r'.toInt rfl rfl rfl
    rw [slotStep_of_ongoing on hl hr] at e
    subst e
    refine run.bind (fun bad => absurd ((bad_none_iff _ _).2 going) bad) fun _ => ?_
    exact tracks_deliver_withRecord going _ x.bus f (wordOf_narrow_toInt _) (wordOf_narrow_toInt _)

/-- A slot goes on holding a record after a frame. -/
theorem slotHolds_slotStep (E : EngineRule s step frame mk params) {r : R} (h : SlotHolds s i x (mk r)) {t : State}
    (ht : Pictures (withRecord s i x (mk r)) m t) (f : Nat) :
    SlotHolds s i x (mk (slotStep step (params r) s x.bus f r m).1) := by
  by_cases on : Ongoing (m.reading (inputBase s x.bus) f)
  · rw [slotStep_of_ongoing on rfl rfl]
    exact (tracks_slotFrame E h (ht.reading _ f) on _ _ rfl rfl rfl).2.2
  · rw [slotStep_of_halted on]
    exact h

theorem params_slotStep (E : EngineRule s step frame mk params) (r : R) (p : FxParams) (bus : FxBus) (f : Nat)
    (m : Scene) : params (slotStep step p s bus f r m).1 = params r := by
  by_cases on : Ongoing (m.reading (inputBase s bus) f)
  · rw [slotStep_of_ongoing on rfl rfl]
    exact E.kept ..
  · rw [slotStep_of_halted on]

theorem slotSteps_of_halted {p : FxParams} {bus : FxBus} {r : R} (h : ¬Ongoing m) (cnt : Nat) :
    ∀ f, slotSteps step p s bus cnt f r m = (r, m) := by
  induction cnt with
  | zero => exact fun _ => rfl
  | succ cnt ih =>
    intro f
    have read := reading_of_halted h (inputBase s bus) f
    have step' : slotStep step p s bus f r m = (r, m) := (slotStep_of_halted (by rwa [read])).trans (by rw [read])
    unfold slotSteps
    rw [step']
    exact ih _

theorem processFrames_ofNat_succ (i cnt f : Nat) : processFrames i (cnt + 1) (BitVec.ofNat 32 f) =
    (processFrame i (BitVec.ofNat 32 f) >>= fun _ => processFrames i cnt (BitVec.ofNat 32 (f + 1))) := by
  rw [BitVec.ofNat_add]
  rfl

/-- The frames of a slot. -/
theorem tracks_processFrames (E : EngineRule s step frame mk params) (cnt : Nat) : ∀ (r : R) (m : Scene) (f : Nat),
    SlotHolds s i x (mk r) → Ongoing m →
    Tracks sceneView (processFrames i cnt (BitVec.ofNat 32 f)) (withRecord s i x (mk r), m) ()
      (withRecord s i x (mk (slotSteps step (params r) s x.bus cnt f r m).1),
        (slotSteps step (params r) s x.bus cnt f r m).2) := by
  induction cnt with
  | zero => exact fun r m f _ hm => tracks_pure () ((bad_none_iff _ _).2 hm)
  | succ cnt ih =>
    intro r m f h hm t ht
    refine (?_ : Tracks sceneView _ _ _ _) t ht
    rw [processFrames_ofNat_succ]
    unfold slotSteps
    have first := tracks_processFrame E h hm f rfl
    have holds := slotHolds_slotStep E h ht f
    have same := params_slotStep E r (params r) x.bus f m
    generalize slotStep step (params r) s x.bus f r m = w at first holds same
    obtain ⟨r', m'⟩ := w
    dsimp only at first holds same ⊢
    rw [← same]
    refine first.bind (fun bad => ?_) fun good => ih r' m' (f + 1) holds ((bad_none_iff _ _).1 good)
    rw [slotSteps_of_halted fun on => bad ((bad_none_iff _ _).2 on)]

/-! ### The command -/

theorem pictures_sceneOf (s : State) : Pictures s (sceneOf s) s := ⟨rfl, ⟨s.sram, rfl⟩, fun _ => rfl⟩

/-- What the command leaves is what the statements say it leaves. -/
theorem sceneDone_of_tracks {c : Cmd Unit} (h : Tracks sceneView c (s, sceneOf s) () (b, m)) : SceneDone b m (runCmd c s) := by
  obtain ⟨done, halts⟩ := h s (pictures_sceneOf s)
  have size : m.size = b.sramWords := by
    rcases hb : sceneView.bad (b, m) with _ | a
    · obtain ⟨u, -, hu⟩ := done hb
      exact Pictures.size hu
    · obtain ⟨u, -, hu⟩ := halts a hb
      exact Pictures.size hu
  have first : (m.words.find? fun a => decide (b.sramWords ≤ a)) = sceneView.bad (b, m) := by
    rw [← size]
    rfl
  unfold SceneDone
  dsimp only
  rw [first]
  rcases hb : sceneView.bad (b, m) with _ | a
  · obtain ⟨u, run, -, ⟨mem, rfl⟩, ram⟩ := done hb
    exact ⟨_, runCmd_of_ok run, ram, rfl⟩
  · obtain ⟨u, run, -, ⟨mem, rfl⟩, ram⟩ := halts a hb
    exact ⟨_, runCmd_of_error run, ram, rfl⟩

theorem withRecord_same (hx : s.slots[i]? = some x) : withRecord s i x x.record = s := by
  have slots : s.slots.set i x = s.slots := by
    obtain ⟨hi, e⟩ := List.getElem?_eq_some_iff.1 hx
    rw [← e]
    exact List.set_getElem_self hi
  show { s with slots := s.slots.set i x } = s
  rw [slots]

theorem runCmd_congr {c c' : Cmd Unit} (h : c s = c' s) : runCmd c s = runCmd c' s := by
  unfold runCmd
  rw [h]

/-- FXPROC on a slot that is not built first and accesses its buffers. -/
theorem exec_fxproc_frames (hx : s.slots[i]? = some x) (hn : needsInit x = false)
    (hp : ¬(passThrough x = true ∧ x.bus = .insert)) (rs1 rs2 : Nat) : exec (.fxproc rs1 rs2 i) s =
      runCmd (processFrames i (s.reg rs2).toNat (BitVec.ofNat 32 (s.reg rs1).toNat)) s := by
  rw [exec_fxproc hx, BitVec.ofNat_toNat, BitVec.setWidth_eq]
  refine runCmd_congr ((bind_of_ok (lazyInit_keeps hx hn)).trans ?_)
  unfold procFrames
  rw [bind_of_ok (getState_run s), slotAt_of hx, if_neg hp]

/-- FXPROC on a slot that makes no access. -/
theorem exec_fxproc_quiet (hx : s.slots[i]? = some x) (hn : needsInit x = false)
    (hp : passThrough x = true ∧ x.bus = .insert) (rs1 rs2 : Nat) :
    exec (.fxproc rs1 rs2 i) s = .next (completeCommand s) := by
  rw [exec_fxproc hx]
  refine runCmd_of_ok ((bind_of_ok (lazyInit_keeps hx hn)).trans ?_)
  unfold procFrames
  rw [bind_of_ok (getState_run s), slotAt_of hx, if_pos hp]
  rfl

theorem passThrough_eq_false (he : hasEngine x = true) (hb : x.record ≠ .bypassed) : passThrough x = false := by
  unfold passThrough
  rw [he, beq_eq_false_iff_ne.2 hb]
  rfl

theorem needsInit_eq_false (hr : x.record ≠ .empty) : needsInit x = false := by
  unfold needsInit
  rw [beq_eq_false_iff_ne.2 hr]
  rfl

theorem slotHolds_of_runnable (hx : s.slots[i]? = some x) (he : hasEngine x = true) (hw : s.sramWords ≤ 2 ^ 24)
    (hr : x.record ≠ .empty) (h : slotRunnable s x = true) : SlotHolds s i x x.record := by
  unfold slotRunnable at h
  rw [needsInit_eq_false hr] at h
  exact ⟨hx, he, hw, List.all_eq_true.1 h⟩

/-- FXPROC on a slot that holds an engine's record. -/
theorem framesDone (E : EngineRule s step frame mk params) (h : SlotHolds s i x x.record) {r : R} (hr : x.record = mk r)
    (hb : x.record ≠ .bypassed) (hn : x.record ≠ .empty) (rs1 rs2 : Nat) :
    FramesDone step (params r) mk s x i (s.reg rs1).toNat (s.reg rs2).toNat r (exec (.fxproc rs1 rs2 i) s) := by
  have same := withRecord_same h.slot
  have holds : SlotHolds s i x (mk r) := hr ▸ h
  have run := tracks_processFrames E (s.reg rs2).toNat r (sceneOf s) (s.reg rs1).toNat holds rfl
  have built : ¬(passThrough x = true ∧ x.bus = .insert) := fun hp => by
    rw [passThrough_eq_false h.engine hb] at hp
    exact absurd hp.1 (by decide)
  rw [← hr, same] at run
  rw [exec_fxproc_frames h.slot (needsInit_eq_false hn) built]
  exact sceneDone_of_tracks run

/-! ### The engines -/

/-- The frame of a record's engine, mixed with its input. -/
def recordFrame (i : Nat) (xL xR : Int) : FxRecord → Cmd (Int × Int)
  | .empty => pure (xL, xR)
  | .bypassed => pure (xL, xR)
  | .freeverb r => freeverbFrame r xL xR >>= fun w => finishFrame i r.params xL xR w.1 w.2.1 (.freeverb w.2.2)
  | .plate r => plateFrame r xL xR >>= fun w => finishFrame i r.params xL xR w.1 w.2.1 (.plate w.2.2)
  | .chorus r => chorusFrame r xL xR >>= fun w => finishFrame i r.params xL xR w.1 w.2.1 (.chorus w.2.2)
  | .hexa r => hexaFrame r xL xR >>= fun w => finishFrame i r.params xL xR w.1 w.2.1 (.hexa w.2.2)

theorem slotFrame_of {t : State} {xL xR : Int} {rec : FxRecord} (hr : (t.slotAt i).record = rec)
    (he : hasEngine (t.slotAt i) = true) (hb : rec ≠ .bypassed) : slotFrame i xL xR t = recordFrame i xL xR rec t := by
  subst hr
  unfold slotFrame
  rw [bind_of_ok (getState_run t)]
  dsimp only
  rw [if_neg (by rw [passThrough_eq_false he hb]; decide)]
  cases (t.slotAt i).record <;> rfl

theorem freeverb_rule (s : State) :
    EngineRule s freeverbStep freeverbFrame .freeverb FreeverbRec.params where
  paints _ r xL xR _ _ h _ := paints_freeverbFrame r xL xR h rfl
  runs hw r xL xR h := runs_freeverbFrame hw r xL xR h
  kept _ _ _ _ := rfl
  slot _ _ _ _ _ hr he := slotFrame_of hr he nofun

theorem chorus_rule (s : State) : EngineRule s (chorusStep s) chorusFrame .chorus ChorusRec.params where
  paints _ r xL xR _ _ h _ := paints_chorusFrame r xL xR h rfl
  runs hw r xL xR h := runs_chorusFrame hw r xL xR h
  kept _ _ _ _ := rfl
  slot _ _ _ _ _ hr he := slotFrame_of hr he nofun

theorem hexa_rule (s : State) : EngineRule s (hexaStep s) hexaFrame .hexa HexaRec.params where
  paints _ r xL xR _ _ h _ := paints_hexaFrame r xL xR h rfl
  runs hw r xL xR h := runs_hexaFrame hw r xL xR h
  kept _ _ _ _ := rfl
  slot _ _ _ _ _ hr he := slotFrame_of hr he nofun

/-! The plate's step depends on SAMPLE_RATE and the sine table only. -/

theorem swungLattice_slots (s : State) (slots : List Slot) :
    swungLattice { s with slots := slots } = swungLattice s := rfl

theorem tankHalf_slots (s : State) (slots : List Slot) :
    tankHalf { s with slots := slots } = tankHalf s := rfl

theorem plateNetworkStep_slots (s : State) (slots : List Slot) :
    plateNetworkStep { s with slots := slots } = plateNetworkStep s := by
  unfold plateNetworkStep
  rw [tankHalf_slots]
  rfl

theorem tapsSum_slots (s : State) (slots : List Slot) : tapsSum { s with slots := slots } = tapsSum s := rfl

theorem plateStep_slots (s : State) (slots : List Slot) : plateStep { s with slots := slots } = plateStep s := by
  unfold plateStep
  rw [plateNetworkStep_slots, tapsSum_slots]

theorem plate_rule (s : State) : EngineRule s (plateStep s) plateFrame .plate PlateRec.params where
  paints slots r xL xR m t h ht := by
    have small : s.sramWords ≤ 2 ^ 24 := (h r.id1 (List.mem_append_right _ List.mem_cons_self)).1
    have network := paints_plateNetwork (b := { s with slots := slots }) (m := m) r xL xR h rfl
    have lines := (network.of_runs (A := fun _ => true)
      (runs_plateNetwork small _ r xL xR fun l hl => ⟨(h l hl).2, fun _ _ => rfl⟩) ht).1
    have laid : AllLaid { s with slots := slots } (.plate (plateNetworkStep { s with slots := slots } r xL xR m).1) :=
      fun l hl => ⟨small, (sameLines_in (A := fun _ => true) lines (fun l hl => ⟨(h l hl).2, fun _ _ => rfl⟩) l hl).ok⟩
    rw [← plateStep_slots s slots]
    exact paints_plateFrame r xL xR h laid rfl rfl
  runs hw r xL xR h := runs_plateFrame hw r xL xR h
  kept _ _ _ _ := rfl
  slot _ _ _ _ _ hr he := slotFrame_of hr he nofun

/-- Settles O57. -/
theorem freeverbFrames : Obligations.FreeverbFrames := by
  intro s x r rs1 rs2 i hx hw he hr h
  have built : x.record ≠ .empty := by
    rw [hr]
    exact nofun
  refine framesDone (freeverb_rule s) (slotHolds_of_runnable hx he hw built h) hr ?_ built rs1 rs2
  rw [hr]
  exact nofun

/-- Settles O58. -/
theorem plateFrames : Obligations.PlateFrames := by
  intro s x r rs1 rs2 i hx hw he hr h
  have built : x.record ≠ .empty := by
    rw [hr]
    exact nofun
  refine framesDone (plate_rule s) (slotHolds_of_runnable hx he hw built h) hr ?_ built rs1 rs2
  rw [hr]
  exact nofun

end Sys2Proof.Proofs
end

section
/-! PROOFS. The choruses: FXPROC on a slot that holds one, and why a stereo chorus as FXINIT builds it reads no tap outside
its lines (46_effects.md R750 to R752, R755, R756). -/

namespace Sys2Proof.Proofs

open Sys2Proof.Machine Sys2Proof.Claims

-- Proofs elaborated one after another need less memory.
set_option Elab.async false

variable {s : State} {m : Scene}

/-! ### What the buffers leave of the operands tested -/

theorem outside_access {use : Scene → Scene} (hu : ∀ m, (use m).outside = m.outside) (m : Scene) (a : Nat) :
    (m.access a use).outside = m.outside := by
  by_cases hm : Ongoing m
  · rw [access_of_ongoing hm]
    split
    · rfl
    · exact hu _
  · rw [access_of_halted hm]

theorem outside_reading (m : Scene) (base : Word) (f : Nat) : (m.reading base f).outside = m.outside :=
  outside_access (fun _ => outside_access (fun _ => rfl) _ _) m _

theorem outside_storing (m : Scene) (a : Nat) (v : Int) : (m.storing a v).outside = m.outside :=
  outside_access (use := fun m => m.put a v) (fun _ => rfl) m a

theorem outside_adding (m : Scene) (a : Nat) (v : Int) : (m.adding a v).outside = m.outside :=
  outside_access (use := fun m => (m.noting [m.ram a + v]).put a (narrow (m.ram a + v))) (fun _ => rfl) m a

theorem outside_deliveredPair (s : State) (bus : FxBus) (f : Nat) (y : Int × Int) (m : Scene) :
    (deliveredPair s bus f y m).outside = m.outside := by
  unfold deliveredPair
  dsimp only
  split
  · rw [outside_storing, outside_storing]
  · rw [outside_storing, outside_storing, outside_adding, outside_adding]

theorem outside_blended (x g y h : Int) (m : Scene) : (blended x g y h m).2.outside = m.outside := rfl

/-! ### A chorus as built -/

/-- The delays of a stereo chorus reach at most two frames less than its lines, and its LFO is in its cycle. -/
structure ChorusBuilt (r : ChorusRec) : Prop where
  delay : 65536 ≤ parU r.params 2
  fits : parU r.params 2 + parU r.params 3 < 2 ^ 32
  count : r.c < parU r.params 4
  left : r.xl.len.toNat = (parU r.params 2 + parU r.params 3) / 2 ^ 16 + 2
  right : r.xr.len.toNat = (parU r.params 2 + parU r.params 3) / 2 ^ 16 + 2

theorem lfoAt_unipolar (h : SineUnipolar s) {c cycle : Nat} (hc : c < cycle) :
    0 ≤ lfoAt s c cycle ∧ lfoAt s c cycle ≤ 65536 := by
  have index : c * 512 / cycle < 512 := Nat.div_lt_of_lt_mul (by omega)
  have entry := h _ index
  have bound := BitVec.toInt_eq_toNat_of_lt (x := s.tramWord (2048 + c * 512 / cycle)) (by omega)
  show 0 ≤ BitVec.toInt _ ∧ BitVec.toInt _ ≤ 65536
  rw [bound]
  omega

/-- The depth of the modulation swings between 0 and itself. -/
theorem swing_bounds {depth : Nat} {v : Int} (h0 : 0 ≤ v) (h1 : v ≤ 65536) :
    0 ≤ narrow (scaled 16 depth v) ∧ narrow (scaled 16 depth v) ≤ depth := by
  have scale : scaled 16 depth v = (depth : Int) * v / 65536 := Int.fdiv_eq_ediv_of_nonneg _ (by decide)
  have low : 0 ≤ (depth : Int) * v := Int.mul_nonneg (by omega) h0
  have high : (depth : Int) * v ≤ depth * 65536 := Int.mul_le_mul_of_nonneg_left h1 (by omega)
  rw [scale]
  generalize (depth : Int) * v = q at low high
  unfold narrow clamp
  omega

theorem outside_chorusSide (hs : SineUnipolar s) {p : FxParams} {l : Line} (hd : 65536 ≤ parU p 2)
    (hl : l.len.toNat = (parU p 2 + parU p 3) / 2 ^ 16 + 2) {c : Nat} (hc : c < parU p 4) (h x : Int) (m : Scene) :
    (chorusSide s p l h x c m).2.2.outside = m.outside := by
  obtain ⟨low, high⟩ := lfoAt_unipolar hs hc
  obtain ⟨low, high⟩ := swing_bounds (depth := parU p 3) low high
  have inside : 1 ≤ ((parU p 2 : Int) + narrow (scaled 16 (parU p 3) (lfoAt s c (parU p 4)))) / 2 ^ 16 ∧
      ((parU p 2 : Int) + narrow (scaled 16 (parU p 3) (lfoAt s c (parU p 4)))) / 2 ^ 16 ≤ (l.len.toNat : Int) - 1 := by
    rw [hl]
    generalize narrow (scaled 16 (parU p 3) (lfoAt s c (parU p 4))) = q at low high
    omega
  show (m.outside || decide (¬_)) = m.outside
  rw [decide_eq_false (not_not.2 inside), Bool.or_false]

theorem chorusStep_built (hs : SineUnipolar s) {r : ChorusRec} (h : ChorusBuilt r) (xL xR : Int) (m : Scene) :
    ChorusBuilt (chorusStep s r xL xR m).2.1 ∧ (chorusStep s r xL xR m).2.2.outside = m.outside := by
  obtain ⟨delay, fits, count, left, right⟩ := h
  refine ⟨⟨delay, fits, Nat.mod_lt _ (by omega), left, right⟩, ?_⟩
  exact (outside_chorusSide hs delay right (Nat.mod_lt _ (by omega)) _ _ _).trans
    (outside_chorusSide hs delay left count _ _ _)

/-- No frame of a chorus as built reads a tap outside its lines. -/
theorem outside_slotSteps (hs : SineUnipolar s) (p : FxParams) (bus : FxBus) (cnt : Nat) : ∀ (f : Nat) (r : ChorusRec)
    (m : Scene), ChorusBuilt r → (slotSteps (chorusStep s) p s bus cnt f r m).2.outside = m.outside := by
  induction cnt with
  | zero => exact fun _ _ _ _ => rfl
  | succ cnt ih =>
    intro f r m h
    have frame : ChorusBuilt (slotStep (chorusStep s) p s bus f r m).1 ∧
        (slotStep (chorusStep s) p s bus f r m).2.outside = m.outside := by
      by_cases on : Ongoing (m.reading (inputBase s bus) f)
      · rw [slotStep_of_ongoing on rfl rfl]
        obtain ⟨built, outside⟩ := chorusStep_built hs h (m.ram (frameAddr (inputBase s bus) f 0))
          (m.ram (frameAddr (inputBase s bus) f 1)) (m.reading (inputBase s bus) f)
        refine ⟨built, ?_⟩
        dsimp only
        rw [outside_deliveredPair, outside_blended, outside_blended, outside, outside_reading]
      · rw [slotStep_of_halted on]
        exact ⟨h, outside_reading ..⟩
    unfold slotSteps
    generalize slotStep (chorusStep s) p s bus f r m = w at frame
    obtain ⟨r', m'⟩ := w
    obtain ⟨built, outside⟩ := frame
    exact (ih (f + 1) r' m' built).trans outside

/-- What a command narrows sets SAT, and a halt FATAL, and nothing else. -/
theorem flags_of_done {t : State} (hm : m.outside = false) {o : Host.Outcome State Fault Refusal} (h : SceneDone t m o) :
    ∃ u, o = .next u ∧ u.status &&& 15 = t.status &&& 15 ||| u.status &&& 1 := by
  obtain ⟨u, run, -, rest⟩ := h
  have status : ∃ k : Word, u.status = t.status ||| k ∧ k &&& 15 = k &&& 1 := by
    rw [hm] at rest
    have sat : ∃ k : Word, satIf m.checks t.status = t.status ||| k ∧ (k = 0 ∨ k = 1) := by
      unfold satIf
      split
      · exact ⟨0, BitVec.or_zero.symm, .inl rfl⟩
      · exact ⟨1, rfl, .inr rfl⟩
    obtain ⟨k, e, hk⟩ := sat
    split at rest
    · refine ⟨k ||| 16, ?_, ?_⟩
      · rw [rest, ← BitVec.or_assoc, ← e]
        rfl
      · rcases hk with rfl | rfl <;> rfl
    · refine ⟨k, ?_, ?_⟩
      · rw [rest, ← e]
        rfl
      · rcases hk with rfl | rfl <;> rfl
  obtain ⟨k, hk, low⟩ := status
  refine ⟨u, run, ?_⟩
  rw [hk, BitVec.and_or_distrib_right, BitVec.and_or_distrib_right, low, ← BitVec.or_assoc, ← BitVec.and_or_distrib_left]
  rfl

/-- Settles O59. -/
theorem chorusFrames : Obligations.ChorusFrames := by
  intro s x rs1 rs2 i hx hw he h
  refine ⟨fun r hr => ?_, fun r hr => ?_⟩
  · have built : x.record ≠ .empty ∧ x.record ≠ .bypassed := by
      rw [hr]
      exact ⟨nofun, nofun⟩
    have frames := framesDone (chorus_rule s) (slotHolds_of_runnable hx he hw built.1 h) hr built.2 built.1 rs1 rs2
    have done : SceneDone _ _ _ := frames
    refine ⟨frames, fun sine hb => ?_⟩
    obtain ⟨delay, fits, count, left, right⟩ := of_decide_eq_true hb
    have flags := flags_of_done (outside_slotSteps sine _ _ _ _ r _ ⟨delay, fits, count, left, right⟩) done
    exact flags
  · have built : x.record ≠ .empty ∧ x.record ≠ .bypassed := by
      rw [hr]
      exact ⟨nofun, nofun⟩
    exact framesDone (hexa_rule s) (slotHolds_of_runnable hx he hw built.1 h) hr built.2 built.1 rs1 rs2

end Sys2Proof.Proofs
end

section
/-! PROOFS. FXPROC on a slot that passes its input through (46_effects.md R703, R709, R771). -/

namespace Sys2Proof.Proofs

open Sys2Proof.Machine Sys2Proof.Claims

-- Proofs elaborated one after another need less memory.
set_option Elab.async false

variable {s : State} {m : Scene} {i : Nat} {x : Slot}

theorem slotFrame_passes {t : State} (hp : passThrough (t.slotAt i) = true) (xL xR : Int) :
    slotFrame i xL xR t = .ok (xL, xR) t := by
  unfold slotFrame
  rw [bind_of_ok (getState_run t)]
  dsimp only
  rw [if_pos hp]
  rfl

theorem pictures_slotAt {t : State} (h : Pictures s m t) (hx : s.slots[i]? = some x) : t.slotAt i = x := by
  obtain ⟨-, ⟨mem, rfl⟩, -⟩ := h
  exact slotAt_of hx

theorem passedSteps_of_halted (h : ¬Ongoing m) (bus : FxBus) (cnt : Nat) : ∀ f, passedSteps s bus cnt f m = m := by
  induction cnt with
  | zero => exact fun _ => rfl
  | succ cnt ih =>
    intro f
    unfold passedSteps
    dsimp only
    rw [reading_of_halted h, deliveredPair_of_halted h, ih]

/-- One frame of a pass-through slot. -/
theorem tracks_passFrame (hx : s.slots[i]? = some x) (hp : passThrough x = true) (hm : Ongoing m) (f : Nat) :
    Tracks sceneView (processFrame i (BitVec.ofNat 32 f)) (s, m) ()
      (s, deliveredPair s x.bus f (m.ram (frameAddr (inputBase s x.bus) f 0), m.ram (frameAddr (inputBase s x.bus) f 1))
        (m.reading (inputBase s x.bus) f)) := by
  unfold processFrame
  refine tracks_getState_bind fun t ht => ?_
  have ht : Pictures s m t := ht
  rw [pictures_slotAt ht hx]
  dsimp only
  rw [(ht.buffers x.bus).2]
  refine tracks_reading_bind hm _ f (fun halted => by rw [deliveredPair_of_halted halted]) fun on l r hl hr => ?_
  rw [← hl, ← hr]
  have frame : Tracks sceneView (slotFrame i l.toInt r.toInt) (s, m.reading (inputBase s x.bus) f) (l.toInt, r.toInt)
      (s, m.reading (inputBase s x.bus) f) :=
    Tracks.congr (tracks_pure _ ((bad_none_iff _ _).2 on)) fun t ht =>
      slotFrame_passes (by rw [pictures_slotAt ht hx]; exact hp) _ _
  refine frame.bind (fun bad => absurd ((bad_none_iff _ _).2 on) bad) fun _ => ?_
  exact tracks_deliver on x.bus f (by rw [wordOf, BitVec.ofInt_toInt]) (by rw [wordOf, BitVec.ofInt_toInt])

theorem tracks_passFrames (hx : s.slots[i]? = some x) (hp : passThrough x = true) (cnt : Nat) : ∀ (f : Nat) (m : Scene),
    Ongoing m → Tracks sceneView (processFrames i cnt (BitVec.ofNat 32 f)) (s, m) () (s, passedSteps s x.bus cnt f m) := by
  induction cnt with
  | zero => exact fun f m hm => tracks_pure () ((bad_none_iff _ _).2 hm)
  | succ cnt ih =>
    intro f m hm
    rw [processFrames_ofNat_succ]
    refine (tracks_passFrame hx hp hm f).bind (fun bad => ?_) fun good => ih _ _ ((bad_none_iff _ _).1 good)
    exact congrArg _ (passedSteps_of_halted (fun on => bad ((bad_none_iff _ _).2 on)) _ _ _)

theorem passThrough_of (h : hasEngine x = false ∨ x.record = .bypassed) : passThrough x = true ∧ needsInit x = false := by
  unfold passThrough needsInit
  rcases h with h | h
  · rw [h]
    exact ⟨rfl, Bool.and_false _⟩
  · rw [h]
    exact ⟨Bool.or_true _, rfl⟩

theorem passed_done (hx : s.slots[i]? = some x) (h : hasEngine x = false ∨ x.record = .bypassed) (hb : x.bus ≠ .insert)
    (rs1 rs2 : Nat) : SceneDone s (passedSteps s x.bus (s.reg rs2).toNat (s.reg rs1).toNat (sceneOf s))
      (exec (.fxproc rs1 rs2 i) s) := by
  obtain ⟨hp, hn⟩ := passThrough_of h
  rw [exec_fxproc_frames hx hn fun h => hb h.2]
  exact sceneDone_of_tracks (tracks_passFrames hx hp _ _ _ rfl)

/-! ### Words in range -/

theorem put_self {ram : Ram} {a : Nat} {v : Int} : ram.put a v a = v := if_pos rfl

theorem put_ne {ram : Ram} {a c : Nat} {v : Int} (h : c ≠ a) : ram.put a v c = ram c := if_neg h

/-- What accesses inside sample RAM make of a scene: its words, numbers narrowed and sample RAM. -/
structure Leaves (m m' : Scene) (checks : List Int) (ram : Ram) : Prop where
  going : Ongoing m'
  size : m'.size = m.size
  outside : m'.outside = m.outside
  checks : m'.checks = m.checks ++ checks
  ram : m'.ram = ram

theorem leaves_storing (hm : Ongoing m) {a : Nat} (ha : a < m.size) (v : Int) :
    Leaves m (m.storing a v) [] (m.ram.put a v) := by
  have on : Ongoing (accessed m a) := (ongoing_accessed_iff hm a).2 ha
  have e : m.storing a v = (accessed m a).put a v := by
    unfold Scene.storing
    rw [access_of_ongoing hm, if_neg (by rw [show (accessed m a).halted = false from on]; decide)]
  rw [e]
  exact ⟨on, rfl, rfl, (List.append_nil _).symm, rfl⟩

theorem leaves_adding (hm : Ongoing m) {a : Nat} (ha : a < m.size) (v : Int) :
    Leaves m (m.adding a v) [m.ram a + v] (m.ram.put a (narrow (m.ram a + v))) := by
  have on : Ongoing (accessed m a) := (ongoing_accessed_iff hm a).2 ha
  have e : m.adding a v = ((accessed m a).noting [m.ram a + v]).put a (narrow (m.ram a + v)) := by
    unfold Scene.adding
    rw [access_of_ongoing hm, if_neg (by rw [show (accessed m a).halted = false from on]; decide)]
    rfl
  rw [e]
  exact ⟨on, rfl, rfl, rfl, rfl⟩

theorem leaves_reading (hm : Ongoing m) {base : Word} {f : Nat} (h0 : frameAddr base f 0 < m.size)
    (h1 : frameAddr base f 1 < m.size) : Leaves m (m.reading base f) [] m.ram := by
  have on := (ongoing_accessed_iff hm _).2 h0
  have on' : Ongoing (accessed (accessed m (frameAddr base f 0)) (frameAddr base f 1)) := (ongoing_accessed_iff on _).2 h1
  have e : m.reading base f = accessed (accessed m (frameAddr base f 0)) (frameAddr base f 1) := by
    unfold Scene.reading
    rw [access_of_ongoing hm, if_neg (by rw [show (accessed m _).halted = false from on]; decide), access_of_ongoing on,
      if_neg (by rw [show (accessed (accessed m _) _).halted = false from on']; decide)]
    rfl
  rw [e]
  exact ⟨on', rfl, rfl, (List.append_nil _).symm, rfl⟩

theorem Leaves.then {m m' m'' : Scene} {vs ws : List Int} {ram ram' : Ram} (h : Leaves m m' vs ram)
    (h' : Leaves m' m'' ws ram') : Leaves m m'' (vs ++ ws) ram' := by
  obtain ⟨-, size, outside, checks, -⟩ := h
  obtain ⟨going, size', outside', checks', ram'⟩ := h'
  refine ⟨going, size'.trans size, outside'.trans outside, ?_, ram'⟩
  rw [checks', checks, List.append_assoc]

theorem Leaves.at {m' : Scene} {vs : List Int} {ram : Ram} (h : Leaves m m' vs ram) {a : Nat} (ha : a < m.size) :
    a < m'.size := by rwa [h.size]

theorem frameAddr_inside {base : Word} {f side words : Nat} (h : base.toNat + 2 * f + 2 ≤ words) (hw : words ≤ 2 ^ 24)
    (hs : side < 2) : frameAddr base f side = base.toNat + 2 * f + side := Nat.mod_eq_of_lt (by omega)

/-- A pair drained from a bus to the output block. -/
theorem leaves_deliveredPair {bus : FxBus} (hb : bus ≠ .insert) {f : Nat} {y : Int × Int} (hm : Ongoing m)
    (h : ∀ side < 2, frameAddr s.outBase f side < m.size ∧ frameAddr (inputBase s bus) f side < m.size)
    (hn : frameAddr s.outBase f 1 ≠ frameAddr s.outBase f 0) :
    let o := frameAddr s.outBase f
    let a := frameAddr (inputBase s bus) f
    Leaves m (deliveredPair s bus f y m) [m.ram (o 0) + y.1, m.ram (o 1) + y.2]
      ((((m.ram.put (o 0) (narrow (m.ram (o 0) + y.1))).put (o 1) (narrow (m.ram (o 1) + y.2))).put (a 0) 0).put (a 1) 0) := by
  intro o a
  obtain ⟨out0, src0⟩ := h 0 (by decide)
  obtain ⟨out1, src1⟩ := h 1 (by decide)
  have l1 := leaves_adding hm out0 y.1
  have l2 := leaves_adding l1.going (l1.at out1) y.2
  have l12 := l1.then l2
  have l3 := leaves_storing l12.going (l12.at src0) 0
  have l123 := l12.then l3
  have l4 := leaves_storing l123.going (l123.at src1) 0
  have all := l123.then l4
  have kept : (m.ram.put (o 0) (narrow (m.ram (o 0) + y.1))) (o 1) = m.ram (o 1) := if_neg hn
  rw [l3.ram, l2.ram, l1.ram, kept] at all
  unfold deliveredPair
  simp only [if_neg hb]
  exact all

theorem passedSteps_one (s : State) (bus : FxBus) (f : Nat) (m : Scene) : passedSteps s bus 1 f m =
    deliveredPair s bus f (m.ram (frameAddr (inputBase s bus) f 0), m.ram (frameAddr (inputBase s bus) f 1))
      (m.reading (inputBase s bus) f) := rfl

/-- A command whose accesses lie in sample RAM completes. -/
theorem completed_of_leaves {m' : Scene} {vs : List Int} {ram : Ram} (h : Leaves (sceneOf s) m' vs ram)
    {o : Host.Outcome State Fault Refusal} (done : SceneDone s m' o) :
    ∃ t, o = .next t ∧ (∀ a, ramOf t a = ram a) ∧
      t = { s with sram := t.sram, status := satIf vs s.status, cmdSeq := s.cmdSeq + 1 } := by
  obtain ⟨going, size, outside, checks, rfl⟩ := h
  have none := (bad_none_iff s m').2 going
  obtain ⟨t, run, mem, rest⟩ := done
  have first : (m'.words.find? fun a => decide (s.sramWords ≤ a)) = .none := by
    rw [← show m'.size = s.sramWords from size]
    exact none
  rw [first, outside, checks] at rest
  exact ⟨t, run, mem, rest⟩

/-- Settles O55. -/
theorem passThroughResults : Obligations.PassThroughResults := by
  refine ⟨fun s => ⟨rfl, rfl, rfl, rfl⟩, fun s x rs1 rs2 i hx h => ⟨fun hb => ?_, fun hb _ => ?_, fun hb one hw => ?_⟩⟩
  · obtain ⟨hp, hn⟩ := passThrough_of h
    exact exec_fxproc_quiet hx hn ⟨hp, hb⟩ rs1 rs2
  · exact passed_done hx h hb rs1 rs2
  · intro off bus out sumL sumR hbus hout apart
    have done := passed_done hx h hb rs1 rs2
    have size : (sceneOf s).size = s.sramWords := rfl
    have outAt : ∀ side < 2, frameAddr s.outBase off side = out + side := fun side hs =>
      frameAddr_inside (by omega) hw hs
    have busAt : ∀ side < 2, frameAddr (inputBase s x.bus) off side = bus + side := fun side hs =>
      frameAddr_inside (by omega) hw hs
    have out0 := outAt 0 (by decide)
    have out1 := outAt 1 (by decide)
    have bus0 := busAt 0 (by decide)
    have bus1 := busAt 1 (by decide)
    rw [Nat.add_zero] at out0 bus0
    have read := leaves_reading (m := sceneOf s) rfl (base := inputBase s x.bus) (f := off)
      (by rw [bus0, size]; omega) (by rw [bus1, size]; omega)
    have pair := leaves_deliveredPair (s := s) hb (f := off)
      (y := ((sceneOf s).ram (frameAddr (inputBase s x.bus) off 0), (sceneOf s).ram (frameAddr (inputBase s x.bus) off 1)))
      read.going (fun side hs => by
        rw [outAt side hs, busAt side hs, read.size, size]
        omega) (by rw [out0, out1]; omega)
    have all := read.then pair
    rw [read.ram, out0, out1, bus0, bus1] at all
    rw [one, show (1 : Word).toNat = 1 from rfl, passedSteps_one, bus0, bus1] at done
    obtain ⟨t, run, mem, rest⟩ := completed_of_leaves all done
    refine ⟨t, run, rest, ramOf_word ((mem out).trans ?_), ramOf_word ((mem (out + 1)).trans ?_),
      ramOf_word ((mem bus).trans ?_), ramOf_word ((mem (bus + 1)).trans ?_), fun b hbus' hout' =>
        sramByte_of_ramOf ((mem (b / 4)).trans ?_)⟩
    · rw [put_ne (by omega), put_ne (by omega), put_ne (by omega), put_self]
      exact (wordOf_narrow_toInt _).symm
    · rw [put_ne (by omega), put_ne (by omega), put_self]
      exact (wordOf_narrow_toInt _).symm
    · rw [put_ne (by omega), put_self]
      rfl
    · rw [put_self]
      rfl
    · rw [put_ne (by omega), put_ne (by omega), put_ne (by omega), put_ne (by omega)]
      rfl

end Sys2Proof.Proofs
end

section
/-! PROOFS. FXPROC on any slot that can run: the slot built first if it is empty, then frames that stay in sample RAM
(46_effects.md R708, R771). -/

namespace Sys2Proof.Proofs

open Sys2Proof.Machine Sys2Proof.Claims

-- Proofs elaborated one after another need less memory.
set_option Elab.async false

variable {s : State} {x : Slot} {i : Nat}

/-! ### FXINIT, then the frames (R708) -/

theorem engineFresh_ne_empty (x : Slot) (ls : List Line) : engineFresh x ls ≠ .empty := by
  unfold engineFresh
  split <;> nofun

/-- What a build that does not halt leaves: another record, which is not empty, and no register changed. -/
theorem buildSlot_cases (hx : s.slots[i]? = some x) (he : hasEngine x = true) :
    (∃ mem y, buildSlot i s = .ok () { s with sram := mem, slots := s.slots.set i y } ∧ y.record ≠ .empty) ∨
      ∃ e u, buildSlot i s = .error e (takeFatal e u) := by
  have run := buildSlot_run s x i hx he
  dsimp only at run
  split at run
  · exact .inl ⟨s.sram, { x with used := 0, record := .bypassed }, run, nofun⟩
  · split at run
    · exact .inl ⟨_, _, run, engineFresh_ne_empty _ _⟩
    · exact .inr ⟨_, _, run⟩

theorem needsInit_iff (x : Slot) : needsInit x = true ↔ x.record = .empty ∧ hasEngine x = true := by
  unfold needsInit
  rw [Bool.and_eq_true, beq_iff_eq]

/-- FXPROC goes on from what its lazy init leaves. -/
theorem exec_fxproc_of_init {u : State} {y : Slot} (hx : s.slots[i]? = some x) (run : lazyInit i s = .ok () u)
    (hy : u.slots[i]? = some y) (hn : needsInit y = false) (hr : u.regs = s.regs) (rs1 rs2 : Nat) :
    exec (.fxproc rs1 rs2 i) s = exec (.fxproc rs1 rs2 i) u := by
  have same : ∀ r, u.reg r = s.reg r := fun r => by
    unfold State.reg
    rw [hr]
  rw [exec_fxproc hx, exec_fxproc hy, same, same]
  unfold runCmd
  rw [bind_of_ok run, bind_of_ok (lazyInit_keeps hy hn)]

theorem fxproc_after_fxinit {t : State} (hx : s.slots[i]? = some x) (hn : needsInit x = true)
    (run : exec (.fxinit i) s = .next t) (ht : t.fatal = false) (rs1 rs2 : Nat) :
    exec (.fxproc rs1 rs2 i) s = exec (.fxproc rs1 rs2 i) { t with cmdSeq := s.cmdSeq } := by
  have hi := slot_lt hx
  have built := lazyInit_builds hx hn
  rcases buildSlot_cases hx ((needsInit_iff x).1 hn).2 with ⟨mem, y, e, hy⟩ | ⟨e, u, h⟩
  · have done := run.symm.trans (runCmd_of_ok ((withSlot_ok hi).trans e))
    injection done with done
    rw [done]
    exact exec_fxproc_of_init hx (built.trans e) (List.getElem?_set_self hi) (needsInit_eq_false hy) rfl rs1 rs2
  · have halts := run.symm.trans (runCmd_of_error ((withSlot_ok hi).trans h))
    injection halts with halts
    rw [halts, takeFatal_fatal] at ht
    cases ht

/-! ### A slot ready to run -/

/-- The slot after its lazy init, in the machine `s`: nothing else changed but the words it allocates. -/
theorem lazyInit_ready (hx : s.slots[i]? = some x) (hw : s.sramWords ≤ 2 ^ 24) (hr : slotRunnable s x = true)
    {A : Nat → Bool} (hA : ∀ a, slotWord s x a = true → A a = true) :
    ∃ mem y, lazyInit i s = .ok () (slotState s i mem 0 y) ∧ needsInit y = false ∧ Outside A s.sram mem ∧
      SlotKept s.sramWords A x y := by
  have flags : s.status ||| 0 = s.status := BitVec.or_zero
  have initial : slotState s i s.sram 0 x = s := by
    have slots := congrArg State.slots (withRecord_same hx)
    have slots : s.slots.set i x = s.slots := slots
    unfold slotState
    rw [slots, flags]
  cases hn : needsInit x with
  | false =>
    refine ⟨s.sram, x, (lazyInit_keeps hx hn).trans (by rw [initial]), hn, fun _ _ => rfl, rfl, rfl, rfl, rfl, rfl,
      fun l hl => ?_⟩
    unfold slotRunnable at hr
    unfold slotWord at hA
    rw [hn] at hr hA
    refine ⟨List.all_eq_true.1 hr l hl, fun a ha => hA a ?_⟩
    exact List.any_eq_true.2 ⟨l, hl, ha⟩
  | true =>
    have he := ((needsInit_iff x).1 hn).2
    have run := (lazyInit_builds hx hn).trans (buildSlot_run s x i hx he)
    unfold slotRunnable at hr
    unfold slotWord at hA
    rw [hn] at hr hA
    cases hv : engineValid x with
    | false =>
      refine ⟨s.sram, { x with used := 0, record := .bypassed }, run.trans ((if_pos hv).trans ?_), rfl,
        fun _ _ => rfl, rfl, rfl, rfl, rfl, rfl, nofun⟩
      unfold slotState
      rw [flags]
    | true =>
      rw [hv] at hr hA
      have ha : slotAllocates s x (engineLengths s.sampleRate.toNat x) = true := hr
      obtain ⟨bounds, -, fits⟩ := (slotAllocates_iff s x _).1 ha
      obtain ⟨-, inside⟩ := layLines_spec s.sramWords x.base.toNat _ hw fits _ x.base.toNat (Nat.le_refl _)
        (Nat.le_refl _) bounds
      have own : ∀ a, x.base.toNat ≤ a → a < x.base.toNat + (engineLengths s.sampleRate.toNat x).sum → A a = true :=
        fun a h0 h1 => hA a (decide_eq_true ⟨h0, h1⟩)
      refine ⟨memZeroWords s.sram x.base.toNat (engineLengths s.sampleRate.toNat x).sum, { x with
        used := BitVec.ofNat 32 (engineLengths s.sampleRate.toNat x).sum,
        record := engineFresh x (layLines x.base.toNat (engineLengths s.sampleRate.toNat x)) }, run.trans ((if_neg (by rw [hv]; decide)).trans ((if_pos ha).trans ?_)),
        needsInit_eq_false (engineFresh_ne_empty _ _), fun b hb => ?_, rfl, rfl, rfl, rfl, rfl, fun l hl => ?_⟩
      · unfold slotState
        rw [flags]
      · rw [memByte_memZeroWords, if_neg]
        intro h
        rw [own (b / 4) (by omega) (by omega)] at hb
        cases hb
      · rw [recordLines_engineFresh _ x _ he] at hl
        obtain ⟨ok, -, low, high⟩ := inside l hl
        refine ⟨ok, fun a h => ?_⟩
        have h := of_decide_eq_true h
        exact own a (by omega) (by omega)

/-- FXPROC on a slot ready to run is its frames from what the lazy init leaves. -/
theorem exec_fxproc_ready {mem : Memory} {y : Slot} (hx : s.slots[i]? = some x)
    (run : lazyInit i s = .ok () (slotState s i mem 0 y)) (hn : needsInit y = false) (rs1 rs2 : Nat) :
    exec (.fxproc rs1 rs2 i) s = exec (.fxproc rs1 rs2 i) (slotState s i mem 0 y) :=
  exec_fxproc_of_init hx run (List.getElem?_set_self (slot_lt hx)) hn rfl rs1 rs2

/-- Settles O56: the slot is made ready, and its frames are a triple over the buffers and the slot's own lines. -/
theorem effectProcessingCompletes : Obligations.EffectProcessingCompletes := by
  refine ⟨fun s t x rs1 rs2 i hx hn init ht => fxproc_after_fxinit hx hn init ht rs1 rs2,
    fun s x rs1 rs2 i hx hw hr input output => ?_⟩
  have hi := slot_lt hx
  let A : Nat → Bool := fun a => frameWord (inputBase s x.bus) (s.reg rs1).toNat (s.reg rs2).toNat a ||
    frameWord s.outBase (s.reg rs1).toNat (s.reg rs2).toNat a || slotWord s x a
  obtain ⟨mem, y, ready, hn, out, kept⟩ := lazyInit_ready (A := A) hx hw hr fun a h => by
    show (_ || _) = true
    rw [h, Bool.or_true]
  have hy : (slotState s i mem 0 y).slots[i]? = some y := List.getElem?_set_self hi
  have small := of_decide_eq_true output
  have buffers : BuffersIn s A x.bus (s.reg rs1).toNat (s.reg rs2).toNat :=
    ⟨input, output, fun a h => by show (_ || _ || _) = true; rw [h]; rfl,
      fun a h => by show (_ || _ || _) = true; rw [h, Bool.or_true]; rfl⟩
  have frames : ∃ m' k y', procFrames i (s.reg rs2).toNat (s.reg rs1) (slotState s i mem 0 y) =
      .ok () (slotState s i m' k y') ∧ SlotKept s.sramWords A x y' ∧ Outside A mem m' ∧ k &&& ~~~(5 : Word) = 0 := by
    unfold procFrames
    rw [bind_of_ok (getState_run _), slotAt_of hy]
    split
    · exact ⟨mem, 0, y, rfl, kept, fun _ _ => rfl, rfl⟩
    · obtain ⟨_, m', k, y', run, kept', out', mask⟩ := slotRuns_processFrames hi hw buffers (by omega) (s.reg rs2).toNat
        (f := s.reg rs1) (fun _ => ⟨Nat.le_refl _, Nat.le_refl _⟩) mem 0 y rfl kept
      exact ⟨m', k, y', run, kept', out', mask⟩
  obtain ⟨m', k, y', run, kept', out', mask⟩ := frames
  rw [exec_fxproc hx]
  refine ⟨_, y', runCmd_of_ok ((bind_of_ok ready).trans run), rfl, slotKept_eq kept', ⟨k, rfl, mask⟩,
    fun b hin hout hown => ?_⟩
  have alone : A (b / 4) = false := by
    show (_ || _ || _) = false
    rw [hin, hout, hown]
    rfl
  exact (out' b alone).trans (out b alone)

end Sys2Proof.Proofs
end

section
/-! The machine after reset (70_reset_and_hazards.md R900, R901). -/

namespace Sys2Proof.Proofs

open Sys2Proof.Machine Sys2Proof.Claims

-- Proofs elaborated one after another need less memory.
set_option Elab.async false

/-! ### What holds of every unit of a kind holds of the one that reset leaves -/

theorem eq_of_mem_reset_voices {v : Voice} (h : v ∈ State.reset.voices) : v = Voice.reset := List.eq_of_mem_replicate h

theorem eq_of_mem_reset_delays {d : DelayUnit} (h : d ∈ State.reset.delays) : d = DelayUnit.reset :=
  List.eq_of_mem_replicate h

theorem eq_of_mem_reset_lfos {l : LfoUnit} (h : l ∈ State.reset.lfos) : l = LfoUnit.reset := List.eq_of_mem_replicate h

theorem eq_of_mem_reset_slots {x : Slot} (h : x ∈ State.reset.slots) : x = Slot.reset := List.eq_of_mem_replicate h

theorem reset_memoryCanonical : MemoryCanonical State.reset := ⟨rfl, rfl⟩

theorem voiceOk_reset : voiceOk Voice.reset = true := by decide +kernel

theorem globalsOk_reset : globalsOk State.reset = true := by decide +kernel

theorem lfoOk_reset : lfoOk LfoUnit.reset = true := by decide

theorem reset_registersLegal : RegistersLegal State.reset :=
  ⟨globalsOk_reset, ⟨fun h => absurd h (by decide), fun h => absurd rfl h⟩,
    fun v hv => eq_of_mem_reset_voices hv ▸ voiceOk_reset,
    fun d hd => by rw [eq_of_mem_reset_delays hd]; decide,
    fun l hl => eq_of_mem_reset_lfos hl ▸ lfoOk_reset⟩

theorem reset_outputsUnipolar : OutputsUnipolar State.reset :=
  ⟨fun v hv => by rw [eq_of_mem_reset_voices hv]; decide, fun l hl => by rw [eq_of_mem_reset_lfos hl]; decide⟩

/-- An empty slot is allocated nothing. -/
theorem reset_linesAllocated : LinesAllocated State.reset := by
  refine ⟨by decide, fun d hd valid => ?_, fun x hx => ?_⟩
  · rw [eq_of_mem_reset_delays hd] at valid
    cases valid
  · rw [eq_of_mem_reset_slots hx]
    exact ⟨nofun, rfl, fun _ => rfl⟩

/-! ### The registers that reset to 0 -/

theorem readDelay_reset {off : Nat} (h : off < 8) : readDelay DelayUnit.reset off = 0 := by
  interval_cases off <;> rfl

theorem readLfo_reset {off : Nat} (h : off < 4) : readLfo LfoUnit.reset off = 0 := by
  interval_cases off <;> rfl

theorem readFilter_reset : ∀ off < 32, readFilter FilterUnit.reset off = 0 := by decide

theorem readSlot_reset : ∀ off < 64, readSlot Slot.reset off = 0 := by decide +kernel

/-- The one block that does not reset to 0 throughout. -/
theorem readVoiceReg_reset : ∀ off < 128,
    readVoiceReg Voice.reset off = if resetsToOne off then 0x10000 else 0 := by decide +kernel

/-- A block of a unit at reset reads as that unit, or as 0 where there is none. -/
theorem elim_replicate {α : Type} (n i : Nat) (a : α) {read : α → Word} (h : read a = 0) :
    ((List.replicate n a)[i]?).elim 0 read = 0 := by
  rw [List.getElem?_replicate]
  split
  · exact h
  · rfl

theorem readGlobal_reset {a : Nat} (h : a < 0x100)
    (unlisted : a ∉ [0x000, 0x002, 0x003, 0x004, 0x006, 0x007, 0x011, 0x012, 0x013]) : readGlobal State.reset a = 0 := by
  rcases Nat.lt_or_ge a 0x014 with low | high
  · interval_cases a <;> first | rfl | exact absurd unlisted (by decide)
  rcases Nat.lt_or_ge a 0x0F0 with gap | channel
  · exact readGlobal_gap ⟨high, gap⟩
  · obtain ⟨ch, rfl⟩ : ∃ ch : Fin 16, a = 0x0F0 + ch.val := ⟨⟨a - 0x0F0, by omega⟩, by simp only; omega⟩
    rw [← readControl_global h, readControl_chState]
    exact Vector.getElem_replicate ch.isLt

/-- Reset leaves every other register 0, region by region of the map. -/
theorem readControl_reset {a : Nat} (unlisted : a ∉ [0x000, 0x002, 0x003, 0x004, 0x006, 0x007, 0x011, 0x012, 0x013])
    (notOne : ¬ (0x1000 ≤ a ∧ a < 0x2000 ∧ resetsToOne (a % 128) = true)) : readControl State.reset a = 0 := by
  by_cases global : a < 0x100
  · rw [readControl_global global, readGlobal_reset global unlisted]
  by_cases delays : 0x400 ≤ a ∧ a < 0x600
  · rw [readControl_delays delays]
    exact elim_replicate _ _ _ (readDelay_reset (Nat.mod_lt _ (by decide)))
  by_cases lfos : 0x600 ≤ a ∧ a < 0x700
  · rw [readControl_lfos lfos]
    exact elim_replicate _ _ _ (readLfo_reset (Nat.mod_lt _ (by decide)))
  by_cases filters : 0x700 ≤ a ∧ a < 0x800
  · rw [readControl_filters filters]
    exact elim_replicate _ _ _ (readFilter_reset _ (Nat.mod_lt _ (by decide)))
  by_cases slots : 0x800 ≤ a ∧ a < 0xC00
  · rw [readControl_slots slots]
    exact elim_replicate _ _ _ (readSlot_reset _ (Nat.mod_lt _ (by decide)))
  by_cases voices : 0x1000 ≤ a ∧ a < 0x2000
  · rw [readControl_voices voices]
    refine elim_replicate _ _ _ ((readVoiceReg_reset _ (Nat.mod_lt _ (by decide))).trans (if_neg fun one => ?_))
    exact notOne ⟨voices.1, voices.2, by rwa [show a % 128 = (a - 0x1000) % 0x80 by omega]⟩
  · exact readControl_unmapped (by omega)

theorem readControl_reset_one {n off : Nat} (hn : n < 32) (h : resetsToOne off = true) :
    readControl State.reset (0x1000 + 128 * n + off) = 0x10000 := by
  have low : off < 128 := by
    unfold resetsToOne at h
    rw [decide_eq_true_eq] at h
    omega
  have hv : State.reset.voices[n]? = some Voice.reset := List.getElem?_replicate_of_lt hn
  rw [readControl_voice hn hv low, readVoiceReg_reset off low, if_pos h]

/-- Settles O16. -/
theorem resetState : Obligations.ResetState :=
  ⟨reset_memoryCanonical, reset_registersLegal, reset_outputsUnipolar, reset_linesAllocated,
    fun r => by
      show entry (Vector.replicate 16 0) r = 0
      unfold entry
      rw [Vector.getElem?_replicate]
      split <;> rfl,
    rfl, rfl, rfl, rfl, rfl, rfl, by decide +kernel, by decide +kernel, rfl,
    fun _ _ hn one => readControl_reset_one hn one, fun _ unlisted notOne => readControl_reset unlisted notOne⟩

end Sys2Proof.Proofs
end

section
/-! Lines stay allocated (41_delayline.md R350, R353; 46_effects.md R705 to R707, R716). -/

namespace Sys2Proof.Proofs

open Sys2Proof.Machine Sys2Proof.Claims

-- Proofs elaborated one after another need less memory.
set_option Elab.async false

variable {s t : State} {x : Slot} {i u words : Nat} {α β : Type}

/-! ### Counts of the effects -/

/-- Every value a body answers meets `Q`. -/
def Replies (c : Cmd α) (Q : α → Prop) : Prop := ∀ s a t, c s = .ok a t → Q a

theorem replies_pure {Q : α → Prop} {a : α} (h : Q a) : Replies (pure a) Q := by
  intro s b t e
  injection e with e
  exact e ▸ h

theorem replies_bind {c : Cmd α} {k : α → Cmd β} {Q : β → Prop} (h : ∀ a, Replies (k a) Q) : Replies (c >>= k) Q := by
  intro s b t e
  rw [bind_run] at e
  cases run : c s with
  | ok a u =>
    rw [run] at e
    exact h a u b t e
  | error f u =>
    rw [run] at e
    cases e

theorem replies_bind_of {c : Cmd α} {k : α → Cmd β} {P : α → Prop} {Q : β → Prop} (hc : Replies c P)
    (h : ∀ a, P a → Replies (k a) Q) : Replies (c >>= k) Q := by
  intro s b t e
  rw [bind_run] at e
  cases run : c s with
  | ok a u =>
    rw [run] at e
    exact h a (hc s a u run) u b t e
  | error f u =>
    rw [run] at e
    cases e

theorem replies_plateNetwork (rate : Nat) (r : PlateRec) (xL xR : Int) : Replies (plateNetwork rate r xL xR) fun o =>
    o.params = r.params ∧ o.c = (r.c + 1) % paramU r.params 10 := by
  unfold plateNetwork
  refine replies_bind fun _ => replies_bind fun _ => replies_bind fun _ => replies_bind fun _ => replies_bind fun _ =>
    replies_bind fun _ => replies_bind fun _ => replies_bind fun _ => replies_bind fun _ => replies_bind fun _ =>
    replies_bind fun _ => replies_bind fun _ => replies_bind fun _ => replies_bind fun _ => replies_bind fun _ => ?_
  exact replies_pure ⟨rfl, rfl⟩

theorem replies_plateFrame (r : PlateRec) (xL xR : Int) : Replies (plateFrame r xL xR) fun o =>
    o.2.2.params = r.params ∧ o.2.2.c = (r.c + 1) % paramU r.params 10 :=
  replies_bind fun _ => replies_bind_of (replies_plateNetwork _ r xL xR) fun _ count => replies_bind fun _ =>
    replies_pure count

theorem replies_chorusFrame (r : ChorusRec) (xL xR : Int) : Replies (chorusFrame r xL xR) fun o =>
    o.2.2.params = r.params ∧ o.2.2.c = (r.c + 1) % paramU r.params 4 :=
  replies_bind fun _ => replies_bind fun _ => replies_pure ⟨rfl, rfl⟩

theorem replies_hexaFrame (r : HexaRec) (xL xR : Int) : Replies (hexaFrame r xL xR) fun o =>
    o.2.2.params = r.params ∧ o.2.2.c = (r.c + 1) % paramU r.params 4 :=
  replies_bind fun _ => replies_bind fun _ => replies_bind fun _ => replies_bind fun _ => replies_bind fun _ =>
    replies_pure ⟨rfl, rfl⟩

/-! ### Slots -/

/-- The lines of a record are allocated and its count is in its cycle. -/
def RecordOk (words : Nat) (r : FxRecord) : Prop :=
  (∀ l ∈ recordLines r, lineOk words l = true) ∧ recordCountOk r = true

/-- The record of a slot is in order, and only an initialised slot has words in use. -/
def SlotOk (words : Nat) (x : Slot) : Prop := RecordOk words x.record ∧ (x.record.state ≠ 1 → x.used = 0)

theorem recordOk_empty (words : Nat) : RecordOk words .empty := ⟨nofun, rfl⟩

theorem slotOk_discarded (words : Nat) (x : Slot) : SlotOk words (discardSlot x) := ⟨recordOk_empty words, fun _ => rfl⟩

theorem slotOk_reset (words : Nat) : SlotOk words Slot.reset := ⟨recordOk_empty words, fun _ => rfl⟩

theorem linesAllocated_iff (s : State) : LinesAllocated s ↔ s.params.legal = true ∧
    (∀ d ∈ s.delays, d.valid = true → lineOk s.sramWords d.line = true) ∧ ∀ x ∈ s.slots, SlotOk s.sramWords x :=
  ⟨fun ⟨legal, delays, slots⟩ => ⟨legal, delays, fun x hx => ⟨⟨(slots x hx).1, (slots x hx).2.1⟩, (slots x hx).2.2⟩⟩,
    fun ⟨legal, delays, slots⟩ => ⟨legal, delays, fun x hx =>
      ⟨(slots x hx).1.1, (slots x hx).1.2, (slots x hx).2⟩⟩⟩

theorem small_of_legal {p : Params} (h : p.legal = true) : p.sramWords ≤ 2 ^ 24 := by
  unfold Params.legal at h
  rw [decide_eq_true_eq] at h
  exact h.2.2.2.2.2.2.2.2.2.2.2

theorem allocated_small (h : LinesAllocated s) : s.sramWords ≤ 2 ^ 24 := small_of_legal (p := s.params) h.1

theorem allocated_slotOk (h : LinesAllocated s) (hx : x ∈ s.slots) : SlotOk s.sramWords x :=
  ((linesAllocated_iff s).1 h).2.2 x hx

theorem allocated_slotAt (h : LinesAllocated s) (i : Nat) : SlotOk s.sramWords (s.slotAt i) := by
  unfold State.slotAt
  cases hx : s.slots[i]? with
  | none => exact slotOk_reset _
  | some x => exact allocated_slotOk h (List.mem_of_getElem? hx)

theorem mem_modify {l : List α} {f : α → α} {y : α} (h : y ∈ l.modify i f) : y ∈ l ∨ ∃ x, l[i]? = some x ∧ y = f x := by
  rw [List.modify_eq_set_getElem?] at h
  cases hx : l[i]? with
  | none =>
    rw [hx] at h
    exact .inl h
  | some x =>
    rw [hx] at h
    rcases List.mem_or_eq_of_mem_set h with h | h
    · exact .inl h
    · exact .inr ⟨x, rfl, h⟩

theorem allocated_modifySlot (h : LinesAllocated s) (i : Nat) {f : Slot → Slot}
    (hf : ∀ x, SlotOk s.sramWords x → SlotOk s.sramWords (f x)) :
    LinesAllocated { s with slots := s.slots.modify i f } := by
  obtain ⟨legal, delays, slots⟩ := (linesAllocated_iff s).1 h
  refine (linesAllocated_iff _).2 ⟨?_, delays, fun y hy => ?_⟩
  · unfold State.params at legal ⊢
    dsimp only
    rwa [List.length_modify]
  · rcases mem_modify hy with hy | ⟨x, hx, rfl⟩
    · exact slots y hy
    · exact hf x (slots x (List.mem_of_getElem? hx))

theorem allocated_setSlot (h : LinesAllocated s) (i : Nat) {x : Slot} (hx : SlotOk s.sramWords x) :
    LinesAllocated { s with slots := s.slots.set i x } := by
  obtain ⟨legal, delays, slots⟩ := (linesAllocated_iff s).1 h
  refine (linesAllocated_iff _).2 ⟨?_, delays, fun y hy => ?_⟩
  · unfold State.params at legal ⊢
    dsimp only
    rwa [List.length_set]
  · rcases List.mem_or_eq_of_mem_set hy with hy | rfl
    · exact slots y hy
    · exact hx

/-! ### Building a slot -/

theorem recordCountOk_engineFresh (he : hasEngine x = true) (hv : engineValid x = true) (ls : List Line) :
    recordCountOk (engineFresh x ls) = true := by
  rcases (hasEngine_iff x).1 he with h | h | h | h
  · rw [(build_freeverb 0 h).2.2]
    rfl
  · rw [(build_plate 0 h).1] at hv
    rw [(build_plate 0 h).2.2]
    exact decide_eq_true (of_decide_eq_true hv).1
  · rw [(build_chorus 0 h).1] at hv
    rw [(build_chorus 0 h).2.2]
    exact decide_eq_true (of_decide_eq_true hv).2.1
  · rw [(build_hexa 0 h).1] at hv
    rw [(build_hexa 0 h).2.2]
    exact decide_eq_true (of_decide_eq_true hv).1

/-- Building a slot leaves it in order, also where the build halts. -/
theorem allocated_buildSlot (h : LinesAllocated s) (hx : s.slots[i]? = some x) :
    (∃ t, buildSlot i s = .ok () t ∧ LinesAllocated t) ∨
      ∃ len t, buildSlot i s = .error (.alloc len) (takeFatal (.alloc len) t) ∧ LinesAllocated t := by
  cases he : hasEngine x with
  | false => exact .inl ⟨_, buildSlot_without hx he, allocated_setSlot h i (slotOk_discarded _ x)⟩
  | true =>
    have run := buildSlot_run s x i hx he
    dsimp only at run
    cases hv : engineValid x with
    | false =>
      rw [if_pos hv] at run
      exact .inl ⟨_, run, allocated_setSlot h i ⟨⟨nofun, rfl⟩, fun _ => rfl⟩⟩
    | true =>
      rw [if_neg (by rw [hv]; decide)] at run
      split at run
      · next allocates =>
        refine .inl ⟨_, run, allocated_setSlot (s := { s with sram := _ }) h i ⟨⟨?_, recordCountOk_engineFresh he hv _⟩,
          fun hs => absurd (state_engineFresh _ _) hs⟩⟩
        obtain ⟨bounds, -, fits⟩ := (slotAllocates_iff s x _).1 allocates
        obtain ⟨-, inside⟩ := layLines_spec s.sramWords x.base.toNat _ (allocated_small h) fits _ x.base.toNat (Nat.le_refl _)
          (Nat.le_refl _) bounds
        show ∀ l ∈ recordLines (engineFresh x (layLines x.base.toNat _)), _
        rw [recordLines_engineFresh _ x _ he]
        exact fun l hl => (inside l hl).1
      · exact .inr ⟨_, _, run, allocated_setSlot h i (slotOk_discarded _ x)⟩

theorem upholds_lazyInit (i : Nat) : Upholds LinesAllocated (lazyInit i) := by
  intro s h
  cases hx : s.slots[i]? with
  | none =>
    have empty : s.slotAt i = Slot.reset := by
      unfold State.slotAt
      rw [hx]
      rfl
    have run : lazyInit i s = .ok () s := by
      unfold lazyInit
      rw [bind_of_ok (getState_run s), empty]
      rfl
    rw [run]
    exact h
  | some x =>
    cases hn : needsInit x with
    | false =>
      rw [lazyInit_keeps hx hn]
      exact h
    | true =>
      rw [lazyInit_builds hx hn]
      rcases allocated_buildSlot h hx with ⟨t, run, ht⟩ | ⟨len, t, run, ht⟩ <;> rw [run]
      · exact ht
      · exact ⟨t, ht, rfl, nofun⟩

/-! ### Frames of a slot -/

theorem recordOk_of_next {words : Nat} {r r' : FxRecord} (h : RecordOk words r)
    (lines : SameLines words (recordLines r) (recordLines r')) (count : recordCountOk r' = true) : RecordOk words r' :=
  ⟨fun l hl => (sameLines_in (A := fun _ => true) lines (fun l hl => ⟨h.1 l hl, fun _ _ => rfl⟩) l hl).ok, count⟩

theorem allocated_finishFrame (p : FxParams) (xL xR wL wR : Int) {r : FxRecord} (hr : r.state = 1) (hs : LinesAllocated s)
    (h : RecordOk s.sramWords r) (i : Nat) : ∃ y t, finishFrame i p xL xR wL wR r s = .ok y t ∧ LinesAllocated t := by
  have set : LinesAllocated { s with slots := s.slots.modify i fun x => { x with record := r } } :=
    allocated_modifySlot hs i fun x _ => ⟨h, fun hn => absurd hr hn⟩
  obtain ⟨yL, mL, kL, runL, -, -, -⟩ := runs_dryWet (A := fun _ => true) p xL wL _ (rfl : State.sramWords { s with
    slots := s.slots.modify i fun x => { x with record := r } } = _)
  obtain ⟨yR, mR, kR, runR, -, -, -⟩ := runs_dryWet (A := fun _ => true) p xR wR _ (rfl : State.sramWords { s with
    slots := s.slots.modify i fun x => { x with record := r }, sram := mL, status := s.status ||| kL } = _)
  refine ⟨(yL, yR), _, ?_, (?_ : LinesAllocated { s with
    slots := s.slots.modify i fun x => { x with record := r }, sram := mR, status := s.status ||| kL ||| kR })⟩
  · unfold finishFrame setRecord
    rw [bind_of_ok (update_run _ _), bind_of_ok runL, bind_of_ok runR]
    rfl
  · exact set

/-- A frame of an engine leaves its record in order, and so its slot. -/
theorem allocated_engineFrame {R : Type} {frame : R → Int → Int → Cmd (Int × Int × R)} {mk : R → FxRecord} {r : R}
    {xL xR : Int} (p : FxParams) (i : Nat) (hs : LinesAllocated s) (h : RecordOk s.sramWords (mk r))
    (runs : Runs s.sramWords (fun _ => true) (frame r xL xR) fun o =>
      SameLines s.sramWords (recordLines (mk r)) (recordLines (mk o.2.2)))
    (count : Replies (frame r xL xR) fun o => recordCountOk (mk o.2.2) = true) (state : ∀ r, (mk r).state = 1) :
    ∃ y t, (frame r xL xR >>= fun w => finishFrame i p xL xR w.1 w.2.1 (mk w.2.2)) s = .ok y t ∧ LinesAllocated t := by
  obtain ⟨w, m, k, run, lines, -, -⟩ := runs s rfl
  have next : RecordOk s.sramWords (mk w.2.2) := recordOk_of_next h lines (count s w _ run)
  rw [bind_of_ok run]
  exact allocated_finishFrame (s := { s with sram := m, status := s.status ||| k }) p xL xR w.1 w.2.1 (state _) hs next i

theorem replies_mono {c : Cmd α} {P Q : α → Prop} (hc : Replies c P) (h : ∀ a, P a → Q a) : Replies c Q :=
  fun s a t e => h a (hc s a t e)

/-- Advancing a count keeps it in its cycle. -/
theorem advance_lt {c cycle : Nat} (h : c < cycle) : (c + 1) % cycle < cycle := Nat.mod_lt _ (by omega)

theorem allocated_recordFrame (i : Nat) (xL xR : Int) (hs : LinesAllocated s) {r : FxRecord} (h : RecordOk s.sramWords r) :
    ∃ y t, recordFrame i xL xR r s = .ok y t ∧ LinesAllocated t := by
  have small := allocated_small hs
  have inside : ∀ l ∈ recordLines r, LineIn s.sramWords (fun _ => true) l := fun l hl => ⟨h.1 l hl, fun _ _ => rfl⟩
  cases r with
  | empty => exact ⟨_, s, rfl, hs⟩
  | bypassed => exact ⟨_, s, rfl, hs⟩
  | freeverb r =>
    exact allocated_engineFrame r.params i hs h (runs_freeverbFrame small r xL xR inside) (fun _ _ _ _ => rfl) fun _ => rfl
  | plate r =>
    refine allocated_engineFrame r.params i hs h (runs_plateFrame small r xL xR inside)
      (replies_mono (replies_plateFrame r xL xR) ?_) fun _ => rfl
    rintro o ⟨params, count⟩
    show decide (o.2.2.c < _) = true
    rw [params, count]
    exact decide_eq_true (advance_lt (of_decide_eq_true h.2))
  | chorus r =>
    refine allocated_engineFrame r.params i hs h (runs_chorusFrame small r xL xR inside)
      (replies_mono (replies_chorusFrame r xL xR) ?_) fun _ => rfl
    rintro o ⟨params, count⟩
    show decide (o.2.2.c < _) = true
    rw [params, count]
    exact decide_eq_true (advance_lt (of_decide_eq_true h.2))
  | hexa r =>
    refine allocated_engineFrame r.params i hs h (runs_hexaFrame small r xL xR inside)
      (replies_mono (replies_hexaFrame r xL xR) ?_) fun _ => rfl
    rintro o ⟨params, count⟩
    show decide (o.2.2.c < _) = true
    rw [params, count]
    exact decide_eq_true (advance_lt (of_decide_eq_true h.2))

theorem upholds_slotFrame (i : Nat) (xL xR : Int) : Upholds LinesAllocated (slotFrame i xL xR) := by
  intro s hs
  by_cases pass : passThrough (s.slotAt i) = true
  · have run : slotFrame i xL xR s = .ok (xL, xR) s := by
      unfold slotFrame
      rw [bind_of_ok (getState_run s)]
      dsimp only
      rw [if_pos pass]
      rfl
    rw [run]
    exact hs
  · have quiet : hasEngine (s.slotAt i) = true ∧ (s.slotAt i).record ≠ .bypassed := by
      unfold passThrough at pass
      rw [Bool.or_eq_true, not_or, beq_iff_eq, Bool.not_eq_true', Bool.not_eq_false] at pass
      exact pass
    obtain ⟨y, t, run, ht⟩ := allocated_recordFrame i xL xR hs (allocated_slotAt hs i).1
    rw [slotFrame_of rfl quiet.1 quiet.2, run]
    exact ht

/-! ### Units and the rest -/

theorem tidy_linesAllocated : Tidy LinesAllocated where
  flag _ _ h := h
  word _ _ _ h := h
  zero _ _ _ h := h
  filter u f s h := by
    obtain ⟨legal, delays, slots⟩ := h
    refine ⟨?_, delays, slots⟩
    unfold State.params State.setFilter at *
    dsimp only
    rwa [List.length_set]

theorem tidyVoices_linesAllocated : TidyVoices LinesAllocated where
  toTidy := tidy_linesAllocated
  voice n f s h := by
    obtain ⟨legal, delays, slots⟩ := h
    refine ⟨?_, delays, slots⟩
    unfold State.params State.modifyVoice at *
    dsimp only
    rwa [List.length_modify]

theorem upholds_setLfo (u : Nat) (l : LfoUnit) : Upholds LinesAllocated (update (State.setLfo u l)) := by
  intro s h
  obtain ⟨legal, delays, slots⟩ := h
  refine ⟨?_, delays, slots⟩
  unfold State.params State.setLfo at *
  dsimp only
  rwa [List.length_set]

theorem allocated_setDelay (h : LinesAllocated s) (u : Nat) {d : DelayUnit} (hd : lineOk s.sramWords d.line = true) :
    LinesAllocated (State.setDelay u d s) := by
  obtain ⟨legal, delays, slots⟩ := h
  refine ⟨?_, fun d' hd' valid => ?_, slots⟩
  · unfold State.params State.setDelay at *
    dsimp only
    rwa [List.length_set]
  · rcases List.mem_or_eq_of_mem_set hd' with old | rfl
    · exact delays d' old valid
    · exact hd

/-! ### Commands -/

/-- A delay-line command on a unit that has no line. -/
theorem allocated_unconfigured (h : LinesAllocated s) (hd : ∀ d, s.delays[u]? = some d → d.valid = false)
    {body : DelayUnit → Cmd Unit} (he : runCmd (withDelay u body) s = .next t) : LinesAllocated t := by
  rw [runCmd_withDelay_unconfigured hd] at he
  injection he with he
  exact he ▸ h

theorem allocated_delay {i : Instr} (hw : writes i = .delay) (h : LinesAllocated s) (he : exec i s = .next t) :
    LinesAllocated t := by
  have small := allocated_small h
  have becomes : ∀ {v : State}, exec i s = .next v → LinesAllocated v → LinesAllocated t := by
    intro v e hv
    rw [e] at he
    injection he with he
    exact he ▸ hv
  have unit : ∀ u : Nat, (∀ d, s.delays[u]? = some d → d.valid = false) ∨
      ∃ d, s.delays[u]? = some d ∧ d.valid = true ∧ lineOk s.sramWords d.line = true := by
    intro u
    by_cases configured : ∃ d, s.delays[u]? = some d ∧ d.valid = true
    · obtain ⟨d, hd, hv⟩ := configured
      exact .inr ⟨d, hd, hv, h.2.1 d (List.mem_of_getElem? hd) hv⟩
    · exact .inl fun d hd => Bool.eq_false_iff.2 fun hv => configured ⟨d, hd, hv⟩
  cases i with
  | dlcfg a b u =>
    cases hd : s.delays[u]? with
    | none => exact becomes (exec_dlcfg_missing a b (List.getElem?_eq_none_iff.1 hd)) h
    | some d =>
      have run := exec_dlcfg a b hd
      split at run
      · next fits =>
        obtain ⟨low, high, inside⟩ := (allocates_iff _ _ _).1 fits
        have line : lineOk s.sramWords (configureDelay d (s.reg a) (s.reg b)).line = true :=
          decide_eq_true ⟨low, high, inside, low⟩
        exact becomes run (allocated_setDelay (s := { s with sram := _ }) h u line)
      · exact becomes run h
  | dlwr a u =>
    rcases unit u with off | ⟨d, hd, hv, hl⟩
    · exact allocated_unconfigured h off he
    · exact becomes (exec_dlwr a hd hv small hl)
        (allocated_setDelay (s := State.withSramWord _ _ s) h u (advanced_ok (words := s.sramWords) hl))
  | dlrd rd a u =>
    rcases unit u with off | ⟨d, hd, hv, hl⟩
    · exact allocated_unconfigured h off he
    · exact becomes (exec_dlrd rd a hd hv small hl) h
  | dlmrd rd a b u =>
    rcases unit u with off | ⟨d, hd, hv, hl⟩
    · exact allocated_unconfigured h off he
    · exact becomes (exec_dlmrd rd a b hd hv (lineInterp_ok _ _ _ hl small))
        (allocated_setDelay (s := State.ranged _ (State.narrowed _ s)) h u hl)
  | comb rd a u =>
    rcases unit u with off | ⟨d, hd, hv, hl⟩
    · exact allocated_unconfigured h off he
    · exact becomes (exec_comb rd a hd hv (combStep_ok _ _ _ _ hl small))
        (allocated_setDelay (s := State.withSramWord _ _ (State.narrowed _ s)) h u
          (advanced_ok (words := s.sramWords) hl))
  | apf rd a u =>
    rcases unit u with off | ⟨d, hd, hv, hl⟩
    · exact allocated_unconfigured h off he
    · exact becomes (exec_apf rd a hd hv (apfStep_ok _ _ hl small))
        (allocated_setDelay (s := State.withSramWord _ _ (State.narrowed _ s)) h u
          (advanced_ok (words := s.sramWords) hl))
  | _ => cases hw

theorem upholds_processFrame (i : Nat) (f : Word) : Upholds LinesAllocated (processFrame i f) :=
  upholds_bind upholds_getState fun _ => upholds_bind (upholds_memRead _) fun _ => upholds_bind (upholds_memRead _) fun _ =>
    upholds_bind (upholds_slotFrame i _ _) fun _ => tidy_linesAllocated.deliver _ _ _ _

theorem upholds_processFrames (i count : Nat) : ∀ f, Upholds LinesAllocated (processFrames i count f) := by
  induction count with
  | zero => exact fun _ => upholds_pure _
  | succ m ih => exact fun _ => upholds_bind (upholds_processFrame i _) fun _ => ih _

theorem concludes_fxinit (i : Nat) : Concludes LinesAllocated (withSlot i (buildSlot i)) := by
  intro s h
  by_cases hi : i < s.slots.length
  · rw [withSlot_ok hi]
    rcases allocated_buildSlot h (List.getElem?_eq_getElem hi) with ⟨t, run, ht⟩ | ⟨len, t, run, ht⟩ <;> rw [run]
    · exact ⟨t, ht, .inl rfl⟩
    · exact ⟨t, ht, rfl, nofun⟩
  · rw [withSlot_missing (Nat.le_of_not_lt hi)]
    exact ⟨s.withFlag .range, h, .inl rfl⟩

theorem slots_keep_allocated {i : Instr} (h : writes i = .slot) : RunsKeeping LinesAllocated i := by
  intro s
  have T := tidy_linesAllocated
  cases i with
  | fxinit i => exact ⟨_, rfl, concludes_fxinit i⟩
  | fxproc a b i =>
    refine ⟨_, rfl, ?_⟩
    exact T.withSlot i <| concludes_bind (upholds_readReg _) fun _ => concludes_bind (upholds_readReg _) fun _ =>
      concludes_bind (upholds_lazyInit _) fun _ => concludes_bind upholds_getState fun _ =>
        concludes_ite (upholds_pure _).concludes (upholds_processFrames _ _ _).concludes
  | fxfree i =>
    refine ⟨_, rfl, ?_⟩
    exact T.withSlot i <| Upholds.concludes fun s h => allocated_modifySlot h i fun x _ => slotOk_discarded _ x
  | _ => cases h

theorem allocated_exec {i : Instr} (hi : controlWrite s i = none) (h : LinesAllocated s) (he : exec i s = .next t) :
    LinesAllocated t := by
  have keeps : RunsKeeping LinesAllocated i → LinesAllocated t := fun R =>
    R.preserves (fun _ _ _ h => h) (fun _ h => h) (fun _ _ h => h) h he
  cases hw : writes i with
  | control => exact absurd hw (writes_ne_control hi)
  | delay => exact allocated_delay hw h he
  | lfo => exact keeps (lfo_keeps tidy_linesAllocated upholds_setLfo hw)
  | voice => exact keeps (voice_keeps tidyVoices_linesAllocated hw)
  | slot => exact keeps (slots_keep_allocated hw)
  | plain => exact keeps (plain_keeps tidy_linesAllocated hw)

/-! ### Writes of control registers -/

theorem writeDelay_valid (d : DelayUnit) (off : Nat) (v : Word) : (writeDelay d off v).valid = d.valid := by
  unfold writeDelay
  split <;> rfl

/-- A cursor written is reduced into its line. -/
theorem writeDelay_line {d : DelayUnit} (h : lineOk words d.line = true) (off : Nat) (v : Word) :
    lineOk words (writeDelay d off v).line = true := by
  unfold writeDelay
  split
  case h_1 =>
    obtain ⟨low, high, inside, -⟩ := of_decide_eq_true h
    refine decide_eq_true ⟨low, high, inside, ?_⟩
    have nonzero : d.line.len ≠ 0 := fun hz => by
      rw [hz] at low
      exact absurd low (by decide)
    have := Int.emod_nonneg v.toInt (b := (d.line.len.toNat : Int)) (by omega)
    have := Int.emod_lt_of_pos v.toInt (b := (d.line.len.toNat : Int)) (by omega)
    show (modOrZero v d.line.len).toNat < d.line.len.toNat
    rw [modOrZero_eq, if_neg nonzero, BitVec.toNat_ofInt]
    omega
  all_goals exact h

theorem slotOk_writeSlot {x : Slot} (h : SlotOk words x) (off : Nat) (v : Word) : SlotOk words (writeSlot x off v) := by
  unfold writeSlot
  split
  · split
    · exact h
    · exact slotOk_discarded _ x
  · cases FxBus.ofWord v <;> exact h
  · exact h
  · exact h
  · split <;> exact h

theorem resetBlock_params (s : State) : (resetBlock s).params = s.params := by
  unfold resetBlock State.resetWith State.params
  dsimp only
  simp only [List.length_replicate]

theorem allocated_resetBlock (h : LinesAllocated s) : LinesAllocated (resetBlock s) := by
  refine (linesAllocated_iff _).2 ⟨?_, fun d hd valid => ?_, fun x hx => ?_⟩
  · rw [resetBlock_params]
    exact h.1
  · rw [show d = DelayUnit.reset from List.eq_of_mem_replicate hd] at valid
    cases valid
  · rw [show x = Slot.reset from List.eq_of_mem_replicate hx]
    exact slotOk_reset _

theorem allocated_writeGlobal (h : LinesAllocated s) (a : Nat) (v : Word) : LinesAllocated (writeGlobal a v s) := by
  unfold writeGlobal
  split
  case h_9 =>
    split
    · exact allocated_resetBlock h
    · exact h
  case h_13 => split <;> exact h
  all_goals exact h

theorem allocated_writeControl (h : LinesAllocated s) (a : Nat) (v : Word) : LinesAllocated (writeControl a v s) := by
  have lengths : ∀ {t : State}, t.params = s.params → t.delays = s.delays → t.slots = s.slots → LinesAllocated t := by
    intro t params delays slots
    have words : t.sramWords = s.sramWords := congrArg Params.sramWords params
    unfold LinesAllocated
    rw [params, delays, slots, words]
    exact h
  unfold writeControl
  split_ifs
  · exact allocated_writeGlobal h a v
  · exact h
  · refine ⟨?_, fun d hd valid => ?_, h.2.2⟩
    · have legal := h.1
      unfold State.params at legal ⊢
      dsimp only
      rwa [List.length_modify]
    · rcases mem_modify hd with old | ⟨d', hd', e⟩
      · exact h.2.1 d old valid
      · rw [e] at valid ⊢
        rw [writeDelay_valid] at valid
        exact writeDelay_line (h.2.1 d' (List.mem_of_getElem? hd') valid) _ v
  · refine lengths ?_ rfl rfl
    unfold State.params
    dsimp only
    rw [List.length_modify]
  · refine lengths ?_ rfl rfl
    unfold State.params
    dsimp only
    rw [List.length_modify]
  · exact allocated_modifySlot h _ fun x hx => slotOk_writeSlot hx _ v
  · exact h
  · refine lengths ?_ rfl rfl
    unfold State.params
    dsimp only
    rw [List.length_modify]
  · exact h

/-- Settles O15. -/
theorem stepKeepsLinesAllocated : Obligations.StepKeepsLinesAllocated := by
  have rules : StepRules LinesAllocated LinesAllocated := {
    idle := fun _ h => h
    host := fun _ _ _ _ _ h => h
    control := fun a v _ h => allocated_writeControl h a v
    tram := fun _ _ _ h => h
    sram := fun _ _ _ h => h
    illegal := fun _ h => h
    complete := fun _ h => h
    command := fun _ _ _ hi hs he => allocated_exec hi hs he }
  exact fun s t hs h => rules.step hs h

end Sys2Proof.Proofs
end

section
/-! Voices stay within their legal values (10_state.md R82, R86 to R90; 44_envelope.md R502, R531, R542). -/

namespace Sys2Proof.Proofs

open Sys2Proof.Machine Sys2Proof.Claims

-- Proofs elaborated one after another need less memory.
set_option Elab.async false

variable {s : State} {v w : Voice} {uni : Prop}

/-! ### Words in a range -/

theorem toNat_ofInt_le {x : Int} {hi : Nat} (h0 : 0 ≤ x) (h1 : x ≤ hi) (hh : hi < 2 ^ 32) :
    (BitVec.ofInt 32 x).toNat ≤ hi := by
  rw [BitVec.toNat_ofInt]
  omega

theorem clampSigned_le {hi : Int} (v : Word) (n : Nat) (h0 : 0 ≤ hi) (hn : hi = n) (hh : n < 2 ^ 32) :
    (clampSigned v 0 hi).toNat ≤ n := by
  rw [clampSigned_eq v h0]
  have := clamp_mem h0 v.toInt
  exact toNat_ofInt_le this.1 (by omega) hh

theorem modOrZero_le (v len : Word) : (modOrZero v len).toNat ≤ len.toNat - 1 := by
  rw [modOrZero_eq]
  split
  · exact Nat.zero_le _
  · next h =>
    have pos : len.toNat ≠ 0 := fun hz => h (BitVec.eq_of_toNat_eq hz)
    have := Int.emod_nonneg v.toInt (b := (len.toNat : Int)) (by omega)
    have := Int.emod_lt_of_pos v.toInt (b := (len.toNat : Int)) (by omega)
    have := len.isLt
    exact toNat_ofInt_le (by omega) (by omega) (by omega)

/-! ### What is asked of a voice -/

/-- The registers of an envelope within their ranges. -/
def EnvFit (e : EnvRegs) : Prop :=
  e.value.toNat ≤ 0x3FFFFFFF ∧
    ∀ i : Fin 6, e.rate[i].toNat ≤ 0x3FFFFFFF ∧ e.offset[i].toNat ≤ 0x3FFFFFFF ∧ e.follow[i].toNat ≤ 2 ^ 24

/-- The legal registers of a voice; TREM_MUL too where `uni` holds. -/
structure VoiceFit (uni : Prop) (v : Voice) : Prop where
  ctrl : v.ctrl.toNat < 2 ^ 10
  env : EnvFit v.env
  menv : EnvFit v.menv
  menvOut : v.menvOut.toNat ≤ 65535
  depth : v.trem.depth.toNat ≤ 65536
  sweep : v.trem.sweepPos.toNat ≤ 65536
  mul : uni → v.trem.mul.toNat ≤ 65536
  pdly : v.pdly.len.toNat ≤ 256 ∧ v.pdly.wpt.toNat ≤ 255 ∧ v.pdly.rpt.toNat ≤ 255

theorem envOk_iff (e : EnvRegs) : envOk e = true ↔ EnvFit e := decide_eq_true_iff

theorem voiceFit_iff (uni : Prop) (v : Voice) :
    VoiceFit uni v ↔ voiceOk v = true ∧ (uni → v.trem.mul.toNat ≤ 65536) := by
  unfold voiceOk
  simp only [Bool.and_eq_true, decide_eq_true_eq, envOk_iff]
  constructor
  · rintro ⟨ctrl, env, menv, out, depth, sweep, mul, pdly⟩
    exact ⟨⟨⟨⟨⟨⟨ctrl, env⟩, menv⟩, out⟩, depth, sweep⟩, pdly⟩, mul⟩
  · rintro ⟨⟨⟨⟨⟨⟨ctrl, env⟩, menv⟩, out⟩, depth, sweep⟩, pdly⟩, mul⟩
    exact ⟨ctrl, env, menv, out, depth, sweep, mul, pdly⟩

theorem EnvFit.of_arrays {e e' : EnvRegs} (h : EnvFit e) (value : e'.value.toNat ≤ 0x3FFFFFFF) (rate : e'.rate = e.rate)
    (offset : e'.offset = e.offset) (follow : e'.follow = e.follow) : EnvFit e' := by
  refine ⟨value, fun i => ?_⟩
  rw [rate, offset, follow]
  exact h.2 i

/-- The registers that the ranges are about are the same. -/
theorem VoiceFit.same (h : VoiceFit uni v) (ctrl : w.ctrl = v.ctrl) (env : w.env = v.env) (menv : w.menv = v.menv)
    (out : w.menvOut = v.menvOut) (trem : w.trem = v.trem) (pdly : w.pdly = v.pdly) : VoiceFit uni w := by
  obtain ⟨hctrl, henv, hmenv, hout, hdepth, hsweep, hmul, hpdly⟩ := h
  refine ⟨?_, ?_, ?_, ?_, ?_, ?_, ?_, ?_⟩
  · rwa [ctrl]
  · rwa [env]
  · rwa [menv]
  · rwa [out]
  · rwa [trem]
  · rwa [trem]
  · rwa [trem]
  · rwa [pdly]

theorem VoiceFit.withEnv (h : VoiceFit uni v) {e : EnvRegs} (he : EnvFit e) : VoiceFit uni { v with env := e } :=
  ⟨h.ctrl, he, h.menv, h.menvOut, h.depth, h.sweep, h.mul, h.pdly⟩

theorem VoiceFit.withMenv (h : VoiceFit uni v) {e : EnvRegs} (he : EnvFit e) : VoiceFit uni { v with menv := e } :=
  ⟨h.ctrl, h.env, he, h.menvOut, h.depth, h.sweep, h.mul, h.pdly⟩

theorem VoiceFit.withCtrl (h : VoiceFit uni v) {c : Word} (hc : c.toNat < 2 ^ 10) : VoiceFit uni { v with ctrl := c } :=
  ⟨hc, h.env, h.menv, h.menvOut, h.depth, h.sweep, h.mul, h.pdly⟩

/-- A flag of V_CTRL raised. -/
theorem or_ctrl_lt {c m : Word} (hc : c.toNat < 2 ^ 10) (hm : m.toNat < 2 ^ 10) : (c ||| m).toNat < 2 ^ 10 := by
  rw [BitVec.toNat_or]
  exact Nat.or_lt_two_pow hc hm

theorem VoiceFit.reclaimed (h : VoiceFit uni v) : VoiceFit uni (reclaimed v) :=
  (h.withCtrl (c := v.ctrl ||| 0x200) (or_ctrl_lt h.ctrl (by decide))).same rfl rfl rfl rfl rfl rfl

/-! ### Turns -/

/-- A turn that keeps a voice legal, with the sine table unipolar where `uni` asks for TREM_MUL. -/
def TurnFit (uni : Prop) (turn : Voice → Voice × List Int) : Prop := ∀ v, VoiceFit uni v → VoiceFit uni (turn v).1

theorem fit_andThen {r : Voice × List Int} {turn : Voice → Voice × List Int} (h : VoiceFit uni r.1)
    (ht : TurnFit uni turn) : VoiceFit uni (andThen r turn).1 := ht _ h

theorem fit_unlessFreed {r : Voice × List Int} {turn : Voice → Voice × List Int} (h : VoiceFit uni r.1)
    (ht : TurnFit uni turn) : VoiceFit uni (unlessFreed r turn).1 := by
  unfold unlessFreed
  split
  · exact h
  · exact fit_andThen h ht

theorem EnvFit.clamped {e : EnvRegs} (h : EnvFit e) (x : Int) :
    EnvFit { e with value := BitVec.ofInt 32 (clamp 0 0x3FFFFFFF x) } := by
  have := clamp_mem (lo := 0) (hi := 0x3FFFFFFF) (by decide) x
  exact h.of_arrays (toNat_ofInt_le this.1 this.2 (by decide)) rfl rfl rfl

theorem fit_stageReached (h : VoiceFit uni v) (s : State) (value : Int) (k : Nat) :
    VoiceFit uni (stageReached s v value k) := by
  have moved : ∀ e : EnvRegs, e.value = v.env.value → e.rate = v.env.rate → e.offset = v.env.offset →
      e.follow = v.env.follow → EnvFit e := fun e value rate offset follow =>
    h.env.of_arrays (by rw [value]; exact h.env.1) rate offset follow
  rw [stageReached_eq]
  have scaled : VoiceFit uni (if v.firstRelease ∈ stagesRead s v value k then withScales value v else v) := by
    split
    · exact h.same rfl rfl rfl rfl rfl rfl
    · exact h
  generalize (if v.firstRelease ∈ stagesRead s v value k then withScales value v else v) = u at scaled
  unfold stageEnded
  split
  · have stopped := moved { v.env with stage := BitVec.ofNat 32 (lastStage s v value k) } rfl rfl rfl rfl
    exact ((scaled.withEnv stopped).withCtrl (or_ctrl_lt (m := 0x200) h.ctrl (by decide))).same rfl rfl rfl rfl rfl rfl
  · exact scaled.withEnv (moved _ rfl rfl rfl rfl)
  · exact scaled.withEnv (moved _ rfl rfl rfl rfl)
  · exact scaled

theorem fit_enveloped (s : State) : TurnFit uni (enveloped s) := by
  intro v h
  unfold enveloped
  dsimp only
  split
  · exact h
  · split
    · exact fit_stageReached (h.withEnv (h.env.clamped _)) s _ _
    · exact h.withEnv (h.env.clamped _)

theorem VoiceFit.reclaimedIf (h : VoiceFit uni v) (p : Prop) [Decidable p] :
    VoiceFit uni (if p then Claims.reclaimed v else v) := by
  split
  · exact h.reclaimed
  · exact h

theorem fit_levelled (s : State) : TurnFit uni (levelled s) := by
  intro v h
  unfold levelled
  apply VoiceFit.reclaimedIf
  exact h.same rfl rfl rfl rfl rfl rfl

theorem toInt_of_unipolar {x : Word} (h : x.toNat ≤ 65536) : x.toInt = (x.toNat : Int) :=
  BitVec.toInt_eq_toNat_of_lt (by omega)

theorem fit_shaken (quiet : Bool) (hs : uni → SineUnipolar s) : TurnFit uni (shaken quiet s) := by
  intro v h
  have sweep := sweep_unipolar h.sweep
  have pos : (sweptOnce v.trem).sweepPos.toNat ≤ 65536 := by
    have := (sweptOnce v.trem).sweepPos.isLt
    rw [BitVec.toInt_eq_toNat_cond] at sweep
    split at sweep <;> omega
  rw [shaken_eq]
  dsimp only
  refine ⟨h.ctrl, h.env, h.menv, h.menvOut, h.depth, pos, fun u => ?_, h.pdly⟩
  have index : (v.trem.phase + v.trem.inc).toNat / 2 ^ 23 < 512 := by
    have := (v.trem.phase + v.trem.inc).isLt
    omega
  have wave := hs u _ index
  have depth := toInt_of_unipolar h.depth
  obtain ⟨low, high, fits⟩ := multiplier_unipolar (depth := v.trem.depth.toInt)
    (by have := h.depth; omega) sweep (wave := (s.tramWord (2048 + (v.trem.phase + v.trem.inc).toNat / 2 ^ 23)).toInt)
    (by rw [toInt_of_unipolar wave]; omega)
  dsimp only
  rw [fits]
  exact toNat_ofInt_le low high (by decide)

theorem EnvFit.toInt_value {e : EnvRegs} (h : EnvFit e) : 0 ≤ e.value.toInt ∧ e.value.toInt ≤ 0x3FFFFFFF := by
  have := h.1
  rw [toInt_of_le h.1]
  omega

theorem VoiceFit.exposed (h : VoiceFit uni v) : VoiceFit uni (exposed v) := by
  unfold Claims.exposed
  dsimp only
  split
  · exact h
  · have value := h.menv.toInt_value
    refine ⟨or_ctrl_lt h.ctrl (by decide), h.env, h.menv, ?_, h.depth, h.sweep, h.mul, h.pdly⟩
    exact toNat_ofInt_le (by omega) (by omega) (by decide)

/-- The loop of the modulation envelope keeps its arrays and leaves the value it was given. -/
theorem fit_modulationReached (h : VoiceFit uni v) {x : Int} (h0 : 0 ≤ x) (h1 : x ≤ 0x3FFFFFFF) (k : Nat) :
    EnvFit (modulationReached v x k) := by
  have value : (modulationReached v x k).value.toNat ≤ 0x3FFFFFFF := by
    rw [modulationReached_value]
    exact toNat_ofInt_le h0 h1 (by decide)
  have arrays : (modulationReached v x k).rate = v.menv.rate ∧ (modulationReached v x k).offset = v.menv.offset ∧
      (modulationReached v x k).follow = v.menv.follow := by
    unfold modulationReached
    dsimp only
    split <;> exact ⟨rfl, rfl, rfl⟩
  exact h.menv.of_arrays value arrays.1 arrays.2.1 arrays.2.2

theorem fit_modulationTurn (s : State) : TurnFit uni (modulationTurn s) := by
  intro v h
  have target := clamp_mem (lo := 0) (hi := 0x3FFFFFFF) (by decide) v.menv.target.toInt
  unfold modulationTurn
  dsimp only
  split
  · exact h
  · split
    · exact h.exposed
    · split
      · exact (h.withMenv (fit_modulationReached h target.1 target.2 _)).exposed
      · exact (h.withMenv (h.menv.clamped _)).exposed

theorem fit_modulationStart (s : State) (k : Nat) : TurnFit uni (modulationStart s k) := by
  intro v h
  unfold modulationStart
  split
  · exact h
  · have value := h.menv.toInt_value
    exact (h.withMenv (fit_modulationReached h value.1 value.2 k)).exposed

theorem fit_updated (quiet : Bool) (hs : uni → SineUnipolar s) : TurnFit uni (updated quiet s) := by
  intro v h
  unfold updated
  refine fit_unlessFreed (fit_enveloped s v h) fun u hu => ?_
  dsimp only
  refine fit_andThen (fit_andThen ?_ (fit_modulationTurn s)) (fit_levelled s)
  split
  · exact fit_shaken quiet hs u hu
  · exact hu

theorem fit_restarted {r : Voice × List Int} (h : VoiceFit uni r.1) (s : State) (k : Nat) :
    VoiceFit uni (restarted s k r).1 := by
  unfold restarted
  exact fit_unlessFreed h fun u hu => fit_andThen (fit_modulationStart s k u hu) (fit_levelled s)

theorem fit_smoothedMix (s : State) : TurnFit uni (smoothedMix s) := fun _ h => h.same rfl rfl rfl rfl rfl rfl

theorem fit_chained (h : VoiceFit uni v) (s : State) (k : Nat) (x : Int) : VoiceFit uni (chained s v x k).1 :=
  fit_stageReached h s x k

theorem fit_attacking (h : VoiceFit uni v) : VoiceFit uni (attacking v) :=
  h.withEnv (h.env.of_arrays h.env.1 rfl rfl rfl)

theorem fit_atStage (h : VoiceFit uni v) (k : Nat) : VoiceFit uni (atStage k v) :=
  h.withEnv (h.env.of_arrays h.env.1 rfl rfl rfl)

/-! ### Mixing -/

/-- A step of MIXV that keeps its voice legal. -/
def MixFit (uni : Prop) (f : Mixing → Mixing) : Prop := ∀ x : Mixing, VoiceFit uni x.voice → VoiceFit uni (f x).voice

theorem fit_next {x y : Mixing} (hx : VoiceFit uni x.voice) (hy : VoiceFit uni y.voice) : VoiceFit uni (x.next y).voice := by
  unfold Mixing.next
  split
  · exact hx
  · exact hy

theorem fit_turn {turn : Voice → Voice × List Int} (ht : TurnFit uni turn) : MixFit uni fun x => x.turn turn :=
  fun _ hx => fit_next hx (ht _ hx)

theorem fit_sided (s : State) (f side : Nat) (sample level : Int) : MixFit uni (sided s f side sample level) := by
  intro x hx
  unfold sided
  dsimp only
  split
  · next delayed =>
    have long := (of_decide_eq_true delayed.1).2.2
    have len := hx.pdly.1
    have pos : 0 < x.voice.pdly.len.toNat := by
      rw [toInt_of_unipolar (by omega)] at long
      omega
    have next : ∀ p : Word, (BitVec.ofNat 32 ((p.toNat + 1) % x.voice.pdly.len.toNat)).toNat ≤ 255 := by
      intro p
      have := Nat.mod_lt (p.toNat + 1) pos
      rw [BitVec.toNat_ofNat]
      omega
    refine fit_next ?_ ?_
    · rwa [voice_storing, voice_contributed, voice_accessing, voice_noting]
    · dsimp only
      rw [voice_storing, voice_contributed, voice_accessing, voice_noting]
      exact ⟨hx.ctrl, hx.env, hx.menv, hx.menvOut, hx.depth, hx.sweep, hx.mul, len, next _, next _⟩
  · rwa [voice_contributed, voice_noting]

theorem fit_panned (s : State) (f : Nat) (sample lL lR : Int) : MixFit uni (panned s f sample lL lR) := by
  intro x hx
  have left : VoiceFit uni (if panLaw x.voice = 3 then x else sided s f 0 sample lL x).voice := by
    split
    · exact hx
    · exact fit_sided s f 0 sample lL x hx
  unfold panned
  dsimp only
  split
  · exact left
  · exact fit_sided _ _ _ _ _ _ left

theorem fit_sampled {x : Mixing} (hx : VoiceFit uni x.voice) : VoiceFit uni (sampled x).2.voice := by
  unfold sampled
  dsimp only
  refine fit_turn (fun v hv => hv.same rfl rfl rfl rfl rfl rfl) _ ?_
  rwa [voice_accessing]

theorem fit_framed (s : State) (f : Nat) : MixFit uni (framed s f) := by
  intro x hx
  unfold framed
  dsimp only
  exact fit_panned _ _ _ _ _ _ (fit_turn (fun v hv => hv.same rfl rfl rfl rfl rfl rfl) _ (fit_sampled hx))

theorem fit_staticFrames (s : State) (cnt : Nat) : ∀ f, MixFit uni (staticFrames s cnt f) := by
  induction cnt with
  | zero => exact fun _ _ hx => hx
  | succ n ih => exact fun f x hx => ih _ _ (fit_framed s f x hx)

theorem fit_controlled (hs : uni → SineUnipolar s) : MixFit uni (controlled s) :=
  fit_turn fun _ hv => fit_unlessFreed (fit_updated false hs _ (hv.same rfl rfl rfl rfl rfl rfl)) (fit_smoothedMix s)

theorem fit_signalFrames (hs : uni → SineUnipolar s) (cnt : Nat) : ∀ f k, MixFit uni (signalFrames s cnt f k) := by
  induction cnt with
  | zero => exact fun _ _ => fit_turn fun v hv => hv.same rfl rfl rfl rfl rfl rfl
  | succ n ih =>
    intro f k x hx
    have update := fit_controlled hs x hx
    unfold signalFrames
    split
    · exact ih _ _ _ (fit_framed s f x hx)
    · split
      · exact update
      · exact ih _ _ _ (fit_framed s f _ update)

theorem fit_dyingFrames (s : State) (iL iR : Int) (cnt : Nat) : ∀ f lL lR, MixFit uni (dyingFrames s iL iR cnt f lL lR) := by
  induction cnt with
  | zero => exact fun _ _ _ _ hx => hx
  | succ n ih =>
    intro f lL lR x hx
    have noted : VoiceFit uni (x.noting [lL - iL, lR - iR]).voice := by rwa [voice_noting]
    unfold dyingFrames
    dsimp only
    generalize (if panLaw x.voice = 3 then _ else _ : Int) = level
    split
    · exact noted
    · exact ih _ _ _ _ (fit_panned _ _ _ _ _ _ (fit_sampled noted))

theorem fit_died (s : State) (cnt f : Nat) : MixFit uni (died s cnt f) := by
  intro x hx
  unfold died
  dsimp only
  refine fit_turn (fun _ hv => hv.reclaimed) _ (fit_dyingFrames _ _ _ _ _ _ _ _ ?_)
  rwa [voice_noting]

end Sys2Proof.Proofs
end

section
/-! Registers stay within their legal values (10_state.md sections 3 to 5; 42_lfo.md section 1; 60_exceptions.md R806,
R807). -/

namespace Sys2Proof.Proofs

open Sys2Proof.Machine Sys2Proof.Claims

-- Proofs elaborated one after another need less memory.
set_option Elab.async false

variable {s t : State} {v w : Voice} {uni : Prop} {n u i : Nat}

/-! ### STATUS and the other global registers -/

/-- STATUS has no bit above FATAL, which stands exactly where a cause is recorded. -/
def StatusFit (status : Word) (cause : FatalCause) : Prop :=
  status.toNat < 2 ^ 5 ∧ (status.getLsbD 4 = true ↔ cause ≠ .none)

/-- The set-up registers within their ranges. -/
def GlobalsFit (ctrl sampleRate controlRatio mixWindow maxDieTime : Word) (chState : Vector Word 16) : Prop :=
  ctrl.toNat < 2 ^ 2 ∧ (1 ≤ sampleRate.toNat ∧ sampleRate.toNat ≤ 1048576) ∧
    (1 ≤ controlRatio.toNat ∧ controlRatio.toNat ≤ 255) ∧ (1 ≤ mixWindow.toNat ∧ mixWindow.toNat ≤ 65535) ∧
    (1 ≤ maxDieTime.toNat ∧ maxDieTime.toNat ≤ 65535) ∧ ∀ i : Fin 16, chState[i].toNat / 2 ^ 8 % 2 ^ 8 = 0

variable {status : Word} {cause : FatalCause}

theorem globalsOk_iff (s : State) : globalsOk s = true ↔ s.status.toNat < 2 ^ 5 ∧
    GlobalsFit s.ctrl s.sampleRate s.controlRatio s.mixWindow s.maxDieTime s.chState := decide_eq_true_iff

theorem StatusFit.or (h : StatusFit status cause) {m : Word} (hm : m.toNat < 2 ^ 4) : StatusFit (status ||| m) cause := by
  have high : m.getLsbD 4 = false := Nat.testBit_lt_two_pow hm
  refine ⟨?_, ?_⟩
  · rw [BitVec.toNat_or]
    exact Nat.or_lt_two_pow h.1 (by omega)
  · rw [BitVec.getLsbD_or, high, Bool.or_false]
    exact h.2

theorem StatusFit.sat (h : StatusFit status cause) (vs : List Int) : StatusFit (satIf vs status) cause := by
  unfold satIf
  split
  · exact h
  · exact h.or (by decide)

theorem StatusFit.range (h : StatusFit status cause) (b : Bool) : StatusFit (rangeIf b status) cause := by
  unfold rangeIf
  split
  · exact h.or (by decide)
  · exact h

theorem StatusFit.halted (h : StatusFit status cause) {c : FatalCause} (hc : c ≠ .none) : StatusFit (status ||| 16) c := by
  refine ⟨?_, fun _ => hc, fun _ => ?_⟩
  · rw [BitVec.toNat_or]
    exact Nat.or_lt_two_pow h.1 (by decide)
  · rw [BitVec.getLsbD_or, show (16 : Word).getLsbD 4 = true from rfl, Bool.or_true]

/-- A write of STATUS clears sticky flags only. -/
theorem StatusFit.cleared (h : StatusFit status cause) (v : Word) :
    StatusFit (status &&& ~~~(v &&& stickyMask)) cause := by
  refine ⟨?_, ?_⟩
  · rw [BitVec.toNat_and]
    exact (Nat.and_le_left).trans_lt h.1
  · rw [getLsbD_and_not_sticky]
    exact h.2

/-! ### LFO units -/

/-- The legal registers of an LFO unit; LFO_OUT too where `uni` holds. -/
def LfoFit (uni : Prop) (l : LfoUnit) : Prop := lfoOk l = true ∧ (uni → l.out.toNat ≤ 65536)

theorem lfoOk_iff (l : LfoUnit) : lfoOk l = true ↔
    l.cycle.toNat ≤ 2 ^ 24 ∧ if l.cycle = 0 then l.count = 0 else l.count.toNat < l.cycle.toNat := by
  unfold lfoOk
  rw [Bool.and_eq_true, decide_eq_true_eq, decide_eq_true_eq]

/-- A configured unit counts below its cycle. -/
theorem lfoOk_of_count {l : LfoUnit} (h0 : l.cycle ≠ 0) (h1 : l.cycle.toNat ≤ 2 ^ 24)
    (hc : l.count.toNat < l.cycle.toNat) : lfoOk l = true := by
  rw [lfoOk_iff, if_neg h0]
  exact ⟨h1, hc⟩

theorem toNat_pos_of_ne_zero {w : Word} (h : w ≠ 0) : 0 < w.toNat :=
  Nat.pos_of_ne_zero fun hz => h (BitVec.eq_of_toNat_eq hz)

theorem lfoFit_writeLfo {l : LfoUnit} (h : LfoFit uni l) (off : Nat) (v : Word) : LfoFit uni (writeLfo l off v) := by
  unfold writeLfo
  split
  · refine ⟨?_, h.2⟩
    have small := ((lfoOk_iff l).1 h.1).1
    by_cases h0 : l.cycle = 0
    · rw [lfoOk_iff, if_pos h0]
      refine ⟨small, ?_⟩
      show modOrZero v l.cycle = 0
      unfold modOrZero
      exact if_pos h0
    · have := modOrZero_le v l.cycle
      have := toNat_pos_of_ne_zero h0
      exact lfoOk_of_count h0 small (show (modOrZero v l.cycle).toNat < l.cycle.toNat by omega)
  · exact h
  · exact h

/-! ### The invariant -/

/-- Every register is within its legal values; TREM_MUL and LFO_OUT too where `uni` holds. -/
structure Lawful (uni : Prop) (s : State) : Prop where
  status : StatusFit s.status s.fatalCause
  globals : GlobalsFit s.ctrl s.sampleRate s.controlRatio s.mixWindow s.maxDieTime s.chState
  voices : ∀ v ∈ s.voices, VoiceFit uni v
  delays : ∀ d ∈ s.delays, d.damp.toNat ≤ 2 ^ 24
  lfos : ∀ l ∈ s.lfos, LfoFit uni l

theorem lawful_of_legal (h : RegistersLegal s) (outputs : uni → OutputsUnipolar s) : Lawful uni s := by
  obtain ⟨globals, halt, voices, delays, lfos⟩ := h
  obtain ⟨status, globals⟩ := (globalsOk_iff s).1 globals
  rw [fatal_eq] at halt
  exact ⟨⟨status, halt⟩, globals, fun v hv => (voiceFit_iff uni v).2 ⟨voices v hv, fun u => (outputs u).1 v hv⟩, delays,
    fun l hl => ⟨lfos l hl, fun u => (outputs u).2 l hl⟩⟩

theorem Lawful.legal (h : Lawful uni s) : RegistersLegal s := by
  refine ⟨(globalsOk_iff s).2 ⟨h.status.1, h.globals⟩, ?_, fun v hv => ((voiceFit_iff uni v).1 (h.voices v hv)).1, h.delays,
    fun l hl => (h.lfos l hl).1⟩
  rw [fatal_eq]
  exact h.status.2

theorem Lawful.outputs (h : Lawful uni s) (hu : uni) : OutputsUnipolar s :=
  ⟨fun v hv => (h.voices v hv).mul hu, fun l hl => (h.lfos l hl).2 hu⟩

/-- Another STATUS. -/
theorem Lawful.withStatus (h : Lawful uni s) {st : Word} (hst : StatusFit st s.fatalCause) :
    Lawful uni { s with status := st } := ⟨hst, h.globals, h.voices, h.delays, h.lfos⟩

theorem Lawful.setVoice (h : Lawful uni s) (n : Nat) (hw : VoiceFit uni w) :
    Lawful uni { s with voices := s.voices.set n w } := by
  refine ⟨h.status, h.globals, fun v hv => ?_, h.delays, h.lfos⟩
  rcases List.mem_or_eq_of_mem_set hv with old | rfl
  · exact h.voices v old
  · exact hw

theorem Lawful.setLfo (h : Lawful uni s) (u : Nat) {l : LfoUnit} (hl : LfoFit uni l) :
    Lawful uni { s with lfos := s.lfos.set u l } := by
  refine ⟨h.status, h.globals, h.voices, h.delays, fun k hk => ?_⟩
  rcases List.mem_or_eq_of_mem_set hk with old | rfl
  · exact h.lfos k old
  · exact hl

theorem Lawful.voiceAt (h : Lawful uni s) (hv : s.voices[n]? = some v) : VoiceFit uni v :=
  h.voices v (List.mem_of_getElem? hv)

theorem Lawful.takeFatal (h : Lawful uni s) (f : Fault) : Lawful uni (takeFatal f s) := by
  refine ⟨h.status.halted ?_, h.globals, h.voices, h.delays, h.lfos⟩
  cases f <;> exact nofun

/-- The registers asked about are those of a lawful state. -/
theorem Lawful.kept (h : Lawful uni s) (regs : Vector Word 16) (seq info addr : Word) (mem : Memory) :
    Lawful uni { s with regs := regs, cmdSeq := seq, fatalInfo := info, fatalAddr := addr, sram := mem } :=
  ⟨h.status, h.globals, h.voices, h.delays, h.lfos⟩

theorem tidy_lawful : Tidy (Lawful uni) where
  flag f _ h := h.withStatus (h.status.or (by cases f <;> decide))
  word _ _ _ h := ⟨h.status, h.globals, h.voices, h.delays, h.lfos⟩
  zero _ _ _ h := ⟨h.status, h.globals, h.voices, h.delays, h.lfos⟩
  filter _ _ _ h := ⟨h.status, h.globals, h.voices, h.delays, h.lfos⟩

theorem tidySlots_lawful : TidySlots (Lawful uni) where
  toTidy := tidy_lawful
  slot _ _ _ h := ⟨h.status, h.globals, h.voices, h.delays, h.lfos⟩
  modify _ _ _ h := ⟨h.status, h.globals, h.voices, h.delays, h.lfos⟩

theorem tidyDelays_lawful : TidyDelays (Lawful uni) fun d => d.damp.toNat ≤ 2 ^ 24 where
  toTidy := tidy_lawful
  delay u d s hd h := by
    refine ⟨h.status, h.globals, h.voices, fun k hk => ?_, h.lfos⟩
    rcases List.mem_or_eq_of_mem_set hk with old | rfl
    · exact h.delays k old
    · exact hd
  known s u d h hd := h.delays d (List.mem_of_getElem? hd)
  change _ _ _ _ h := h
  configure _ _ _ h := h

/-! ### LFO commands -/

theorem lfoFit_configured (c count : Word) {l : LfoUnit} (hc : l.cycle = clampUnsigned c 1 maxLfoCycle)
    (hcount : l.count = BitVec.ofNat 32 (count.toNat % (clampUnsigned c 1 maxLfoCycle).toNat)) (hout : l.out = 0) :
    LfoFit uni l := by
  have cycle : (clampUnsigned c 1 maxLfoCycle).toNat = max 1 (min (2 ^ 24) c.toNat) := by
    rw [clampUnsigned_eq c (by decide), BitVec.toNat_ofNat]
    show max 1 (min (2 ^ 24) c.toNat) % 2 ^ 32 = _
    omega
  refine ⟨lfoOk_of_count (fun h => ?_) (by rw [hc, cycle]; omega) ?_, fun _ => by rw [hout]; decide⟩
  · rw [hc] at h
    rw [h] at cycle
    have : (0 : Word).toNat = 0 := rfl
    omega
  · have := Nat.mod_lt count.toNat (y := (clampUnsigned c 1 maxLfoCycle).toNat) (by omega)
    rw [hcount, hc, BitVec.toNat_ofNat]
    exact (Nat.mod_le _ _).trans_lt this

theorem triangleWave_unipolar {i : Nat} (h : i < 512) : 0 ≤ triangleWave i ∧ triangleWave i ≤ 65536 := by
  unfold triangleWave
  split <;> omega

/-- The waveforms are unipolar where the sine table is. -/
theorem waveAt_unipolar (hs : uni → SineUnipolar s) (wave : Waveform) {i : Nat} (hi : i < 512) :
    ∃ y, waveAt wave i s = .ok y s ∧ (uni → (wordOf y).toNat ≤ 65536) := by
  cases wave with
  | sine =>
    refine ⟨(s.tramWord (2048 + i)).toInt, rfl, fun hu => ?_⟩
    rw [wordOf_toInt_self]
    exact hs hu i hi
  | triangle =>
    obtain ⟨low, high⟩ := triangleWave_unipolar hi
    exact ⟨_, rfl, fun _ => toNat_ofInt_le low high (by decide)⟩

theorem lawful_lfostep (h : Lawful uni s) (hs : uni → SineUnipolar s) {rd : Nat} (he : exec (.lfostep rd u) s = .next t) :
    Lawful uni t := by
  cases hl : s.lfos[u]? with
  | none =>
    rw [exec_lfostep_missing rd (List.getElem?_eq_none_iff.1 hl)] at he
    injection he with he
    exact he ▸ (tidy_lawful.flag .range s h).kept _ _ _ _ _
  | some l =>
    by_cases hc : l.cycle = 0
    · rw [exec_lfostep_unconfigured rd hl hc] at he
      injection he with he
      exact he ▸ (tidy_lawful.flag .range s h).kept _ _ _ _ _
    · have fit := h.lfos l (List.mem_of_getElem? hl)
      have ok := (lfoOk_iff l).1 fit.1
      rw [if_neg hc] at ok
      have pos := toNat_pos_of_ne_zero hc
      have index : waveIndex l.count.toNat l.cycle.toNat < 512 := by
        show l.count.toNat * 512 / l.cycle.toNat < 512
        rw [Nat.div_lt_iff_lt_mul pos]
        omega
      obtain ⟨y, wave, out⟩ := waveAt_unipolar hs l.wave index
      rw [exec_lfostep rd hl hc wave] at he
      injection he with he
      have next : lfoOk { l with
          count := BitVec.ofNat 32 ((l.count.toNat + 1) % l.cycle.toNat), out := wordOf y } = true := by
        refine lfoOk_of_count hc ok.1 ?_
        have := Nat.mod_lt (l.count.toNat + 1) pos
        show (BitVec.ofNat 32 ((l.count.toNat + 1) % l.cycle.toNat)).toNat < l.cycle.toNat
        rw [BitVec.toNat_ofNat]
        exact (Nat.mod_le _ _).trans_lt this
      exact he ▸ (h.setLfo u ⟨next, out⟩).kept _ _ _ _ _

theorem lawful_lfocfg (h : Lawful uni s) {rs1 rs2 : Nat} (he : exec (.lfocfg rs1 rs2 u) s = .next t) : Lawful uni t := by
  cases hl : s.lfos[u]? with
  | none =>
    rw [exec_lfocfg_missing rs1 rs2 (List.getElem?_eq_none_iff.1 hl)] at he
    injection he with he
    exact he ▸ (tidy_lawful.flag .range s h).kept _ _ _ _ _
  | some l =>
    rw [exec_lfocfg rs1 rs2 hl] at he
    injection he with he
    have fit : LfoFit uni { l with
        cycle := clampUnsigned (s.reg rs1) 1 maxLfoCycle
        count := BitVec.ofNat 32 ((s.reg rs2).toNat % (clampUnsigned (s.reg rs1) 1 maxLfoCycle).toNat), out := 0 } :=
      lfoFit_configured (s.reg rs1) (s.reg rs2) rfl rfl rfl
    exact he ▸ ((h.setLfo u fit).withStatus (h.status.range _)).kept _ _ _ _ _

/-! ### Voice commands -/

/-- A voice command on a live voice that ends in one step of the voice. -/
theorem lawful_of_turn (h : Lawful uni s) {i : Instr} {r : Voice × List Int} {regs : Vector Word 16}
    (run : exec i s = .next { s with
      regs := regs, voices := s.voices.set n r.1, status := satIf r.2 s.status, cmdSeq := s.cmdSeq + 1 })
    (hr : VoiceFit uni r.1) (he : exec i s = .next t) : Lawful uni t := by
  rw [run] at he
  injection he with he
  exact he ▸ ((h.setVoice n hr).withStatus (h.status.sat _)).kept _ _ _ _ _

theorem lawful_of_mixDone (h : Lawful uni s) {rd : Nat} {x : Mixing} {o : Host.Outcome State Fault Refusal}
    (done : MixDone s rd n x o) (hx : VoiceFit uni x.voice) (ho : o = .next t) : Lawful uni t := by
  obtain ⟨t', rfl, -, ht⟩ := done
  injection ho with ho
  subst ho
  have set := h.setVoice n hx
  split at ht
  · rw [ht]
    exact ⟨(h.status.sat _).halted nofun, set.globals, set.voices, set.delays, set.lfos⟩
  · rw [ht]
    exact (set.withStatus (h.status.sat _)).kept _ _ _ _ _

theorem Lawful.controlRatio (h : Lawful uni s) : s.controlRatio ≠ 0 := fun hz => by
  have := h.globals.2.2.1.1
  rw [hz] at this
  exact absurd this (by decide)

theorem lawful_mixv (h : Lawful uni s) (hs : uni → SineUnipolar s) (hv : s.voices[n]? = some v) (live : v.status ≠ .free)
    {rd rs1 rs2 : Nat} (he : exec (.mixv rd rs1 rs2 n) s = .next t) : Lawful uni t := by
  have fit := h.voiceAt hv
  have started : VoiceFit uni (mixingOf s { v with delay := 0 }).voice := fit.same rfl rfl rfl rfl rfl rfl
  by_cases hc : s.reg rs2 = 0
  · rw [preAttackDelayWaits.1 s v rd rs1 rs2 n hv live hc] at he
    injection he with he
    exact he ▸ h.kept _ _ _ _ _
  by_cases hdie : v.status = .die
  · exact lawful_of_mixDone h (mixDone_die hv hdie hc) (fit_died s _ _ _ fit) he
  by_cases hd : (s.reg rs2).toNat < v.delay.toNat
  · rw [preAttackDelayWaits.2 s v rd rs1 rs2 n hv live hdie hc hd] at he
    injection he with he
    have waited : VoiceFit uni { v with delay := v.delay - s.reg rs2 } := fit.same rfl rfl rfl rfl rfl rfl
    exact he ▸ (h.setVoice n waited).kept _ _ _ _ _
  have hd := Nat.le_of_not_lt hd
  cases signal : v.ctrl.getLsbD 6 with
  | false => exact lawful_of_mixDone h (mixDone_static hv live hdie signal hc hd) (fit_staticFrames s _ _ _ started) he
  | true =>
    exact lawful_of_mixDone h (mixDone_signal hv live hdie signal hc h.controlRatio hd)
      (fit_signalFrames hs _ _ _ _ started) he

/-- The voice that a voice command is about. -/
def voiceOf : Instr → Nat
  | .envupd _ n => n
  | .envamp _ n => n
  | .tremupd n => n
  | .menvupd n => n
  | .mixsmooth n => n
  | .mixv _ _ _ n => n
  | .envstart n => n
  | .envrel n => n
  | _ => 0

theorem lawful_missing_voice (h : Lawful uni s) {i : Instr} (hi : writes i = .voice) (hv : s.voices[voiceOf i]? = none)
    (he : exec i s = .next t) : Lawful uni t := by
  have beyond := List.getElem?_eq_none_iff.1 hv
  have missing : missingIndex s i = true := by
    cases i <;> first | exact decide_eq_true beyond | cases hi
  rw [missingIndexSetsRange i s missing] at he
  injection he with he
  exact he ▸ (tidy_lawful.flag .range s h).kept _ _ _ _ _

theorem lawful_free_voice (h : Lawful uni s) {i : Instr} (hi : writes i = .voice) (hv : s.voices[voiceOf i]? = some v)
    (hf : v.status = .free) (he : exec i s = .next t) : Lawful uni t := by
  have ends : ∀ {regs : Vector Word 16}, exec i s = .next { s with regs := regs, cmdSeq := s.cmdSeq + 1 } →
      Lawful uni t := by
    intro regs e
    rw [e] at he
    injection he with he
    exact he ▸ h.kept _ _ _ _ _
  have skipped := fun rd rs1 rs2 => freeVoiceIsSkipped s v rd rs1 rs2 (voiceOf i) hv hf
  cases i with
  | envupd rd n => exact ends (skipped rd 0 0).1
  | envamp rd n => exact ends (skipped rd 0 0).2.1
  | mixv rd a b n => exact ends (skipped rd a b).2.2.1
  | tremupd n => exact ends (skipped 0 0 0).2.2.2.1
  | menvupd n => exact ends (skipped 0 0 0).2.2.2.2.1
  | envstart n => exact ends (skipped 0 0 0).2.2.2.2.2.1
  | envrel n => exact ends (skipped 0 0 0).2.2.2.2.2.2.1
  | mixsmooth n => exact ends (skipped 0 0 0).2.2.2.2.2.2.2
  | _ => cases hi

theorem lawful_live_voice (h : Lawful uni s) (hs : uni → SineUnipolar s) {i : Instr} (hi : writes i = .voice)
    (hv : s.voices[voiceOf i]? = some v) (live : v.status ≠ .free) (he : exec i s = .next t) : Lawful uni t := by
  have fit := h.voiceAt hv
  cases i with
  | envupd rd n => exact lawful_of_turn h (exec_envupd hv live) (fit_updated true hs v fit) he
  | envamp rd n => exact lawful_of_turn h (exec_envamp hv live) (fit_levelled s v fit) he
  | tremupd n => exact lawful_of_turn h (exec_tremupd hv live) (fit_shaken false hs v fit) he
  | menvupd n => exact lawful_of_turn h (exec_menvupd hv live) (fit_modulationTurn s v fit) he
  | mixsmooth n =>
    exact lawful_of_turn h (mixSmoothResult.1 s v n hv live) (fit_smoothedMix s v fit) he
  | mixv rd a b n => exact lawful_mixv h hs hv live he
  | envstart n =>
    exact lawful_of_turn h (exec_envstart hv live) (fit_restarted (fit_chained (fit_attacking fit) s _ _) s _) he
  | envrel n =>
    exact lawful_of_turn h (exec_envrel hv live) (fit_restarted (fit_chained (fit_atStage fit _) s _ _) s _) he
  | _ => cases hi

theorem lawful_exec (h : Lawful uni s) (hs : uni → SineUnipolar s) {i : Instr} (hi : controlWrite s i = none)
    (he : exec i s = .next t) : Lawful uni t := by
  have keeps : RunsKeeping (Lawful uni) i → Lawful uni t := fun R =>
    R.preserves (fun _ _ _ h => h.kept _ _ _ _ _) (fun _ h => h.kept _ _ _ _ _) (fun f _ h => h.takeFatal f) h he
  cases hw : writes i with
  | control => exact absurd hw (writes_ne_control hi)
  | delay => exact keeps (delay_keeps tidyDelays_lawful hw)
  | slot => exact keeps (slot_keeps tidySlots_lawful hw)
  | plain => exact keeps (plain_keeps tidy_lawful hw)
  | voice =>
    cases hv : s.voices[voiceOf i]? with
    | none => exact lawful_missing_voice h hw hv he
    | some v =>
      by_cases hf : v.status = .free
      · exact lawful_free_voice h hw hv hf he
      · exact lawful_live_voice h hs hw hv hf he
  | lfo =>
    cases i with
    | lfocfg a b u => exact lawful_lfocfg h he
    | lfostep rd u => exact lawful_lfostep h hs he
    | _ => cases hw

/-! ### Writes of control registers -/

theorem clampUnsigned_bounds (v : Word) {lo hi : Nat} (h : lo ≤ hi) (hh : hi < 2 ^ 32) :
    lo ≤ (clampUnsigned v lo hi).toNat ∧ (clampUnsigned v lo hi).toNat ≤ hi := by
  rw [clampUnsigned_eq v h, BitVec.toNat_ofNat]
  omega

/-- The reserved bits of CH_STATE (10_state.md R70). -/
theorem chState_reserved (v : Word) : (v &&& chStateMask).toNat / 2 ^ 8 % 2 ^ 8 = 0 := by
  apply Nat.eq_of_testBit_eq
  intro k
  rw [Nat.testBit_mod_two_pow, Nat.testBit_div_two_pow, BitVec.toNat_and, Nat.testBit_and, Nat.zero_testBit]
  by_cases hk : k < 8
  · have : chStateMask.toNat.testBit (k + 8) = false := by
      interval_cases k <;> rfl
    rw [this, Bool.and_false, Bool.and_false]
  · rw [decide_eq_false hk, Bool.false_and]

theorem ctrl_reserved (v : Word) : (v &&& ctrlMask).toNat < 2 ^ 2 := by
  rw [BitVec.toNat_and]
  exact Nat.and_le_right.trans_lt (by decide)

theorem voiceFit_reset : VoiceFit uni Voice.reset := (voiceFit_iff uni _).2 ⟨voiceOk_reset, fun _ => by decide⟩

theorem lawful_resetBlock (s : State) : Lawful uni (resetBlock s) := by
  obtain ⟨status, globals⟩ := (globalsOk_iff State.reset).1 globalsOk_reset
  have running : (0 : Word).getLsbD 4 ≠ true := by decide
  refine ⟨⟨status, fun f => absurd f running, fun f => absurd rfl f⟩, globals, fun v hv => ?_, fun d hd => ?_,
    fun l hl => ?_⟩
  · rw [show v = Voice.reset from List.eq_of_mem_replicate hv]
    exact voiceFit_reset
  · rw [show d = DelayUnit.reset from List.eq_of_mem_replicate hd]
    decide
  · rw [show l = LfoUnit.reset from List.eq_of_mem_replicate hl]
    exact ⟨lfoOk_reset, fun _ => by decide⟩

theorem Lawful.writeGlobal (h : Lawful uni s) (a : Nat) (v : Word) : Lawful uni (writeGlobal a v s) := by
  obtain ⟨status, globals, voices, delays, lfos⟩ := h
  obtain ⟨ctrl, rate, ratio, window, die, channels⟩ := globals
  unfold Machine.writeGlobal
  split
  case h_1 => exact ⟨status.cleared v, ⟨ctrl, rate, ratio, window, die, channels⟩, voices, delays, lfos⟩
  case h_2 => exact ⟨status, ⟨ctrl_reserved v, rate, ratio, window, die, channels⟩, voices, delays, lfos⟩
  case h_3 =>
    exact ⟨status, ⟨ctrl, clampUnsigned_bounds v (by decide) (by decide), ratio, window, die, channels⟩, voices, delays,
      lfos⟩
  case h_4 =>
    exact ⟨status, ⟨ctrl, rate, clampUnsigned_bounds v (by decide) (by decide), window, die, channels⟩, voices, delays,
      lfos⟩
  case h_6 =>
    exact ⟨status, ⟨ctrl, rate, ratio, clampUnsigned_bounds v (by decide) (by decide), die, channels⟩, voices, delays,
      lfos⟩
  case h_7 =>
    exact ⟨status, ⟨ctrl, rate, ratio, window, clampUnsigned_bounds v (by decide) (by decide), channels⟩, voices, delays,
      lfos⟩
  case h_9 =>
    split
    · exact lawful_resetBlock s
    · exact ⟨status, ⟨ctrl, rate, ratio, window, die, channels⟩, voices, delays, lfos⟩
  case h_13 =>
    split
    · refine ⟨status, ⟨ctrl, rate, ratio, window, die, fun i => ?_⟩, voices, delays, lfos⟩
      dsimp only
      rw [Fin.getElem_fin, Vector.getElem_setIfInBounds]
      split
      · exact chState_reserved v
      · exact channels i
    · exact ⟨status, ⟨ctrl, rate, ratio, window, die, channels⟩, voices, delays, lfos⟩
  all_goals exact ⟨status, ⟨ctrl, rate, ratio, window, die, channels⟩, voices, delays, lfos⟩

theorem EnvFit.writeArrays {e : EnvRegs} (h : EnvFit e) (base off : Nat) (v : Word) :
    EnvFit (writeEnvArrays e base off v) := by
  have offset : (clampSigned v 0 Config.offsetMax).toNat ≤ 0x3FFFFFFF :=
    clampSigned_le v 0x3FFFFFFF (by decide) rfl (by decide)
  have follow : (clampSigned v 0 (2 ^ 24)).toNat ≤ 2 ^ 24 := clampSigned_le v (2 ^ 24) (by decide) rfl (by decide)
  have entry : ∀ (xs : Vector Word 6) (k : Nat) (w : Word) (i : Fin 6) (hi : Nat), xs[i].toNat ≤ hi → w.toNat ≤ hi →
      (xs.setIfInBounds k w)[i].toNat ≤ hi := by
    intro xs k w i hi hx hw
    rw [Fin.getElem_fin, Vector.getElem_setIfInBounds]
    split
    · exact hw
    · exact hx
  obtain ⟨value, arrays⟩ := h
  unfold writeEnvArrays
  split
  · exact ⟨value, fun i => ⟨entry _ _ _ i _ (arrays i).1 offset, (arrays i).2⟩⟩
  · split
    · exact ⟨value, fun i => ⟨(arrays i).1, entry _ _ _ i _ (arrays i).2.1 offset, (arrays i).2.2⟩⟩
    · split
      · exact ⟨value, fun i => ⟨(arrays i).1, (arrays i).2.1, entry _ _ _ i _ (arrays i).2.2 follow⟩⟩
      · exact ⟨value, arrays⟩

theorem VoiceFit.writeReg (h : VoiceFit uni v) (off : Nat) (x : Word) : VoiceFit uni (writeVoiceReg v off x) := by
  have value : (clampSigned x 0 Config.offsetMax).toNat ≤ 0x3FFFFFFF :=
    clampSigned_le x 0x3FFFFFFF (by decide) rfl (by decide)
  have gain : (clampSigned x 0 65536).toNat ≤ 65536 := clampSigned_le x 65536 (by decide) rfl (by decide)
  have len : (clampSigned x 0 256).toNat ≤ 256 := clampSigned_le x 256 (by decide) rfl (by decide)
  have cursor : (modOrZero x v.pdly.len).toNat ≤ 255 := by
    have := modOrZero_le x v.pdly.len
    have := h.pdly.1
    omega
  unfold writeVoiceReg
  split
  case h_1 =>
    refine h.withCtrl ?_
    rw [BitVec.toNat_and]
    exact Nat.and_le_right.trans_lt (by decide)
  case h_2 =>
    cases VoiceStatus.ofWord x
    · exact h
    · exact h.same rfl rfl rfl rfl rfl rfl
  case h_18 | h_20 | h_21 => exact h.withEnv (h.env.of_arrays h.env.1 rfl rfl rfl)
  case h_19 => exact h.withEnv (h.env.of_arrays value rfl rfl rfl)
  case h_24 | h_26 | h_27 => exact h.withMenv (h.menv.of_arrays h.menv.1 rfl rfl rfl)
  case h_25 => exact h.withMenv (h.menv.of_arrays value rfl rfl rfl)
  case h_28 | h_29 | h_32 => exact ⟨h.ctrl, h.env, h.menv, h.menvOut, h.depth, h.sweep, h.mul, h.pdly⟩
  case h_30 => exact ⟨h.ctrl, h.env, h.menv, h.menvOut, gain, h.sweep, h.mul, h.pdly⟩
  case h_31 => exact ⟨h.ctrl, h.env, h.menv, h.menvOut, h.depth, gain, h.mul, h.pdly⟩
  case h_43 => exact ⟨h.ctrl, h.env, h.menv, h.menvOut, h.depth, h.sweep, h.mul, h.pdly⟩
  case h_44 => exact ⟨h.ctrl, h.env, h.menv, h.menvOut, h.depth, h.sweep, h.mul, len, h.pdly.2⟩
  case h_45 => exact ⟨h.ctrl, h.env, h.menv, h.menvOut, h.depth, h.sweep, h.mul, h.pdly.1, cursor, h.pdly.2.2⟩
  case h_46 => exact ⟨h.ctrl, h.env, h.menv, h.menvOut, h.depth, h.sweep, h.mul, h.pdly.1, h.pdly.2.1, cursor⟩
  case h_47 =>
    split
    · exact h.withEnv (h.env.writeArrays _ _ _)
    · exact h.withMenv (h.menv.writeArrays _ _ _)
  all_goals exact h.same rfl rfl rfl rfl rfl rfl

theorem writeDelay_damp {d : DelayUnit} (h : d.damp.toNat ≤ 2 ^ 24) (off : Nat) (v : Word) :
    (writeDelay d off v).damp.toNat ≤ 2 ^ 24 := by
  unfold writeDelay
  split
  case h_4 => exact clampSigned_le v (2 ^ 24) (by decide) rfl (by decide)
  all_goals exact h

theorem Lawful.writeControl (h : Lawful uni s) (a : Nat) (v : Word) : Lawful uni (writeControl a v s) := by
  unfold Machine.writeControl
  split_ifs
  · exact h.writeGlobal a v
  · exact h
  · refine ⟨h.status, h.globals, h.voices, fun d hd => ?_, h.lfos⟩
    rcases mem_modify hd with old | ⟨d', hd', e⟩
    · exact h.delays d old
    · rw [e]
      exact writeDelay_damp (h.delays d' (List.mem_of_getElem? hd')) _ v
  · refine ⟨h.status, h.globals, h.voices, h.delays, fun l hl => ?_⟩
    rcases mem_modify hl with old | ⟨l', hl', e⟩
    · exact h.lfos l old
    · rw [e]
      exact lfoFit_writeLfo (h.lfos l' (List.mem_of_getElem? hl')) _ v
  · exact ⟨h.status, h.globals, h.voices, h.delays, h.lfos⟩
  · exact ⟨h.status, h.globals, h.voices, h.delays, h.lfos⟩
  · exact h
  · refine ⟨h.status, h.globals, fun w hw => ?_, h.delays, h.lfos⟩
    rcases mem_modify hw with old | ⟨w', hw', e⟩
    · exact h.voices w old
    · rw [e]
      exact (h.voices w' (List.mem_of_getElem? hw')).writeReg _ v
  · exact h

/-! ### Steps -/

/-- A lawful state; where `uni` holds, its sine table is unipolar too. -/
def LawfulSine (uni : Prop) (s : State) : Prop := Lawful uni s ∧ (uni → SineUnipolar s)

theorem lawful_rules (uni : Prop) : StepRules (LawfulSine uni) (Lawful uni) where
  idle _ h := h.1
  host _ _ _ _ _ h := ⟨⟨h.1.status, h.1.globals, h.1.voices, h.1.delays, h.1.lfos⟩, h.2⟩
  control a v _ h := h.1.writeControl a v
  tram _ _ _ h := ⟨h.1.status, h.1.globals, h.1.voices, h.1.delays, h.1.lfos⟩
  sram _ _ _ h := ⟨h.1.status, h.1.globals, h.1.voices, h.1.delays, h.1.lfos⟩
  illegal s h := tidy_lawful.flag .ill s h.1
  complete _ h := h.kept _ _ _ _ _
  command _ _ _ hi h he := lawful_exec h.1 h.2 hi he

/-- Settles O14. -/
theorem stepKeepsRegistersLegal : Obligations.StepKeepsRegistersLegal := by
  intro s t legal he
  have start : LawfulSine (SineUnipolar s ∧ OutputsUnipolar s) s := ⟨lawful_of_legal legal fun u => u.2, fun u => u.1⟩
  have after := (lawful_rules _).step start he
  exact ⟨after.legal, fun sine outputs => after.outputs ⟨sine, outputs⟩⟩

end Sys2Proof.Proofs
end

section
/-! PROOFS. The words that MIXV accesses, in order, up to the one that halts it (45_mixer.md R601 to R620; 20_memory.md
R152). -/

namespace Sys2Proof.Proofs

open Sys2Proof.Machine Sys2Proof.Claims

-- Proofs elaborated one after another need less memory.
set_option Elab.async false

variable {s t : State} {v w : Voice} {x y z : Mixing} {n a k f side rd rs1 rs2 : Nat} {ws ws' xs xs' l l' : List Nat}

/-! ### Lists of words -/

/-- The first word outside a RAM of `n` words. -/
abbrev firstBad (n : Nat) (ws : List Nat) : Option Nat := ws.find? fun a => decide (n ≤ a)

/-- The words before the first outside. -/
abbrev goodWords (n : Nat) (ws : List Nat) : List Nat := ws.takeWhile fun a => decide (a < n)

theorem firstBad_append (n : Nat) (ws l : List Nat) : firstBad n (ws ++ l) = (firstBad n ws).or (firstBad n l) :=
  List.find?_append

theorem goodWords_append_of_bad (h : firstBad n ws ≠ none) (l : List Nat) : goodWords n (ws ++ l) = goodWords n ws := by
  induction ws with
  | nil => exact absurd rfl h
  | cons a ws ih =>
    by_cases ha : n ≤ a
    · simp [goodWords, Nat.not_lt.2 ha]
    · rw [firstBad, List.find?_cons_of_neg (by simpa using ha)] at h
      simpa [goodWords, List.takeWhile_cons, Nat.lt_of_not_le ha] using ih h

theorem goodWords_of_none (h : firstBad n ws = none) : goodWords n ws = ws := by
  rw [goodWords, List.takeWhile_eq_self_iff]
  intro a ha
  have := List.find?_eq_none.1 h a ha
  simpa using this

theorem goodWords_append_of_none (h : firstBad n ws = none) (l : List Nat) :
    goodWords n (ws ++ l) = ws ++ goodWords n l := by
  have all : ∀ a ∈ ws, decide (a < n) = true := fun a ha => by simpa using List.find?_eq_none.1 h a ha
  exact List.takeWhile_append_of_pos all

theorem goodWords_subset_append (h : a ∈ goodWords n ws) (l : List Nat) : a ∈ goodWords n (ws ++ l) := by
  by_cases hb : firstBad n ws = none
  · rw [goodWords_append_of_none hb]
    rw [goodWords_of_none hb] at h
    exact List.mem_append_left _ h
  · rwa [goodWords_append_of_bad hb]

/-- The words `ws` are the words `xs`, some of them accessed again at once, up to the first outside. -/
def Follows (n : Nat) (ws xs : List Nat) : Prop :=
  firstBad n ws = firstBad n xs ∧ ∀ a, a ∈ goodWords n ws → a ∈ goodWords n xs

theorem Follows.refl (n : Nat) (ws : List Nat) : Follows n ws ws := ⟨rfl, fun _ h => h⟩

/-- Nothing is accessed after the first word outside. -/
theorem Follows.append_of_bad (h : Follows n ws xs) (hb : firstBad n ws ≠ none) (l : List Nat) :
    Follows n ws (xs ++ l) := by
  obtain ⟨first, before⟩ := h
  refine ⟨?_, fun a ha => goodWords_subset_append (before a ha) l⟩
  rw [firstBad_append, ← first]
  cases hw : firstBad n ws with
  | none => exact absurd hw hb
  | some a => rfl

theorem Follows.append (h : Follows n ws xs) (hb : firstBad n ws = none) (h' : Follows n ws' xs') :
    Follows n (ws ++ ws') (xs ++ xs') := by
  obtain ⟨first, before⟩ := h
  obtain ⟨first', before'⟩ := h'
  have hx : firstBad n xs = none := first.symm.trans hb
  refine ⟨?_, fun a ha => ?_⟩
  · rw [firstBad_append, firstBad_append, hb, hx]
    exact first'
  · rw [goodWords_append_of_none hb] at ha
    rw [goodWords_append_of_none hx]
    rcases List.mem_append.1 ha with ha | ha
    · refine List.mem_append_left _ ?_
      have := before a (by rwa [goodWords_of_none hb])
      rwa [goodWords_of_none hx] at this
    · exact List.mem_append_right _ (before' a ha)

theorem Follows.trans (h : Follows n ws ws') (h' : Follows n ws' xs) : Follows n ws xs := by
  obtain ⟨first, before⟩ := h
  obtain ⟨first', before'⟩ := h'
  exact ⟨first.trans first', fun a ha => before' a (before a ha)⟩

/-- Words accessed again. -/
theorem follows_again (n : Nat) (h : ∀ a ∈ l, a ∈ ws) : Follows n (ws ++ l) ws := by
  by_cases good : firstBad n ws = none
  · have none : firstBad n l = none := List.find?_eq_none.2 fun a ha => List.find?_eq_none.1 good a (h a ha)
    refine ⟨?_, fun a ha => ?_⟩
    · rw [firstBad_append, good, none]
      rfl
    · rw [goodWords_append_of_none good, goodWords_of_none none] at ha
      rw [goodWords_of_none good]
      exact (List.mem_append.1 ha).elim id (h a)
  · refine ⟨?_, fun a ha => ?_⟩
    · rw [firstBad_append]
      cases bad : firstBad n ws with
      | none => exact absurd bad good
      | some a => rfl
    · rwa [goodWords_append_of_bad good] at ha

/-! ### Words of a mix -/

/-- From `x` to `y` the words `l` are accessed, up to the first outside. -/
def Visits (x y : Mixing) (l : List Nat) : Prop :=
  ∃ ws, y.words = x.words ++ ws ∧ y.size = x.size ∧ Follows x.size ws l

theorem visits_refl (x : Mixing) : Visits x x [] := ⟨[], (List.append_nil _).symm, rfl, .refl _ _⟩

theorem live_of_words (h : Live x) (hw : y.words = x.words ++ ws) (hs : y.size = x.size) :
    Live y ↔ firstBad x.size ws = none := by
  unfold Live at h ⊢
  rw [hw, hs, List.find?_append, h]
  exact Iff.rfl

/-- What is accessed next, unless a word was outside. -/
theorem Visits.andNext (hx : Live x) (h : Visits x y l) (hd : ¬Live y → z = y) (hl : Live y → Visits y z l') :
    Visits x z (l ++ l') := by
  obtain ⟨ws, words, size, follows⟩ := h
  by_cases live : Live y
  · have good := (live_of_words hx words size).1 live
    obtain ⟨ws', words', size', follows'⟩ := hl live
    rw [size] at follows'
    exact ⟨ws ++ ws', by rw [words', words, List.append_assoc], size'.trans size, follows.append good follows'⟩
  · rw [hd live]
    exact ⟨ws, words, size, follows.append_of_bad (fun good => live ((live_of_words hx words size).2 good)) l'⟩

theorem visits_noting (hx : Live x) (vs : List Int) : Visits x (x.noting vs) [] := by
  rw [noting_of_live hx]
  exact visits_refl x

theorem visits_turn (hx : Live x) (g : Voice → Voice × List Int) : Visits x (x.turn g) [] := by
  rw [turn_of_live hx]
  exact visits_refl x

theorem visits_accessing (hx : Live x) (a : Nat) : Visits x (x.accessing a) [a] := by
  rw [accessing_of_live hx]
  exact ⟨[a], rfl, rfl, .refl _ _⟩

theorem visits_storing (hx : Live x) (a : Nat) (c : Int) : Visits x (x.storing a c) [a] := by
  by_cases live : Live (x.accessing a)
  · rw [storing_of_live live]
    exact visits_accessing hx a
  · rw [storing_of_dead live]
    exact visits_accessing hx a

theorem Visits.again (h : Visits x y [a, a]) : Visits x y [a] := by
  obtain ⟨ws, words, size, follows⟩ := h
  exact ⟨ws, words, size, follows.trans (follows_again (ws := [a]) _ fun _ h => h)⟩

theorem visits_add (hx : Live x) (a : Nat) (c : Int) : Visits x (x.add a c) [a] := by
  unfold Mixing.add
  refine Visits.again (Visits.andNext (l := [a]) hx (visits_accessing hx a) (fun h => ?_) fun live => ?_)
  · rw [dead_noting h, dead_storing h]
  · exact Visits.andNext (l := []) live (visits_noting live _) (fun h => dead_storing h _ _) fun live =>
      visits_storing live a _

theorem visits_send (hx : Live x) (base level : Word) (f side : Nat) (c : Int) :
    Visits x (x.send base level f side c) (if level = 0 then [] else [frameAddr base f side]) := by
  unfold Mixing.send
  split
  · exact visits_refl x
  · exact Visits.andNext (l := []) hx (visits_noting hx _) (fun h => dead_add h _ _) fun live => visits_add live _ _

/-- The words of a contribution: the output slot and the buses the voice sends to. -/
def contributedWords (s : State) (v : Voice) (f side : Nat) : List Nat :=
  [frameAddr s.outBase f side] ++ (if v.sendRev = 0 then [] else [frameAddr s.busRevBase f side]) ++
    (if v.sendCho = 0 then [] else [frameAddr s.busChoBase f side]) ++
    (if v.sendDly = 0 then [] else [frameAddr s.busDlyBase f side])

theorem visits_contributed (hx : Live x) (s : State) (f side : Nat) (c : Int) :
    Visits x (contributed s f side c x) (contributedWords s x.voice f side) := by
  have out := visits_add hx (frameAddr s.outBase f side) c
  have rev := Visits.andNext hx out (fun h => dead_send h _ _ _ _ _) fun live =>
    visits_send live s.busRevBase x.voice.sendRev f side c
  have cho := Visits.andNext hx rev (fun h => dead_send h _ _ _ _ _) fun live =>
    visits_send live s.busChoBase x.voice.sendCho f side c
  exact Visits.andNext hx cho (fun h => dead_send h _ _ _ _ _) fun live =>
    visits_send live s.busDlyBase x.voice.sendDly f side c

/-- The side goes through the pan delay. -/
abbrev sideDelay (s : State) (v : Voice) (side : Nat) : Bool :=
  panDelayed s v && decide (v.ctrl.getLsbD 3 = decide (side = 1))

theorem sideDelay_iff : sideDelay s v side = true ↔ panDelayed s v ∧ v.ctrl.getLsbD 3 = decide (side = 1) := by
  unfold sideDelay
  rw [Bool.and_eq_true, decide_eq_true_iff]

/-- The words of one side of a frame, by the voice's cursors. -/
def sidedWords (s : State) (v : Voice) (f side : Nat) : List Nat :=
  (if sideDelay s v side then [(v.pdly.base + v.pdly.rpt).toNat] else []) ++ contributedWords s v f side ++
    (if sideDelay s v side then [(v.pdly.base + v.pdly.wpt).toNat] else [])

theorem visits_sided (hx : Live x) (s : State) (f side : Nat) (sample level : Int) :
    Visits x (sided s f side sample level x) (sidedWords s x.voice f side) := by
  unfold sided sidedWords
  dsimp only
  by_cases delayed : sideDelay s x.voice side = true
  · rw [if_pos (sideDelay_iff.1 delayed), if_pos delayed, if_pos delayed]
    have noted := Visits.andNext hx (visits_noting hx [sample * level]) (fun h => dead_accessing h _) fun live =>
      visits_accessing live (x.voice.pdly.base + x.voice.pdly.rpt).toNat
    have mixed := Visits.andNext hx noted (fun h => dead_contributed s h _ _ _) fun live =>
      visits_contributed live s f side (x.ram (x.voice.pdly.base + x.voice.pdly.rpt).toNat)
    rw [voice_accessing, voice_noting] at mixed
    have stored := Visits.andNext hx mixed (fun h => dead_storing h _ _) fun live =>
      visits_storing live (x.voice.pdly.base + x.voice.pdly.wpt).toNat (narrow (sample * level))
    have turned := Visits.andNext hx stored (fun h => dead_turn h _) fun live => visits_turn live
      fun v => ({ v with pdly := panDelayAdvance x.voice.pdly }, [])
    rwa [List.append_nil] at turned
  · rw [if_neg (fun h => delayed (sideDelay_iff.2 h)), if_neg delayed, if_neg delayed, List.append_nil, List.nil_append]
    have mixed := Visits.andNext hx (visits_noting hx [sample * level]) (fun h => dead_contributed s h _ _ _) fun live =>
      visits_contributed live s f side (narrow (sample * level))
    rwa [voice_noting] at mixed

/-! ### The voice of a frame -/

/-- The voice of a side: with pan delay both cursors advance. -/
theorem voice_of_sided {sample level : Int} (h : Live (sided s f side sample level x)) :
    (sided s f side sample level x).voice =
      if sideDelay s x.voice side then { x.voice with pdly := panDelayAdvance x.voice.pdly } else x.voice := by
  unfold sided at h ⊢
  dsimp only at h ⊢
  by_cases delayed : sideDelay s x.voice side = true
  · rw [if_pos (sideDelay_iff.1 delayed)] at h ⊢
    rw [if_pos delayed, turn_of_live (live_of_turn h), voice_storing, voice_contributed, voice_accessing, voice_noting]
    rfl
  · rw [if_neg (fun h => delayed (sideDelay_iff.2 h)), if_neg delayed, voice_contributed, voice_noting]

theorem sideDelay_advanced (s : State) (v : Voice) (side : Nat) :
    sideDelay s { v with pdly := panDelayAdvance v.pdly } side = sideDelay s v side := rfl

theorem sidedWords_of_other (h : sideDelay s v 0 = true) (f : Nat) :
    sidedWords s { v with pdly := panDelayAdvance v.pdly } f 1 = sidedWords s v f 1 := by
  have right : sideDelay s v 1 = false := by
    obtain ⟨-, left⟩ := sideDelay_iff.1 h
    refine eq_false_of_ne_true fun h1 => ?_
    obtain ⟨-, right⟩ := sideDelay_iff.1 h1
    rw [left] at right
    exact absurd right (by decide)
  unfold sidedWords
  rw [sideDelay_advanced, right]
  rfl

/-- The words of a frame after its sample. -/
def pannedWords (s : State) (v : Voice) (f : Nat) : List Nat :=
  (if panLaw v = 3 then [] else sidedWords s v f 0) ++ (if panLaw v = 2 then [] else sidedWords s v f 1)

theorem visits_panned (hx : Live x) (s : State) (f : Nat) (sample lL lR : Int) :
    Visits x (panned s f sample lL lR x) (pannedWords s x.voice f) := by
  have left : Visits x (if panLaw x.voice = 3 then x else sided s f 0 sample lL x)
      (if panLaw x.voice = 3 then [] else sidedWords s x.voice f 0) := by
    split
    · exact visits_refl x
    · exact visits_sided hx s f 0 sample lL
  unfold panned pannedWords
  dsimp only
  refine left.andNext hx (fun h => ?_) fun live => ?_
  · rw [dead_sided s h, ite_self]
  · by_cases law2 : panLaw x.voice = 2
    · rw [if_pos law2, if_pos law2]
      exact visits_refl _
    · rw [if_neg law2, if_neg law2]
      have right := visits_sided live s f 1 sample (if panLaw x.voice = 1 then lL else lR)
      have same : sidedWords s (if panLaw x.voice = 3 then x else sided s f 0 sample lL x).voice f 1 =
          sidedWords s x.voice f 1 := by
        by_cases law3 : panLaw x.voice = 3
        · rw [if_pos law3]
        · rw [if_neg law3] at live ⊢
          rw [voice_of_sided live]
          by_cases delayed : sideDelay s x.voice 0 = true
          · rw [if_pos delayed, sidedWords_of_other delayed]
          · rw [if_neg delayed]
      rwa [same] at right

theorem visits_sampled (hx : Live x) : Visits x (sampled x).2 [x.voice.srcBase.toNat] := by
  unfold sampled
  dsimp only
  have read := visits_accessing hx x.voice.srcBase.toNat
  have turned := Visits.andNext hx read (fun h => dead_turn h _) fun live => visits_turn live
    fun v => ({ v with srcBase := v.srcBase + 1, filtHist := (voiceFiltered x.voice (x.ram x.voice.srcBase.toNat)).2.1 },
      (voiceFiltered x.voice (x.ram x.voice.srcBase.toNat)).2.2)
  exact turned

/-- The pan delay of a frame: its cursors advance where it applies. -/
def panDelayNext (s : State) (v : Voice) : PanDelay := if panDelayed s v then panDelayAdvance v.pdly else v.pdly

theorem voice_of_panned {sample lL lR : Int} (h : Live (panned s f sample lL lR x)) :
    (panned s f sample lL lR x).voice = { x.voice with pdly := panDelayNext s x.voice } := by
  unfold panned at h ⊢
  unfold panDelayNext
  dsimp only at h ⊢
  by_cases delayed : panDelayed s x.voice = true
  · have law : panLaw x.voice = 0 := (of_decide_eq_true delayed).1
    rw [if_pos delayed]
    have law2 : ¬panLaw x.voice = 2 := by omega
    have law3 : ¬panLaw x.voice = 3 := by omega
    rw [if_neg law2, if_neg law3] at h ⊢
    have left : Live (sided s f 0 sample lL x) := by
      by_contra dead
      rw [dead_sided s dead] at h
      exact dead h
    rw [voice_of_sided h, voice_of_sided left]
    by_cases right : x.voice.ctrl.getLsbD 3 = true
    · have first : sideDelay s x.voice 0 = false := by rw [sideDelay, right]; exact Bool.and_false _
      have second : sideDelay s x.voice 1 = true := sideDelay_iff.2 ⟨delayed, right⟩
      rw [first, if_neg Bool.false_ne_true, second, if_pos rfl]
    · replace right : x.voice.ctrl.getLsbD 3 = false := eq_false_of_ne_true right
      have first : sideDelay s x.voice 0 = true := sideDelay_iff.2 ⟨delayed, right⟩
      have second : sideDelay s x.voice 1 = false := by rw [sideDelay, right]; exact Bool.and_false _
      rw [first, if_pos rfl, sideDelay_advanced, second, if_neg Bool.false_ne_true]
  · have none : ∀ side, sideDelay s x.voice side = false := fun side => by simp [sideDelay, delayed]
    have left : Live (if panLaw x.voice = 3 then x else sided s f 0 sample lL x) →
        (if panLaw x.voice = 3 then x else sided s f 0 sample lL x).voice = x.voice := by
      split
      · exact fun _ => rfl
      · intro live
        rw [voice_of_sided live, none, if_neg Bool.false_ne_true]
    rw [if_neg delayed]
    split at h
    case isTrue law2 => rw [if_pos law2, left h]
    case isFalse law2 =>
      have live : Live (if panLaw x.voice = 3 then x else sided s f 0 sample lL x) := by
        by_contra dead
        rw [dead_sided s dead] at h
        exact dead h
      rw [if_neg law2, voice_of_sided h, left live, none, if_neg Bool.false_ne_true]

/-! ### Frames -/

/-- The words of a frame, by the voice before it. -/
def framedWords (s : State) (v : Voice) (f : Nat) : List Nat := [v.srcBase.toNat] ++ pannedWords s v f

/-- The registers of a voice that say which words a frame accesses, a frame later. -/
structure FrameOn (s : State) (v w : Voice) : Prop where
  src : w.srcBase = v.srcBase + 1
  ctrl : w.ctrl = v.ctrl
  rev : w.sendRev = v.sendRev
  cho : w.sendCho = v.sendCho
  dly : w.sendDly = v.sendDly
  pan : w.pdly = panDelayNext s v

theorem live_of_accessing (h : Live (x.accessing a)) : Live x := by
  by_contra dead
  rw [dead_accessing dead] at h
  exact dead h

/-- The voice of a frame between its sample and its slots. -/
theorem voice_of_sampled (h : Live (sampled x).2) :
    ∃ hist, (sampled x).2.voice = { x.voice with srcBase := x.voice.srcBase + 1, filtHist := hist } := by
  unfold sampled at h ⊢
  dsimp only at h ⊢
  rw [voice_turn (live_of_turn h), voice_accessing]
  exact ⟨_, rfl⟩

theorem live_of_panned {sample lL lR : Int} (h : Live (panned s f sample lL lR x)) : Live x := by
  by_contra dead
  rw [dead_panned s dead] at h
  exact dead h

theorem frameOn_framed (h : Live (framed s f x)) : FrameOn s x.voice (framed s f x).voice := by
  rw [framed_eq] at h ⊢
  dsimp only at h ⊢
  have turned := live_of_panned h
  have live := live_of_turn turned
  obtain ⟨hist, voice⟩ := voice_of_sampled live
  rw [voice_of_panned h, voice_turn live, voice]
  exact ⟨rfl, rfl, rfl, rfl, rfl, rfl⟩

theorem visits_framed (hx : Live x) (s : State) (f : Nat) : Visits x (framed s f x) (framedWords s x.voice f) := by
  rw [framed_eq]
  dsimp only
  unfold framedWords
  refine Visits.andNext hx (visits_sampled hx) (fun h => ?_) fun live => ?_
  · rw [dead_turn h, dead_panned s h]
  · have slots := Visits.andNext live (visits_turn live rampTurn) (fun h => dead_panned s h _ _ _ _) fun turned =>
      visits_panned turned s f (sampled x).1
        (narrow ((sampled x).2.voice.mix.leftMix.toInt + (sampled x).2.voice.mix.leftOfs.toInt))
        (narrow ((sampled x).2.voice.mix.rightMix.toInt + (sampled x).2.voice.mix.rightOfs.toInt))
    obtain ⟨hist, voice⟩ := voice_of_sampled live
    have same : pannedWords s ((sampled x).2.turn rampTurn).voice f = pannedWords s x.voice f := by
      rw [voice_turn live, voice]
      rfl
    rwa [same] at slots

/-! ### Frames from a voice's start -/

/-- The pan delay after `k` frames that go through it. -/
def panDelayAfter (k : Nat) (p : PanDelay) : PanDelay := panDelayAdvance^[k] p

theorem panDelayAfter_succ (k : Nat) (p : PanDelay) : panDelayAfter (k + 1) p = panDelayAdvance (panDelayAfter k p) :=
  Function.iterate_succ_apply' _ _ _

theorem panDelayAfter_fixed (k : Nat) (p : PanDelay) :
    (panDelayAfter k p).base = p.base ∧ (panDelayAfter k p).len = p.len := by
  induction k with
  | zero => exact ⟨rfl, rfl⟩
  | succ k ih =>
    rw [panDelayAfter_succ]
    exact ih

/-- A cursor after `k` frames. -/
def cursorAfter (len : Word) (k : Nat) (c : Word) : Nat := if k = 0 then c.toNat else (c.toNat + k) % len.toNat

theorem cursorAfter_succ {len : Word} (hl : 0 < len.toNat) (k : Nat) (c : Word) :
    (BitVec.ofNat 32 ((cursorAfter len k c + 1) % len.toNat) : Word).toNat = cursorAfter len (k + 1) c := by
  have small := Nat.mod_lt (cursorAfter len k c + 1) hl
  rw [BitVec.toNat_ofNat, Nat.mod_eq_of_lt (lt_trans small len.isLt)]
  unfold cursorAfter
  rw [if_neg (Nat.succ_ne_zero k)]
  split
  case isTrue h => rw [h]
  case isFalse => rw [Nat.mod_add_mod, Nat.add_assoc]

theorem panDelayAfter_cursors {p : PanDelay} (hl : 0 < p.len.toNat) (k : Nat) :
    (panDelayAfter k p).wpt.toNat = cursorAfter p.len k p.wpt ∧
      (panDelayAfter k p).rpt.toNat = cursorAfter p.len k p.rpt := by
  induction k with
  | zero => exact ⟨rfl, rfl⟩
  | succ k ih =>
    obtain ⟨wpt, rpt⟩ := ih
    rw [panDelayAfter_succ]
    unfold panDelayAdvance
    rw [wpt, rpt, (panDelayAfter_fixed k p).2]
    exact ⟨cursorAfter_succ hl k _, cursorAfter_succ hl k _⟩

/-- `w` is the voice `v` after `k` frames. -/
structure AfterFrames (s : State) (v : Voice) (k : Nat) (w : Voice) : Prop where
  src : w.srcBase = v.srcBase + BitVec.ofNat 32 k
  ctrl : w.ctrl = v.ctrl
  rev : w.sendRev = v.sendRev
  cho : w.sendCho = v.sendCho
  dly : w.sendDly = v.sendDly
  pan : w.pdly = if panDelayed s v then panDelayAfter k v.pdly else v.pdly

theorem AfterFrames.panLaw (h : AfterFrames s v k w) : panLaw w = panLaw v := congrArg (fun c : Word => c.toNat / 2 % 4) h.ctrl

theorem AfterFrames.len (h : AfterFrames s v k w) : w.pdly.len = v.pdly.len := by
  rw [h.pan]
  split
  · exact (panDelayAfter_fixed k v.pdly).2
  · rfl

theorem AfterFrames.panDelayed (h : AfterFrames s v k w) : panDelayed s w = panDelayed s v := by
  unfold Claims.panDelayed
  rw [h.panLaw, h.len]

theorem AfterFrames.next (h : AfterFrames s v k w) {u : Voice} (hu : FrameOn s w u) : AfterFrames s v (k + 1) u where
  src := by rw [hu.src, h.src, BitVec.ofNat_add, BitVec.add_assoc]; rfl
  ctrl := hu.ctrl.trans h.ctrl
  rev := hu.rev.trans h.rev
  cho := hu.cho.trans h.cho
  dly := hu.dly.trans h.dly
  pan := by
    rw [hu.pan, panDelayNext, h.panDelayed, h.pan]
    split
    · exact (panDelayAfter_succ k v.pdly).symm
    · rfl

/-- The words of frame `k` of the static routine, as the statement lists them. -/
def mixFrameAccesses (s : State) (v : Voice) (off k : Nat) : List Nat :=
  [(v.srcBase.toNat + k) % 2 ^ 32] ++ (if panLaw v = 3 then [] else sideAccesses s v k (off + k) 0) ++
    (if panLaw v = 2 then [] else sideAccesses s v k (off + k) 1)

theorem AfterFrames.sidedWords_eq (h : AfterFrames s v k w) (f side : Nat) :
    sidedWords s w f side = sideAccesses s v k f side := by
  have delay : sideDelay s w side = sideDelay s v side := by
    unfold sideDelay
    rw [h.panDelayed, h.ctrl]
  have cursors : sideDelay s v side = true →
      (w.pdly.base + w.pdly.rpt).toNat = (v.pdly.base.toNat + cursorAfter v.pdly.len k v.pdly.rpt) % 2 ^ 32 ∧
      (w.pdly.base + w.pdly.wpt).toNat = (v.pdly.base.toNat + cursorAfter v.pdly.len k v.pdly.wpt) % 2 ^ 32 := by
    intro delayed
    obtain ⟨pan, -⟩ := sideDelay_iff.1 delayed
    have len : 0 < v.pdly.len.toNat := by
      have pos := (of_decide_eq_true pan).2.2
      rw [BitVec.toInt_eq_toNat_cond] at pos
      split at pos <;> omega
    obtain ⟨wpt, rpt⟩ := panDelayAfter_cursors len k
    rw [h.pan, if_pos pan, BitVec.toNat_add, BitVec.toNat_add, wpt, rpt, (panDelayAfter_fixed k v.pdly).1]
    exact ⟨rfl, rfl⟩
  unfold sidedWords sideAccesses contributedWords
  dsimp only
  rw [delay, h.rev, h.cho, h.dly]
  simp only [List.append_assoc]
  by_cases delayed : sideDelay s v side = true
  · obtain ⟨rpt, wpt⟩ := cursors delayed
    rw [if_pos delayed, if_pos delayed, if_pos delayed, if_pos delayed, rpt, wpt]
    rfl
  · rw [if_neg delayed, if_neg delayed, if_neg delayed, if_neg delayed]

theorem AfterFrames.framedWords_eq (h : AfterFrames s v k w) (off : Nat) :
    framedWords s w (off + k) = mixFrameAccesses s v off k := by
  have src : w.srcBase.toNat = (v.srcBase.toNat + k) % 2 ^ 32 := by
    rw [h.src, BitVec.toNat_add, BitVec.toNat_ofNat, Nat.add_mod_mod]
  unfold framedWords pannedWords mixFrameAccesses
  rw [src, h.panLaw, h.sidedWords_eq, h.sidedWords_eq, List.append_assoc]

theorem visits_staticFrames (s : State) (v : Voice) (off cnt : Nat) : ∀ (k : Nat) (x : Mixing), Live x →
    AfterFrames s v k x.voice →
    Visits x (staticFrames s cnt (off + k) x) ((List.range' k cnt).flatMap (mixFrameAccesses s v off)) := by
  induction cnt with
  | zero => exact fun _ x _ _ => visits_refl x
  | succ cnt ih =>
    intro k x hx h
    rw [List.range'_succ, List.flatMap_cons, ← h.framedWords_eq, staticFrames]
    exact (visits_framed hx s (off + k)).andNext hx (fun dead => dead_staticFrames s dead _ _) fun live =>
      ih (k + 1) _ live (h.next (frameOn_framed live))

theorem afterFrames_zero (s : State) (v : Voice) : AfterFrames s v 0 v where
  src := (BitVec.add_zero _).symm
  ctrl := rfl
  rev := rfl
  cho := rfl
  dly := rfl
  pan := by
    split
    · rfl
    · rfl

/-- The words of the static routine. -/
theorem follows_staticFrames (s : State) (v : Voice) (off cnt : Nat) :
    Follows s.sramWords (staticFrames s cnt off (mixingOf s v)).words (mixAccesses s v off cnt) := by
  obtain ⟨ws, words, -, follows⟩ :=
    visits_staticFrames s v off cnt 0 (mixingOf s v) (live_mixingOf s v) (afterFrames_zero s v)
  have mixed : mixAccesses s v off cnt = (List.range' 0 cnt).flatMap (mixFrameAccesses s v off) := by
    rw [← List.range_eq_range']
    rfl
  rw [mixed]
  rw [Nat.add_zero] at words
  rw [words]
  exact follows

end Sys2Proof.Proofs
end

section
/-! PROOFS. MIXV halts at its first word outside sample RAM and stores only to words before it (45_mixer.md R600 to
R630; 20_memory.md R152; 60_exceptions.md R806). -/

namespace Sys2Proof.Proofs

open Sys2Proof.Machine Sys2Proof.Claims

-- Proofs elaborated one after another need less memory.
set_option Elab.async false

variable {s : State} {v : Voice} {x : Mixing} {P : Mixing → Prop} {n rd rs1 rs2 : Nat} {xs : List Nat}

/-! ### What every step of a mix keeps -/

/-- The steps a mix consists of keep `P`. -/
structure MixKeeps (P : Mixing → Prop) : Prop where
  noting : ∀ x vs, P x → P (x.noting vs)
  accessing : ∀ x a, P x → P (x.accessing a)
  storing : ∀ x a c, P x → P (x.storing a c)
  turn : ∀ x g, P x → P (x.turn g)

theorem MixKeeps.add (h : MixKeeps P) (hx : P x) (a : Nat) (c : Int) : P (x.add a c) :=
  h.storing _ _ _ (h.noting _ _ (h.accessing _ _ hx))

theorem MixKeeps.send (h : MixKeeps P) (hx : P x) (base level : Word) (f side : Nat) (c : Int) :
    P (x.send base level f side c) := by
  unfold Mixing.send
  split
  · exact hx
  · exact h.add (h.noting _ _ hx) _ _

theorem MixKeeps.contributed (h : MixKeeps P) (hx : P x) (f side : Nat) (c : Int) : P (contributed s f side c x) :=
  h.send (h.send (h.send (h.add hx _ _) _ _ _ _ _) _ _ _ _ _) _ _ _ _ _

theorem MixKeeps.sided (h : MixKeeps P) (hx : P x) (f side : Nat) (sample level : Int) :
    P (sided s f side sample level x) := by
  unfold Claims.sided
  dsimp only
  split
  · exact h.turn _ _ (h.storing _ _ _ (h.contributed (h.accessing _ _ (h.noting _ _ hx)) _ _ _))
  · exact h.contributed (h.noting _ _ hx) _ _ _

theorem MixKeeps.panned (h : MixKeeps P) (hx : P x) (f : Nat) (sample lL lR : Int) :
    P (panned s f sample lL lR x) := by
  have left : P (if panLaw x.voice = 3 then x else Claims.sided s f 0 sample lL x) := by
    split
    · exact hx
    · exact h.sided hx _ _ _ _
  unfold Claims.panned
  dsimp only
  split
  · exact left
  · exact h.sided left _ _ _ _

theorem MixKeeps.sampled (h : MixKeeps P) (hx : P x) : P (sampled x).2 := by
  unfold Claims.sampled
  dsimp only
  exact h.turn _ _ (h.accessing _ _ hx)

theorem MixKeeps.framed (h : MixKeeps P) (hx : P x) (f : Nat) : P (framed s f x) :=
  h.panned (h.turn _ _ (h.sampled hx)) _ _ _ _

theorem MixKeeps.staticFrames (h : MixKeeps P) (cnt : Nat) : ∀ (f : Nat) (x : Mixing), P x →
    P (staticFrames s cnt f x) := by
  induction cnt with
  | zero => exact fun _ _ hx => hx
  | succ cnt ih => exact fun f x hx => ih (f + 1) _ (h.framed hx f)

theorem MixKeeps.signalFrames (h : MixKeeps P) (cnt : Nat) : ∀ (f k : Nat) (x : Mixing), P x →
    P (signalFrames s cnt f k x) := by
  induction cnt with
  | zero => exact fun _ _ x hx => h.turn x _ hx
  | succ cnt ih =>
    intro f k x hx
    have updated : P (controlled s x) := h.turn x _ hx
    unfold Claims.signalFrames
    split
    · exact ih _ _ _ (h.framed hx f)
    · split
      · exact updated
      · exact ih _ _ _ (h.framed updated f)

theorem MixKeeps.dyingFrames (h : MixKeeps P) (iL iR : Int) (cnt : Nat) : ∀ (f : Nat) (lL lR : Int) (x : Mixing), P x →
    P (dyingFrames s iL iR cnt f lL lR x) := by
  induction cnt with
  | zero => exact fun _ _ _ _ hx => hx
  | succ cnt ih =>
    intro f lL lR x hx
    have noted : P (x.noting [lL - iL, lR - iR]) := h.noting x _ hx
    rw [dyingFrames_succ]
    dsimp only
    generalize (if panLaw x.voice = 3 then _ else _ : Int) = level
    split
    · exact noted
    · exact ih _ _ _ _ (h.panned (h.sampled noted) _ _ _ _)

theorem MixKeeps.died (h : MixKeeps P) (hx : P x) (cnt f : Nat) : P (died s cnt f x) := by
  unfold Claims.died
  dsimp only
  exact h.turn _ _ (h.dyingFrames _ _ _ _ _ _ _ (h.noting _ _ hx))

/-! ### Stores -/

/-- Sample RAM differs from that of `s` only at words accessed before the first outside. -/
def StoresVisited (s : State) (x : Mixing) : Prop :=
  x.size = s.sramWords ∧ ∀ a, a ∉ goodWords s.sramWords x.words → x.ram a = ramOf s a

theorem StoresVisited.accessing (h : StoresVisited s x) (a : Nat) : StoresVisited s (x.accessing a) := by
  obtain ⟨size, ram⟩ := h
  by_cases live : Live x
  · rw [accessing_of_live live]
    exact ⟨size, fun b hb => ram b fun hm => hb (goodWords_subset_append hm [a])⟩
  · rw [dead_accessing live]
    exact ⟨size, ram⟩

theorem StoresVisited.storing (h : StoresVisited s x) (a : Nat) (c : Int) : StoresVisited s (x.storing a c) := by
  by_cases live : Live (x.accessing a)
  · obtain ⟨size, ram⟩ := h.accessing a
    rw [storing_of_live live]
    refine ⟨size, fun b hb => ?_⟩
    have visited : a ∈ goodWords s.sramWords (x.accessing a).words := by
      have all : firstBad s.sramWords (x.accessing a).words = none := by
        rw [← size]
        exact live
      rw [goodWords_of_none all, accessing_of_live (live_of_accessing live)]
      exact List.mem_append_right _ (List.mem_singleton.2 rfl)
    have other : b ≠ a := fun hba => hb (hba ▸ visited)
    exact (if_neg other).trans (ram b hb)
  · rw [storing_of_dead live]
    exact h.accessing a

theorem storesVisited_keeps (s : State) : MixKeeps (StoresVisited s) where
  noting x vs h := by
    by_cases live : Live x
    · rw [noting_of_live live]
      exact h
    · rwa [dead_noting live]
  accessing _ a h := h.accessing a
  storing _ a c h := h.storing a c
  turn x g h := by
    by_cases live : Live x
    · rw [turn_of_live live]
      exact h
    · rwa [dead_turn live]

theorem storesVisited_mixingOf (s : State) (v : Voice) : StoresVisited s (mixingOf s v) := ⟨rfl, fun _ _ => rfl⟩

/-! ### Halts -/

theorem satIf_cases (vs : List Int) (st : Word) : satIf vs st = st ∨ satIf vs st = st ||| 1 := by
  unfold satIf
  split
  · exact .inl rfl
  · exact .inr rfl

/-- A mix whose words follow `xs` halts as `xs` says. -/
theorem mixHalts_of_done {o : Host.Outcome State Fault Refusal} (h : MixDone s rd n x o) (hx : StoresVisited s x)
    (hf : Follows s.sramWords x.words xs) : MixHalts s rd n xs o := by
  obtain ⟨t, out, ram, after⟩ := h
  obtain ⟨-, stored⟩ := hx
  obtain ⟨first, before⟩ := hf
  refine ⟨t, x.voice, out, fun b hb => ?_, ?_⟩
  · exact sramByte_of_ramOf ((ram _).trans (stored _ fun hm => hb (before _ hm)))
  · rw [← firstBad, ← first]
    cases bad : firstBad s.sramWords x.words with
    | none =>
      rw [← firstBad, bad] at after
      have status : t.status = satIf x.checks s.status := by rw [after]
      refine ⟨?_, ?_⟩
      · rw [status]
        exact after
      · rw [status]
        exact satIf_cases _ _
    | some a =>
      rw [← firstBad, bad] at after
      have status : t.status = satIf x.checks s.status ||| 16 := by rw [after]
      refine ⟨?_, ?_⟩
      · rw [status]
        exact after
      · rw [status]
        rcases satIf_cases x.checks s.status with sat | sat
        · exact .inl (by rw [sat])
        · refine .inr ?_
          rw [sat, BitVec.or_assoc]
          rfl

theorem mixHalts_static (hv : s.voices[n]? = some v) (h : v.status ≠ .free) (hdie : v.status ≠ .die)
    (hs : v.ctrl.getLsbD 6 = false) (hd : v.delay.toNat ≤ (s.reg rs2).toNat) (hc : s.reg rs2 ≠ 0) :
    MixHalts s rd n (mixAccesses s v ((s.reg rs1).toNat + v.delay.toNat) ((s.reg rs2).toNat - v.delay.toNat))
      (exec (.mixv rd rs1 rs2 n) s) :=
  mixHalts_of_done (mixDone_static hv h hdie hs hc hd)
    ((storesVisited_keeps s).staticFrames _ _ _ (storesVisited_mixingOf s _)) (follows_staticFrames s { v with delay := 0 } _ _)

theorem mixHalts_signal (hv : s.voices[n]? = some v) (h : v.status ≠ .free) (hdie : v.status ≠ .die)
    (hs : v.ctrl.getLsbD 6 = true) (hr : s.controlRatio ≠ 0) (hd : v.delay.toNat ≤ (s.reg rs2).toNat)
    (hc : s.reg rs2 ≠ 0) :
    MixHalts s rd n (signalFrames s ((s.reg rs2).toNat - v.delay.toNat) ((s.reg rs1).toNat + v.delay.toNat) 0
      (mixingOf s { v with delay := 0 })).words (exec (.mixv rd rs1 rs2 n) s) :=
  mixHalts_of_done (mixDone_signal hv h hdie hs hc hr hd)
    ((storesVisited_keeps s).signalFrames _ _ _ _ (storesVisited_mixingOf s _)) (.refl _ _)

theorem mixHalts_die (hv : s.voices[n]? = some v) (h : v.status = .die) (hc : s.reg rs2 ≠ 0) :
    MixHalts s rd n (died s (s.reg rs2).toNat (s.reg rs1).toNat (mixingOf s v)).words (exec (.mixv rd rs1 rs2 n) s) :=
  mixHalts_of_done (mixDone_die hv h hc) ((storesVisited_keeps s).died (storesVisited_mixingOf s _) _ _) (.refl _ _)

end Sys2Proof.Proofs
end

section
/-! PROOFS. FXPROC halts at its first word outside sample RAM and stores only to words before it and to the slot's own
lines (46_effects.md R703, R771; 20_memory.md R152; 60_exceptions.md R806). -/

namespace Sys2Proof.Proofs

open Sys2Proof.Machine Sys2Proof.Claims

-- Proofs elaborated one after another need less memory.
set_option Elab.async false

variable {s u : State} {m m' m'' : Scene} {x y : Slot} {A : Nat → Bool} {i a f rs1 rs2 : Nat} {l l' ws : List Nat}

/-! ### Words of a scene -/

/-- From `m` to `m'` the words `l` are accessed, up to the first outside. -/
def Passes (m m' : Scene) (l : List Nat) : Prop :=
  ∃ ws, m'.words = m.words ++ ws ∧ m'.size = m.size ∧ Follows m.size ws l

theorem passes_of_same (hw : m'.words = m.words) (hs : m'.size = m.size) : Passes m m' [] :=
  ⟨[], hw.trans (List.append_nil _).symm, hs, .refl _ _⟩

theorem ongoing_iff_firstBad (m : Scene) : Ongoing m ↔ firstBad m.size m.words = none := by
  unfold Ongoing Scene.halted
  rw [List.find?_eq_none, List.any_eq_false]

theorem ongoing_of_words (h : Ongoing m) (hw : m'.words = m.words ++ ws) (hs : m'.size = m.size) :
    Ongoing m' ↔ firstBad m.size ws = none := by
  rw [ongoing_iff_firstBad] at h ⊢
  rw [hw, hs, firstBad_append, h]
  exact Iff.rfl

/-- What is accessed next, unless a word was outside. -/
theorem Passes.andNext (hm : Ongoing m) (h : Passes m m' l) (hd : ¬Ongoing m' → m'' = m')
    (hl : Ongoing m' → Passes m' m'' l') : Passes m m'' (l ++ l') := by
  obtain ⟨ws, words, size, follows⟩ := h
  have on := ongoing_of_words hm words size
  by_cases going : Ongoing m'
  · obtain ⟨ws', words', size', follows'⟩ := hl going
    rw [size] at follows'
    exact ⟨ws ++ ws', by rw [words', words, List.append_assoc], size'.trans size, follows.append (on.1 going) follows'⟩
  · rw [hd going]
    exact ⟨ws, words, size, follows.append_of_bad (fun good => going (on.2 good)) l'⟩

theorem ongoing_of_access {use : Scene → Scene} (h : Ongoing (m.access a use)) : Ongoing m := by
  by_contra off
  rw [access_of_halted off] at h
  exact off h

theorem access_of_accessed (hm : Ongoing m) (h : Ongoing (accessed m a)) (use : Scene → Scene) :
    m.access a use = use (accessed m a) := by
  rw [access_of_ongoing hm, if_neg (by rw [show (accessed m a).halted = false from h]; decide)]

theorem access_of_not_accessed (hm : Ongoing m) (h : ¬Ongoing (accessed m a)) (use : Scene → Scene) :
    m.access a use = accessed m a := by
  rw [access_of_ongoing hm, if_pos (eq_true_of_ne_false h)]

theorem passes_access (hm : Ongoing m) {use : Scene → Scene}
    (hu : Ongoing (accessed m a) → Passes (accessed m a) (use (accessed m a)) l) :
    Passes m (m.access a use) ([a] ++ l) := by
  have first : Passes m (accessed m a) [a] := ⟨[a], rfl, rfl, .refl _ _⟩
  refine first.andNext hm (access_of_not_accessed hm · use) fun on => ?_
  rw [access_of_accessed hm on]
  exact hu on

theorem passes_storing (hm : Ongoing m) (a : Nat) (v : Int) : Passes m (m.storing a v) [a] :=
  passes_access (l := []) hm fun _ => passes_of_same rfl rfl

theorem passes_adding (hm : Ongoing m) (a : Nat) (v : Int) : Passes m (m.adding a v) [a] :=
  passes_access (l := []) hm fun _ => passes_of_same rfl rfl

theorem passes_reading (hm : Ongoing m) (base : Word) (f : Nat) :
    Passes m (m.reading base f) [frameAddr base f 0, frameAddr base f 1] :=
  passes_access (l := [_]) hm fun on => passes_access (l := []) on fun _ => passes_of_same rfl rfl

/-- The words of a pair delivered. -/
def deliveredWords (s : State) (bus : FxBus) (f : Nat) : List Nat :=
  [frameAddr s.outBase f 0, frameAddr s.outBase f 1] ++
    if bus = .insert then [] else [frameAddr (inputBase s bus) f 0, frameAddr (inputBase s bus) f 1]

theorem passes_deliveredPair (hm : Ongoing m) (s : State) (bus : FxBus) (f : Nat) (y : Int × Int) :
    Passes m (deliveredPair s bus f y m) (deliveredWords s bus f) := by
  unfold deliveredPair deliveredWords
  dsimp only
  by_cases insert : bus = .insert
  · rw [if_pos insert, if_pos insert]
    exact (passes_storing hm _ _).andNext (l' := [_]) hm (storing_of_halted · _ _) fun on => passes_storing on _ _
  · rw [if_neg insert, if_neg insert]
    have left := passes_adding hm (frameAddr s.outBase f 0) y.1
    have right := left.andNext hm (adding_of_halted · _ _) fun on => passes_adding on (frameAddr s.outBase f 1) y.2
    have drained := right.andNext hm (storing_of_halted · _ _) fun on =>
      passes_storing on (frameAddr (inputBase s bus) f 0) 0
    have cleared := drained.andNext hm (storing_of_halted · _ _) fun on =>
      passes_storing on (frameAddr (inputBase s bus) f 1) 0
    exact cleared

/-- The words of a frame, as the statement lists them. -/
def slotFrameAccesses (s : State) (bus : FxBus) (off k : Nat) : List Nat :=
  [frameAddr (inputBase s bus) (off + k) 0, frameAddr (inputBase s bus) (off + k) 1,
    frameAddr s.outBase (off + k) 0, frameAddr s.outBase (off + k) 1]

/-- A bus pair is accessed again where it is cleared. -/
theorem passes_frame {bus : FxBus} {off k : Nat}
    (h : Passes m m' ([frameAddr (inputBase s bus) (off + k) 0, frameAddr (inputBase s bus) (off + k) 1] ++
      deliveredWords s bus (off + k))) : Passes m m' (slotFrameAccesses s bus off k) := by
  obtain ⟨ws, words, size, follows⟩ := h
  refine ⟨ws, words, size, follows.trans ?_⟩
  unfold deliveredWords slotFrameAccesses
  rw [← List.append_assoc]
  refine follows_again (ws := [_, _, _, _]) _ fun a ha => ?_
  split at ha
  · exact absurd ha List.not_mem_nil
  · exact List.mem_append_left [_, _] ha

theorem passes_after_same (hm : Ongoing m) (hw : m'.words = m.words) (hs : m'.size = m.size)
    (h : Ongoing m' → Passes m' m'' l) : Passes m m'' l := by
  have on : Ongoing m' := by
    unfold Ongoing Scene.halted
    rw [hw, hs]
    exact hm
  exact (passes_of_same hw hs).andNext (l := []) hm (fun off => absurd on off) h

/-! ### Stores -/

/-- Sample RAM differs from that of `s` only at words accessed before the first outside and at the words `A`. -/
def SceneKept (s : State) (A : Nat → Bool) (m : Scene) : Prop :=
  m.size = s.sramWords ∧ ∀ a, a ∉ goodWords s.sramWords m.words → A a = false → m.ram a = ramOf s a

theorem SceneKept.of_same (h : SceneKept s A m) (hw : m'.words = m.words) (hs : m'.size = m.size)
    (hr : ∀ a, A a = false → m'.ram a = m.ram a) : SceneKept s A m' := by
  obtain ⟨size, ram⟩ := h
  refine ⟨hs.trans size, fun a ha own => (hr a own).trans (ram a ?_ own)⟩
  rwa [hw] at ha

theorem SceneKept.access (h : SceneKept s A m) {use : Scene → Scene}
    (hu : SceneKept s A (accessed m a) → Ongoing (accessed m a) → SceneKept s A (use (accessed m a))) :
    SceneKept s A (m.access a use) := by
  by_cases hm : Ongoing m
  · obtain ⟨size, ram⟩ := h
    have kept : SceneKept s A (accessed m a) :=
      ⟨size, fun b hb own => ram b (fun hm => hb (goodWords_subset_append hm [a])) own⟩
    by_cases on : Ongoing (accessed m a)
    · rw [access_of_accessed hm on]
      exact hu kept on
    · rwa [access_of_not_accessed hm on]
  · rwa [access_of_halted hm]

theorem SceneKept.put (h : SceneKept s A (accessed m a)) (on : Ongoing (accessed m a)) (v : Int) :
    SceneKept s A ((accessed m a).put a v) := by
  obtain ⟨size, ram⟩ := h
  refine ⟨size, fun b hb own => ?_⟩
  have all : firstBad s.sramWords (accessed m a).words = none := by
    rw [← size]
    exact (ongoing_iff_firstBad _).1 on
  have visited : a ∈ goodWords s.sramWords (accessed m a).words := by
    rw [goodWords_of_none all]
    exact List.mem_append_right _ (List.mem_singleton.2 rfl)
  exact (put_ne fun hba : b = a => hb (hba ▸ visited)).trans (ram b hb own)

theorem SceneKept.storing (h : SceneKept s A m) (a : Nat) (v : Int) : SceneKept s A (m.storing a v) :=
  h.access fun kept on => kept.put on v

theorem SceneKept.adding (h : SceneKept s A m) (a : Nat) (v : Int) : SceneKept s A (m.adding a v) :=
  h.access fun kept on => kept.put on _

theorem SceneKept.reading (h : SceneKept s A m) (base : Word) (f : Nat) : SceneKept s A (m.reading base f) :=
  h.access fun kept _ => kept.access fun kept _ => kept

theorem SceneKept.deliveredPair (h : SceneKept s A m) (b : State) (bus : FxBus) (f : Nat) (y : Int × Int) :
    SceneKept s A (deliveredPair b bus f y m) := by
  unfold Claims.deliveredPair
  dsimp only
  split
  · exact (h.storing _ _).storing _ _
  · exact (((h.adding _ _).adding _ _).storing _ _).storing _ _

/-! ### Frames of a pass-through slot -/

theorem passes_passedSteps (s : State) (bus : FxBus) (off cnt : Nat) : ∀ (k : Nat) (m : Scene), Ongoing m →
    Passes m (passedSteps s bus cnt (off + k) m) ((List.range' k cnt).flatMap (slotFrameAccesses s bus off)) := by
  induction cnt with
  | zero => exact fun _ m _ => passes_of_same rfl rfl
  | succ cnt ih =>
    intro k m hm
    rw [List.range'_succ, List.flatMap_cons]
    unfold passedSteps
    refine Passes.andNext hm (passes_frame ?_) (passedSteps_of_halted · _ _ _) fun on => ih (k + 1) _ on
    exact (passes_reading hm _ _).andNext hm (deliveredPair_of_halted · _ _ _ _) fun on =>
      passes_deliveredPair on s bus (off + k) _

theorem SceneKept.passedSteps (b : State) (bus : FxBus) (cnt : Nat) : ∀ (f : Nat) (m : Scene), SceneKept s A m →
    SceneKept s A (passedSteps b bus cnt f m) := by
  induction cnt with
  | zero => exact fun _ _ h => h
  | succ cnt ih => exact fun f m h => ih (f + 1) _ ((h.reading _ _).deliveredPair b bus f _)

/-! ### Frames of an engine -/

variable {R : Type} {step : R → Int → Int → Scene → (Int × Int) × R × Scene}
  {frame : R → Int → Int → Cmd (Int × Int × R)} {mk : R → FxRecord} {params : R → FxParams}

/-- A slot that runs: it holds a record whose lines lie in the words `A`, and the scene is a machine's. -/
structure SlotRunning (s : State) (i : Nat) (x : Slot) (A : Nat → Bool) (r : FxRecord) (m : Scene) : Prop where
  holds : SlotHolds s i x r
  lines : ∀ l ∈ recordLines r, LineIn s.sramWords A l
  pictured : ∃ t, Pictures (withRecord s i x r) m t

/-- The engine's part of a frame touches no buffer, and sample RAM only in its own lines. -/
theorem engine_frame (E : EngineRule s step frame mk params) {r : R} (h : SlotRunning s i x A (mk r) m) (xL xR : Int) :
    let w := step r xL xR m
    w.2.2.words = m.words ∧ w.2.2.size = m.size ∧ (∀ a, A a = false → w.2.2.ram a = m.ram a) ∧
      ∀ l ∈ recordLines (mk w.2.1), LineIn s.sramWords A l := by
  obtain ⟨holds, lines, t, ht⟩ := h
  have run := E.paints _ r xL xR m t holds.laid ht
  obtain ⟨same, size, ram⟩ := run.of_runs (E.runs holds.small r xL xR lines) ht
  exact ⟨run.1, size, ram, sameLines_in same lines⟩

theorem SlotRunning.reading {r : FxRecord} (h : SlotRunning s i x A r m) (base : Word) (f : Nat) :
    SlotRunning s i x A r (m.reading base f) := by
  obtain ⟨holds, lines, t, ht⟩ := h
  exact ⟨holds, lines, t, ht.reading base f⟩

/-- The mix of a pair touches no word. -/
theorem blended_same (x g y h : Int) (m : Scene) :
    (blended x g y h m).2.words = m.words ∧ (blended x g y h m).2.size = m.size ∧ (blended x g y h m).2.ram = m.ram :=
  ⟨rfl, rfl, rfl⟩

/-- A frame whose input pair is read: the engine and the mix touch no buffer, and then a pair is delivered. -/
theorem slotStep_parts (E : EngineRule s step frame mk params) {r : R} (h : SlotRunning s i x A (mk r) m) {f : Nat}
    (on : Ongoing (m.reading (inputBase s x.bus) f)) :
    ∃ (y : Int × Int) (mixed : Scene), (slotStep step (params r) s x.bus f r m).2 = deliveredPair s x.bus f y mixed ∧
      mixed.words = (m.reading (inputBase s x.bus) f).words ∧ mixed.size = (m.reading (inputBase s x.bus) f).size ∧
      (∀ a, A a = false → mixed.ram a = (m.reading (inputBase s x.bus) f).ram a) ∧
      ∀ l ∈ recordLines (mk (slotStep step (params r) s x.bus f r m).1), LineIn s.sramWords A l := by
  have engine := engine_frame E (h.reading (inputBase s x.bus) f) (m.ram (frameAddr (inputBase s x.bus) f 0))
    (m.ram (frameAddr (inputBase s x.bus) f 1))
  have frame := slotStep_of_ongoing (step := step) (r := r) (p := params r) on rfl rfl
  dsimp only at engine frame
  rw [frame]
  generalize step r (m.ram (frameAddr (inputBase s x.bus) f 0)) (m.ram (frameAddr (inputBase s x.bus) f 1))
    (m.reading (inputBase s x.bus) f) = w at engine ⊢
  obtain ⟨words, size, ram, lines⟩ := engine
  generalize hL : blended (m.ram (frameAddr (inputBase s x.bus) f 0)) (par (params r) 0) w.1.1 (par (params r) 1) w.2.2 = yL
  generalize hR : blended (m.ram (frameAddr (inputBase s x.bus) f 1)) (par (params r) 0) w.1.2 (par (params r) 1) yL.2 = yR
  obtain ⟨wordsL, sizeL, ramL⟩ := hL ▸ blended_same (m.ram (frameAddr (inputBase s x.bus) f 0)) (par (params r) 0) w.1.1
    (par (params r) 1) w.2.2
  obtain ⟨wordsR, sizeR, ramR⟩ := hR ▸ blended_same (m.ram (frameAddr (inputBase s x.bus) f 1)) (par (params r) 0) w.1.2
    (par (params r) 1) yL.2
  refine ⟨(yL.1, yR.1), yR.2, rfl, wordsR.trans (wordsL.trans words), sizeR.trans (sizeL.trans size), fun a own => ?_, lines⟩
  rw [ramR, ramL]
  exact ram a own

theorem running_slotStep (E : EngineRule s step frame mk params) {r : R} (h : SlotRunning s i x A (mk r) m)
    (hm : Ongoing m) (on : Ongoing (slotStep step (params r) s x.bus f r m).2) :
    SlotRunning s i x A (mk (slotStep step (params r) s x.bus f r m).1) (slotStep step (params r) s x.bus f r m).2 := by
  obtain ⟨holds, lines, t, ht⟩ := id h
  refine ⟨slotHolds_slotStep E holds ht f, ?_, ?_⟩
  · by_cases read : Ongoing (m.reading (inputBase s x.bus) f)
    · obtain ⟨-, -, -, -, -, -, lines'⟩ := slotStep_parts E h read
      exact lines'
    · rw [slotStep_of_halted read]
      exact lines
  · obtain ⟨w, -, after⟩ := (tracks_processFrame E holds hm f rfl t ht).1 ((bad_none_iff _ _).2 on)
    exact ⟨w, after⟩

theorem passes_slotStep (E : EngineRule s step frame mk params) {r : R} {off k : Nat}
    (h : SlotRunning s i x A (mk r) m) (hm : Ongoing m) :
    Passes m (slotStep step (params r) s x.bus (off + k) r m).2 (slotFrameAccesses s x.bus off k) := by
  refine passes_frame ((passes_reading hm (inputBase s x.bus) (off + k)).andNext hm (fun halted => ?_) fun on => ?_)
  · rw [slotStep_of_halted halted]
  · obtain ⟨y, mixed, frame, words, size, -⟩ := slotStep_parts E h on
    rw [frame]
    exact passes_after_same on words size fun going => passes_deliveredPair going s x.bus (off + k) y

theorem kept_slotStep (E : EngineRule s step frame mk params) {r : R} (h : SlotRunning s i x A (mk r) m)
    (hk : SceneKept u A m) (f : Nat) : SceneKept u A (slotStep step (params r) s x.bus f r m).2 := by
  have read := hk.reading (inputBase s x.bus) f
  by_cases on : Ongoing (m.reading (inputBase s x.bus) f)
  · obtain ⟨y, mixed, frame, words, size, ram, -⟩ := slotStep_parts E h on
    rw [frame]
    exact (read.of_same words size ram).deliveredPair s x.bus f y
  · rwa [slotStep_of_halted on]

theorem slotSteps_succ (p : FxParams) (s : State) (bus : FxBus) (cnt f : Nat) (r : R) (m : Scene) :
    slotSteps step p s bus (cnt + 1) f r m =
      slotSteps step p s bus cnt (f + 1) (slotStep step p s bus f r m).1 (slotStep step p s bus f r m).2 := rfl

theorem passes_slotSteps (E : EngineRule s step frame mk params) (off cnt : Nat) : ∀ (k : Nat) (r : R) (m : Scene),
    SlotRunning s i x A (mk r) m → Ongoing m → SceneKept u A m →
    Passes m (slotSteps step (params r) s x.bus cnt (off + k) r m).2
        ((List.range' k cnt).flatMap (slotFrameAccesses s x.bus off)) ∧
      SceneKept u A (slotSteps step (params r) s x.bus cnt (off + k) r m).2 := by
  induction cnt with
  | zero => exact fun _ _ _ _ _ hk => ⟨passes_of_same rfl rfl, hk⟩
  | succ cnt ih =>
    intro k r m h hm hk
    have first := passes_slotStep (off := off) (k := k) E h hm
    have kept := kept_slotStep E h hk (off + k)
    have rest : Ongoing (slotStep step (params r) s x.bus (off + k) r m).2 → _ := fun on =>
      ih (k + 1) _ _ (running_slotStep E h hm on) on kept
    rw [params_slotStep E] at rest
    rw [List.range'_succ, List.flatMap_cons, slotSteps_succ]
    refine ⟨first.andNext hm (fun halted => ?_) fun on => (rest on).1, ?_⟩
    · rw [slotSteps_of_halted halted]
    · by_cases on : Ongoing (slotStep step (params r) s x.bus (off + k) r m).2
      · exact (rest on).2
      · rwa [slotSteps_of_halted on]

/-! ### The command -/

theorem mask_or {k k' : Word} (h : k &&& ~~~(5 : Word) = 0) (h' : k' &&& ~~~(5 : Word) = 0) :
    (k ||| k') &&& ~~~(5 : Word) = 0 := by rw [BitVec.and_or_distrib_right, h, h', BitVec.or_self]

/-- FXPROC sets no flag but SAT and RANGE. -/
theorem sceneFlags (outside : Bool) (checks : List Int) (st : Word) :
    ∃ k : Word, rangeIf outside (satIf checks st) = st ||| k ∧ k &&& ~~~(5 : Word) = 0 := by
  have sat : ∃ k : Word, satIf checks st = st ||| k ∧ k &&& ~~~(5 : Word) = 0 := by
    rcases satIf_cases checks st with h | h
    · exact ⟨0, h.trans BitVec.or_zero.symm, rfl⟩
    · exact ⟨1, h, rfl⟩
  obtain ⟨k, hk, mask⟩ := sat
  rw [hk]
  unfold rangeIf
  split
  · exact ⟨k ||| 4, BitVec.or_assoc .., mask_or mask rfl⟩
  · exact ⟨k, rfl, mask⟩

/-- A scene's command whose words follow `xs` halts as `xs` says. -/
theorem halts_of_sceneDone {mem : Memory} {xs : List Nat} {o : Host.Outcome State Fault Refusal}
    (h : SceneDone (slotState s i mem 0 y) m o) (hf : Follows s.sramWords m.words xs) (hk : SceneKept s A m) :
    ∃ t, o = .next t ∧ (∀ b, b / 4 ∉ goodWords s.sramWords xs → A (b / 4) = false → t.sramByte b = s.sramByte b) ∧
      (∀ a, firstBad s.sramWords xs = some a →
        t = { s with
          status := t.status, sram := t.sram, slots := s.slots.set i y, fatalCause := .badAddr, fatalInfo := s.cmd,
          fatalAddr := BitVec.ofNat 32 a } ∧ ∃ k : Word, t.status = s.status ||| 16 ||| k ∧ k &&& ~~~(5 : Word) = 0) ∧
      (firstBad s.sramWords xs = none →
        t = { s with status := t.status, sram := t.sram, slots := s.slots.set i y, cmdSeq := s.cmdSeq + 1 } ∧
          ∃ k : Word, t.status = s.status ||| k ∧ k &&& ~~~(5 : Word) = 0) := by
  obtain ⟨t, out, ram, after⟩ := h
  obtain ⟨-, kept⟩ := hk
  obtain ⟨first, before⟩ := hf
  have first : (m.words.find? fun a => decide ((slotState s i mem 0 y).sramWords ≤ a)) = firstBad s.sramWords xs := first
  obtain ⟨k, flags, mask⟩ := sceneFlags m.outside m.checks s.status
  rw [first, show (slotState s i mem 0 y).status = s.status from BitVec.or_zero, flags] at after
  refine ⟨t, out, fun b hb own => ?_, fun a bad => ?_, fun good => ?_⟩
  · exact sramByte_of_ramOf ((ram _).trans (kept _ (fun hm => hb (before _ hm)) own))
  · rw [bad] at after
    have status : t.status = s.status ||| k ||| 16 := by rw [after]
    refine ⟨?_, k, ?_, mask⟩
    · rw [status]
      exact after
    · rw [status, BitVec.or_assoc, BitVec.or_assoc, BitVec.or_comm k]
  · rw [good] at after
    have status : t.status = s.status ||| k := by rw [after]
    refine ⟨?_, k, status, mask⟩
    rw [status]
    exact after

theorem slotFrameAccesses_slotState (mem : Memory) (bus : FxBus) (off k : Nat) :
    slotFrameAccesses (slotState s i mem 0 y) bus off k = slotFrameAccesses s bus off k := by cases bus <;> rfl

theorem slotAccesses_eq (mem : Memory) (bus : FxBus) (off cnt : Nat) : slotAccesses s bus off cnt =
    (List.range' 0 cnt).flatMap (slotFrameAccesses (slotState s i mem 0 y) bus off) := by
  rw [← List.range_eq_range', funext (slotFrameAccesses_slotState mem bus off)]
  rfl

theorem follows_of_passes {mem : Memory} {xs : List Nat} (h : Passes (sceneOf (slotState s i mem 0 y)) m xs) :
    Follows s.sramWords m.words xs := by
  obtain ⟨ws, words, -, follows⟩ := h
  rw [words]
  exact follows

theorem sceneKept_start {mem : Memory} (h : Outside A s.sram mem) : SceneKept s A (sceneOf (slotState s i mem 0 y)) := by
  refine ⟨rfl, fun a _ own => congrArg BitVec.toInt ?_⟩
  exact memWord_congr _ _ _ _ fun k h0 h1 => h k (by rw [show k / 4 = a by omega]; exact own)

/-- The frames of a pass-through slot in send mode. -/
theorem done_of_passThrough {mem : Memory} (hi : i < s.slots.length) (hp : passThrough y = true) (hb : y.bus ≠ .insert)
    (out : Outside A s.sram mem) (rs1 rs2 : Nat) :
    ∃ m, SceneDone (slotState s i mem 0 y) m (exec (.fxproc rs1 rs2 i) (slotState s i mem 0 y)) ∧
      Follows s.sramWords m.words (slotAccesses s y.bus (s.reg rs1).toNat (s.reg rs2).toNat) ∧ SceneKept s A m := by
  have passes : hasEngine y = false ∨ y.record = .bypassed := by
    unfold passThrough at hp
    rwa [Bool.or_eq_true, Bool.not_eq_true', beq_iff_eq] at hp
  refine ⟨_, passed_done (List.getElem?_set_self hi) passes hb rs1 rs2, ?_, ?_⟩
  · rw [slotAccesses_eq (i := i) (y := y) mem]
    exact follows_of_passes (passes_passedSteps (slotState s i mem 0 y) y.bus _ _ 0 _ rfl)
  · exact (sceneKept_start out).passedSteps _ _ _ _ _

/-- The frames of a slot that holds an engine's record. -/
theorem done_of_rule {mem : Memory} (E : EngineRule (slotState s i mem 0 y) step frame mk params) (hi : i < s.slots.length)
    {r : R} (hr : y.record = mk r) (he : hasEngine y = true) (hb : y.record ≠ .bypassed) (hn : y.record ≠ .empty)
    (hw : s.sramWords ≤ 2 ^ 24) (lines : ∀ l ∈ recordLines y.record, LineIn s.sramWords A l)
    (out : Outside A s.sram mem) (rs1 rs2 : Nat) :
    ∃ m rec, SceneDone (slotState s i mem 0 { y with record := rec }) m
        (exec (.fxproc rs1 rs2 i) (slotState s i mem 0 y)) ∧
      Follows s.sramWords m.words (slotAccesses s y.bus (s.reg rs1).toNat (s.reg rs2).toNat) ∧ SceneKept s A m := by
  have hy : (slotState s i mem 0 y).slots[i]? = some y := List.getElem?_set_self hi
  have holds : SlotHolds (slotState s i mem 0 y) i y y.record := ⟨hy, he, hw, fun l hl => (lines l hl).ok⟩
  have running : SlotRunning (slotState s i mem 0 y) i y A (mk r) (sceneOf (slotState s i mem 0 y)) := by
    refine ⟨hr ▸ holds, hr ▸ lines, slotState s i mem 0 y, ?_⟩
    rw [← hr, withRecord_same hy]
    exact pictures_sceneOf _
  obtain ⟨passes, kept⟩ := passes_slotSteps (u := s) E (s.reg rs1).toNat (s.reg rs2).toNat 0 r _ running rfl
    (sceneKept_start out)
  have done := framesDone E holds hr hb hn rs1 rs2
  unfold FramesDone at done
  dsimp only at done
  rw [show (slotState s i mem 0 y).slots = s.slots.set i y from rfl, List.set_set] at done
  refine ⟨_, _, done, ?_, kept⟩
  rw [slotAccesses_eq (i := i) (y := y) mem]
  exact follows_of_passes passes

/-- The frames of a slot ready to run that accesses its buffers. -/
theorem done_of_ready {mem : Memory} (hi : i < s.slots.length) (hn : needsInit y = false)
    (hp : ¬(passThrough y = true ∧ y.bus = .insert)) (hw : s.sramWords ≤ 2 ^ 24)
    (lines : ∀ l ∈ recordLines y.record, LineIn s.sramWords A l) (out : Outside A s.sram mem) (rs1 rs2 : Nat) :
    ∃ m rec, SceneDone (slotState s i mem 0 { y with record := rec }) m
        (exec (.fxproc rs1 rs2 i) (slotState s i mem 0 y)) ∧
      Follows s.sramWords m.words (slotAccesses s y.bus (s.reg rs1).toNat (s.reg rs2).toNat) ∧ SceneKept s A m := by
  by_cases passes : passThrough y = true
  · obtain ⟨m, done⟩ := done_of_passThrough hi passes (fun hb => hp ⟨passes, hb⟩) out rs1 rs2
    exact ⟨m, y.record, done⟩
  · have runs : hasEngine y = true ∧ y.record ≠ .bypassed := by
      unfold passThrough at passes
      rw [Bool.or_eq_true, Bool.not_eq_true', beq_iff_eq, not_or, Bool.not_eq_false] at passes
      exact passes
    obtain ⟨he, hb⟩ := runs
    have built : y.record ≠ .empty := fun empty => by
      rw [(needsInit_iff y).2 ⟨empty, he⟩] at hn
      cases hn
    cases hr : y.record with
    | empty => exact absurd hr built
    | bypassed => exact absurd hr hb
    | freeverb r => exact done_of_rule (freeverb_rule _) hi hr he hb built hw lines out rs1 rs2
    | plate r => exact done_of_rule (plate_rule _) hi hr he hb built hw lines out rs1 rs2
    | chorus r => exact done_of_rule (chorus_rule _) hi hr he hb built hw lines out rs1 rs2
    | hexa r => exact done_of_rule (hexa_rule _) hi hr he hb built hw lines out rs1 rs2

theorem engineFresh_ne_bypassed (x : Slot) (ls : List Line) : engineFresh x ls ≠ .bypassed := by
  unfold engineFresh
  split <;> nofun

theorem slotState_slot {mem : Memory} {t : State} (hi : i < s.slots.length) (h : t = slotState s i mem 0 y) :
    t.slots[i]? = some y := by
  rw [h]
  exact List.getElem?_set_self hi

/-- A slot made ready in insert mode that makes no access was quiet. -/
theorem quiet_of_ready {mem : Memory} (hx : s.slots[i]? = some x) (hr : slotRunnable s x = true)
    (run : lazyInit i s = .ok () (slotState s i mem 0 y)) (hp : passThrough y = true ∧ y.bus = .insert) :
    slotQuiet x = true := by
  have hi := slot_lt hx
  have same : ∀ t : State, lazyInit i s = .ok () t → t.slots[i]? = some y := fun t ht => by
    rw [ht] at run
    injection run with _ e
    exact slotState_slot hi e
  obtain ⟨passes, insert⟩ := hp
  unfold passThrough at passes
  unfold slotQuiet
  cases hn : needsInit x with
  | false =>
    have kept := hx.symm.trans (same s (lazyInit_keeps hx hn))
    injection kept with kept
    subst kept
    rw [insert, passes]
    rfl
  | true =>
    have he := ((needsInit_iff x).1 hn).2
    have built := (lazyInit_builds hx hn).trans (buildSlot_run s x i hx he)
    cases hv : engineValid x with
    | false =>
      have bypassed := same _ (built.trans (if_pos hv))
      rw [List.getElem?_set_self hi] at bypassed
      injection bypassed with bypassed
      subst bypassed
      rw [show x.bus = .insert from insert, he]
      exact Bool.or_true _
    | true =>
      unfold slotRunnable at hr
      rw [hn, hv] at hr
      have fresh := same _ (built.trans ((if_neg (by rw [hv]; decide)).trans (if_pos hr)))
      rw [List.getElem?_set_self hi] at fresh
      injection fresh with fresh
      subst fresh
      replace passes : (!hasEngine x || engineFresh x _ == .bypassed) = true := passes
      rw [he, Bool.not_true, Bool.false_or, beq_iff_eq] at passes
      exact absurd passes (engineFresh_ne_bypassed _ _)

/-- FXPROC on any slot that can run and accesses its buffers. -/
theorem fxproc_halts (hx : s.slots[i]? = some x) (hw : s.sramWords ≤ 2 ^ 24) (hr : slotRunnable s x = true)
    (hq : slotQuiet x = false) (rs1 rs2 : Nat) :
    ∃ m y mem, SceneDone (slotState s i mem 0 y) m (exec (.fxproc rs1 rs2 i) s) ∧
      Follows s.sramWords m.words (slotAccesses s x.bus (s.reg rs1).toNat (s.reg rs2).toNat) ∧
      SceneKept s (slotWord s x) m := by
  have hi := slot_lt hx
  obtain ⟨mem, y, ready, hn, out, kept⟩ := lazyInit_ready (A := slotWord s x) hx hw hr fun _ h => h
  have loud : ¬(passThrough y = true ∧ y.bus = .insert) := fun hp => by
    rw [quiet_of_ready hx hr ready hp] at hq
    cases hq
  obtain ⟨m, rec, done, follows, stores⟩ := done_of_ready hi hn loud hw kept.lines out rs1 rs2
  rw [← exec_fxproc_ready hx ready hn] at done
  rw [kept.bus] at follows
  exact ⟨m, { y with record := rec }, mem, done, follows, stores⟩

/-- Settles O23: the routines of MIXV and the engines of FXPROC, access by access, make the words of the statement up to
the first outside sample RAM, and store to no other. -/
theorem bufferAddressHalts : Obligations.BufferAddressHalts := by
  refine ⟨fun s v rd rs1 rs2 n hv h hdie hs hd hc => mixHalts_static hv h hdie hs hd hc,
    fun s v rd rs1 rs2 n hv h hdie hs hr hd hc => mixHalts_signal hv h hdie hs hr hd hc,
    fun s v rd rs1 rs2 n hv h hc => mixHalts_die hv h hc, fun s x rs1 rs2 i hx hw hr hq => ?_⟩
  obtain ⟨m, y, mem, done, follows, stores⟩ := fxproc_halts hx hw hr hq rs1 rs2
  obtain ⟨t, out, bytes, halted, completed⟩ := halts_of_sceneDone done follows stores
  refine ⟨t, y, out, bytes, ?_⟩
  split
  case h_1 a bad => exact halted a bad
  case h_2 good => exact completed good

end Sys2Proof.Proofs
end
